-- ==== Sys2Proof/Word.lean ====
section
/-!
DEFINITION. The word types of the SN9: what the manual treats as bits, and nothing else. Byte order, fields and number
formats are in Machine/Bits.lean and Machine/Num.lean.
-/

namespace Sys2Proof

/-- One byte (01 R15: multi-byte elements are little-endian runs of these). -/
abbrev Byte := BitVec 8

/-- A 16-bit word. -/
abbrev W16 := BitVec 16

/-- A 32-bit word: a count register, a mask, a status word. -/
abbrev W32 := BitVec 32

/-- A 64-bit word: every configuration register (16 R425) and every instruction slot (04 R110). -/
abbrev W64 := BitVec 64

/-- A sparse store of bytes by address, in canonical form (INVENTORY, Memory and ordering). -/
abbrev Bytes := List Host.Cell

/-- A sparse store of values by key: addresses strictly rising, no entry equal to what an unlisted key holds. -/
abbrev Sparse (α : Type) := List (Nat × α)

end Sys2Proof
end

