-- ==== Sys2Proof/Syntax.lean ====
section
/-!
DEFINITION. The commands of the block: one constructor of `Instr` per row of spec/opcode_table.json, with the row's operands.
Fields that an encoding of the manual gives (04 R111–R120) have the encoding's width. Numbers of things outside (a ring, a
port, a tile) are Nat; WellFormed bounds them.
-/

namespace Sys2Proof

/-- The four slots of a bundle (04 R110). -/
inductive Slot where
  | m | v | x | c
  deriving DecidableEq, Repr, Inhabited

/-- The common predicate fields of a slot (04 R111, R112). -/
structure Pred where
  pen : Bool
  pinv : Bool
  psel : BitVec 2
  deriving DecidableEq, Repr, Inhabited

/-- LDS (04 R114): SET, FORM, SRC, HANDLE, LM1. -/
structure LdsOp where
  pred : Pred
  set : Bool
  form : Bool
  src : Bool
  handle : BitVec 9
  lm1 : BitVec 8
  deriving DecidableEq, Repr, Inhabited

/-- MMA (04 R114). `step` is CLASS: false LOOP, true STEP. -/
structure MmaOp where
  pred : Pred
  set : Bool
  opn : Bool
  step : Bool
  handle : BitVec 9
  g : BitVec 8
  nm1 : BitVec 8
  w : BitVec 16
  src : Bool
  deriving DecidableEq, Repr, Inhabited

/-- EWM (04 R114, R115). -/
structure EwmOp where
  pred : Pred
  set : Bool
  opn : Bool
  step : Bool
  handle : BitVec 9
  g : BitVec 8
  k : BitVec 6
  nm1 : BitVec 6
  w : BitVec 16
  src : Bool
  deriving DecidableEq, Repr, Inhabited

/-- DRN (04 R114, R116). -/
structure DrnOp where
  pred : Pred
  handle : BitVec 9
  g : BitVec 8
  nm1 : BitVec 8
  rm : BitVec 3
  sat : Bool
  vb : BitVec 2
  da : BitVec 2
  deriving DecidableEq, Repr, Inhabited

/-- Every V-slot instruction (04 R117): S, D, A, B, C, RM, SAT. -/
structure VecOp where
  pred : Pred
  strict : Bool
  d : BitVec 9
  a : BitVec 9
  b : BitVec 9
  c : BitVec 9
  rm : BitVec 3
  sat : Bool
  deriving DecidableEq, Repr, Inhabited

/-- LD.VB and ST.VB (04 R118); MSEL is 0 for LD.VB. -/
structure VbOp where
  pred : Pred
  sph : BitVec 9
  vbh : BitVec 9
  lm1 : BitVec 8
  msel : BitVec 3
  deriving DecidableEq, Repr, Inhabited

/-- XFER (04 R118). -/
structure XferOp where
  pred : Pred
  src : BitVec 9
  dst : BitVec 9
  lm1 : BitVec 8
  cast : BitVec 2
  deriving DecidableEq, Repr, Inhabited

/-- HBM.RD and HBM.WR (04 R118). -/
structure HbmOp where
  pred : Pred
  hbm : BitVec 9
  sph : BitVec 9
  lm1 : BitVec 8
  deriving DecidableEq, Repr, Inhabited

/-- ATOM.ADD and ATOM.SWAP (04 R118). -/
structure AtomOp where
  pred : Pred
  tgt : BitVec 9
  val : BitVec 9
  ret : BitVec 9
  msel : BitVec 3
  deriving DecidableEq, Repr, Inhabited

/-- IXC (04 R119), one row per IXOP. -/
structure IxOp where
  pred : Pred
  ixe : BitVec 5
  nsel : BitVec 4
  h0 : BitVec 9
  h1 : BitVec 9
  h2 : BitVec 9
  h3 : BitVec 9
  mod : BitVec 4
  deriving DecidableEq, Repr, Inhabited

/-- DG.ST (04 R118). -/
structure DgStOp where
  pred : Pred
  sph : BitVec 9
  da : BitVec 2
  deriving DecidableEq, Repr, Inhabited

/-- LOOP (04 R120, R122). -/
structure LoopOp where
  csel : BitVec 4
  lenm1 : BitVec 12
  rpl : Bool
  vlset : Bool
  vlm1 : BitVec 12
  deriving DecidableEq, Repr, Inhabited

/-- SETCMP (04 R120, R126). -/
structure CmpOp where
  pred : Pred
  j : BitVec 2
  src : Bool
  idx : BitVec 4
  rel : BitVec 3
  imm : BitVec 32
  deriving DecidableEq, Repr, Inhabited

/-- WAIT (04 R120, R129). -/
structure WaitOp where
  flag : BitVec 8
  ths : Bool
  csel : BitVec 4
  imm : BitVec 32
  deriving DecidableEq, Repr, Inhabited

/-- A delivery of the fabric router to the tiles (05 R149): where, what, when it was scheduled and when it came. -/
structure Delivery where
  addr : Nat
  data : List Byte
  sched : Nat
  at_ : Nat
  epoch : BitVec 64
  src : BitVec 8
  retry : Nat
  chunk : Nat
  stallTile : Option Nat
  deriving DecidableEq, Repr, Inhabited

/-- What a tunnelled flit was on the failed link (10 R283): the part that sent it there, its type and its destination. How they travel
is not given. -/
structure Inner where
  src : BitVec 13
  type : BitVec 4
  dest : BitVec 13
  deriving DecidableEq, Repr, Inhabited

/-- The header fields of a flit (10 R265) with its payload and the byte errors of its two codewords (10 R264). -/
structure Flit where
  type : BitVec 4
  seq : BitVec 12
  ackSeq : BitVec 12
  ackV : Bool
  dest : BitVec 13
  stream : BitVec 16
  tseq : BitVec 12
  tport : BitVec 5
  crc : BitVec 32
  payload : List Byte
  /-- byte errors in the codeword of the even bytes, as received -/
  err0 : Nat
  /-- byte errors in the codeword of the odd bytes, as received -/
  err1 : Nat
  /-- of tunnelled data -/
  inner : Option Inner
  deriving DecidableEq, Repr, Inhabited

/-- A leg of a collective (11 R315, R316): header fields, data bytes, trailer. `down` marks a leg that carries the result
from the root to a member (11 R314). -/
structure Leg where
  epoch : BitVec 64
  entry : BitVec 12
  chunk : BitVec 20
  level : BitVec 8
  member : BitVec 13
  data : List Byte
  crc : BitVec 64
  down : Bool
  deriving DecidableEq, Repr, Inhabited

/-- A tensor that a step's layers save for their W-pass (06 R168, 08 R220): tensor ID, whether it is dY, its layer's curvature record and
that layer's entry of the save table. -/
structure SavedTensor where
  tid : Nat
  dy : Bool
  record : Nat
  row : Nat
  deriving DecidableEq, Repr, Inhabited

/-- What a step program names and the manual gives no place for in its image (06 R184, 08 R219, R220; log entry 128): its curvature
records, the layer of each of its tensors, the tensors it saves, its Penumbra slots (first cycle from launch, cycle after the last) and
the work of fixed length in them (first cycle, length). -/
structure StepNames where
  curv : List Nat
  layers : List (Nat × Nat)
  saved : List SavedTensor
  slots : List (Nat × Nat)
  work : List (Nat × Nat)
  deriving DecidableEq, Repr, Inhabited

/-- The lengths in cycles that a program gives a job (07 R193): its probe, its setting up, an iteration, and FIN. A direct method is one
iteration. -/
structure JobTime where
  probe : Nat
  setup : Nat
  iter : Nat
  fin : Nat
  deriving DecidableEq, Repr, Inhabited

/-- A conjugate-gradient solve across a group (07 R212): members, this member, SHAPE, and for each reduction in turn the partials of the
other members, by member. -/
structure SolveGroup where
  n : Nat
  me : Nat
  chain : Bool
  peers : List (List (List Nat))
  deriving DecidableEq, Repr, Inhabited

/-- How a solve job runs: its lengths, and its group where it has one. -/
structure SolveArgs where
  time : JobTime
  group : Option SolveGroup
  deriving DecidableEq, Repr, Inhabited

/-- What came of a line access at an HBM slot (13 R362, R363). -/
inductive HbmOutcome where
  | good | corrected | poisoned | ifaceFail
  deriving DecidableEq, Repr, Inhabited

/-- What a port's training found (10 R276, R277). -/
inductive TrainResult where
  | noLight
  | noLock
  | done (rxBad : BitVec 17) (txBad : BitVec 17) (peerPart : BitVec 13) (peerPort : BitVec 5) (peerPosv : Bool)
  deriving DecidableEq, Repr, Inhabited

/-- The JTAG operations (17 R473). -/
inductive TapOp where
  | bypass | idcode | sample | extest | highz | clamp
  deriving DecidableEq, Repr, Inhabited

/-- A firmware image as the security engine sees it (15 R400): manifest fields and what the checks of its bytes give. -/
structure FwImage where
  magic : BitVec 32
  fmtVer : BitVec 32
  payloadLen : Nat
  svn : Nat
  steppings : BitVec 8
  setFmt : Nat
  version : BitVec 64
  /-- identity of the bytes 0x000–0x04F, the signed part -/
  ident : Nat
  /-- PAYLOAD_HASH, as a number -/
  hash : Nat
  /-- identity of the plaintext payload -/
  payload : Nat
  /-- the AES-256-GCM tag checks -/
  tagOk : Bool
  /-- SIG[0] and SIG[1]: present with the key epoch, or absent -/
  sig0 : Option Nat
  sig1 : Option Nat
  deriving DecidableEq, Repr, Inhabited

/-- A key manifest copy (15 R402): SEQ, CURRENT and two slots (epoch, REVOKED), with whether it verifies under the root key. -/
structure KeyManifest where
  seq : Nat
  current : Nat
  ep0 : Nat
  rev0 : Bool
  ep1 : Nat
  rev1 : Bool
  rootOk : Bool
  deriving DecidableEq, Repr, Inhabited

/-- The commands of the block: one constructor per row of spec/opcode_table.json, in the table's order. -/
inductive Instr where
  | nop (t : Nat) (slot : Slot)
  | lds (t : Nat) (o : LdsOp)
  | mma (t : Nat) (o : MmaOp)
  | ewm (t : Nat) (o : EwmOp)
  | drn (t : Nat) (o : DrnOp)
  | accFlip (t : Nat) (p : Pred)
  | add (t : Nat) (o : VecOp)
  | sub (t : Nat) (o : VecOp)
  | mul (t : Nat) (o : VecOp)
  | fma (t : Nat) (o : VecOp)
  | sqrt (t : Nat) (o : VecOp)
  | rcp (t : Nat) (o : VecOp)
  | rsq (t : Nat) (o : VecOp)
  | div (t : Nat) (o : VecOp)
  | exp2 (t : Nat) (o : VecOp)
  | log2 (t : Nat) (o : VecOp)
  | max (t : Nat) (o : VecOp)
  | min (t : Nat) (o : VecOp)
  | abs (t : Nat) (o : VecOp)
  | neg (t : Nat) (o : VecOp)
  | cpysgn (t : Nat) (o : VecOp)
  | cmpEq (t : Nat) (o : VecOp)
  | cmpNe (t : Nat) (o : VecOp)
  | cmpLt (t : Nat) (o : VecOp)
  | cmpLe (t : Nat) (o : VecOp)
  | cmpGt (t : Nat) (o : VecOp)
  | cmpGe (t : Nat) (o : VecOp)
  | sel (t : Nat) (o : VecOp)
  | iadd (t : Nat) (o : VecOp)
  | isub (t : Nat) (o : VecOp)
  | imul (t : Nat) (o : VecOp)
  | and (t : Nat) (o : VecOp)
  | or (t : Nat) (o : VecOp)
  | xor (t : Nat) (o : VecOp)
  | shl (t : Nat) (o : VecOp)
  | shr (t : Nat) (o : VecOp)
  | sar (t : Nat) (o : VecOp)
  | redAdd (t : Nat) (o : VecOp)
  | redSsq (t : Nat) (o : VecOp)
  | redMax (t : Nat) (o : VecOp)
  | redMin (t : Nat) (o : VecOp)
  | cvt (t : Nat) (o : VecOp)
  | ldVb (t : Nat) (o : VbOp)
  | stVb (t : Nat) (o : VbOp)
  | xfer (t : Nat) (o : XferOp)
  | hbmRd (t : Nat) (o : HbmOp)
  | hbmWr (t : Nat) (o : HbmOp)
  | atomAdd (t : Nat) (o : AtomOp)
  | atomSwap (t : Nat) (o : AtomOp)
  | gth (t : Nat) (o : IxOp)
  | gscAdd (t : Nat) (o : IxOp)
  | segSum (t : Nat) (o : IxOp)
  | segMax (t : Nat) (o : IxOp)
  | segMin (t : Nat) (o : IxOp)
  | sortU32 (t : Nat) (o : IxOp)
  | sortI32 (t : Nat) (o : IxOp)
  | sortF32 (t : Nat) (o : IxOp)
  | walkCsr (t : Nat) (o : IxOp)
  | walkBsp (t : Nat) (o : IxOp)
  | dgSt (t : Nat) (o : DgStOp)
  | loop (t : Nat) (o : LoopOp)
  | setc (t : Nat) (p : Pred) (csel : BitVec 4) (imm : BitVec 32)
  | addc (t : Nat) (p : Pred) (csel : BitVec 4) (imm : BitVec 32)
  | ldc (t : Nat) (p : Pred) (csel : BitVec 4) (handle : BitVec 9)
  | setcmp (t : Nat) (o : CmpOp)
  | skip (t : Nat) (p : Pred) (nm1 : BitVec 12)
  | wait (t : Nat) (o : WaitOp)
  | waitSatisfied (t : Nat)
  | signal (t : Nat) (p : Pred) (flag : BitVec 8) (add : Bool) (imm : BitVec 32)
  | signalLanding (ts : List Nat)
  | setvl (t : Nat) (p : Pred) (vlm1 : BitVec 12)
  | setmsk (t : Nat) (p : Pred) (msel : BitVec 3) (imm : BitVec 32)
  | setrsp (t : Nat) (p : Pred) (vb : BitVec 2) (slot : BitVec 11)
  | dgClr (t : Nat) (p : Pred) (da : BitVec 2)
  | safe (t : Nat)
  | halt (t : Nat)
  | replayLoopEnd (t : Nat)
  | replayReserveEnd (t : Nat)
  | bankTransitionComplete (t : Nat) (bank : Fin 3)
  | elasticStall (t : Nat) (cycles : Nat)
  | routerDelivery (d : Delivery)
  | indexSlotEnd (e : Nat)
  | loadProgram (tag : Nat)
  | unload (tag : Nat)
  | launchAt (tag : Nat)
  | runSteps (tag : Nat) (curv : StepNames)
  | dmaH2d (tag : Nat)
  | dmaD2h (tag : Nat)
  | stateRead (tag : Nat)
  | snapshot (tag : Nat)
  | snapshotTake (tag : Nat)
  | signalDescriptor (tag : Nat)
  | waitDescriptor (tag : Nat)
  | waitDescriptorDone (tag : Nat)
  | collTableLoad (tag : Nat)
  | preempt (tag : Nat)
  | preemptSaveComplete
  | preemptResume
  | abort (tag : Nat)
  | abortAll (tag : Nat)
  | replay (tag : Nat) (s0 : BitVec 64)
  | doorbellSnoop (n : Nat) (stores : Bytes)
  | doorbellPoll (n : Nat) (stores : Bytes)
  | descriptorFetch
  | completionRecordWrite (tag : Nat)
  | pageRequestResponse (port : Bool) (page : Nat) (code : BitVec 4)
  | atsInvalidation (port : Bool) (page : Nat) (deny : Bool)
  | waitCycleCheck
  | ringEnable (n : Nat) (cfg : BitVec 64)
  | ringDisable (n : Nat) (cfg : BitVec 64)
  | qCtailWrite (n : Nat) (v : BitVec 64)
  | faultRespRetry (n : Nat)
  | faultRespAbort (n : Nat)
  | qFlagWrite (i : Nat) (v : BitVec 64)
  | qFlagAdd (i : Nat) (v : BitVec 64)
  | hpOwnWrite (i : Nat) (v : BitVec 64)
  | tbCtrlWrite (v : BitVec 64)
  | tbLeadWrite (v : BitVec 64)
  | tbCollTmoWrite (v : BitVec 64)
  | lnkDisable (n : Nat)
  | lnkRetrain (n : Nat)
  | fltAck (v : BitVec 64)
  | settingsRead
  | settingsWrite
  | repairListRead
  | ssCtrlWrite (v : BitVec 64)
  | ssTailWrite (v : BitVec 64)
  | registerWrite (port : Bool) (off : Nat) (size : Nat) (v : BitVec 64)
  | apertureWrite (port : Bool) (off : Nat) (data : List Byte)
  | apertureRead (port : Bool) (off : Nat) (len : Nat)
  | countTick
  | timeTransferExchange (t1 : Int)
  | timeTransferRequest (port : Nat) (t2 t3 : Int)
  | timeTransferReply (port : Nat) (t2 t3 t4 : Int) (rootCount : Nat)
  | holdoverEntry
  | timePpsEdge
  | ppsLost
  | refLost
  | readyMessage (part : Nat) (clk : Nat)
  | launchDeadline
  | goAnnouncement (c : Nat) (coord : Nat)
  | cancelAnnouncement (coord : Nat) (clocks : List (Nat × Nat))
  | goCountReached
  | pauseAnnouncement (p : Nat) (coord : Nat)
  | pauseCountReached
  | resumeAnnouncement (q : Nat)
  | resumeCountReached
  | stopAnnouncement (c : Nat) (coord : Nat) (status : BitVec 8) (pre : Bool)
  | stopCountReached
  | routerDrainComplete
  | legReceive (port : Nat) (l : Leg)
  | legConfirm (entry chunk level member : Nat)
  | legRerequest (entry chunk level member : Nat)
  | collectiveTimeout (entry : Nat)
  | flitTransmit (n : Nat)
  | dataFlit (n : Nat) (f : Flit)
  | controlFlit (n : Nat) (f : Flit)
  | idleFlit (n : Nat) (f : Flit)
  | nak (n : Nat) (f : Flit)
  | tunnelledData (n : Nat) (f : Flit)
  | failureNotice (n : Nat) (f : Flit) (part : Nat) (port : Nat)
  | laneMap (n : Nat) (f : Flit) (lane : Nat)
  | retryTimerExpiry (n : Nat)
  | retryBudgetExpiry (n : Nat)
  | laneLossOfLock (n : Nat) (lane : Nat)
  | laneErrorWindow (n : Nat) (lane : Nat) (bad total : Nat)
  | laneRemapComplete (n : Nat)
  | lightWarn (engine : Fin 4)
  | lightFail (engine : Fin 4)
  | lightRestored (engine : Fin 4)
  | linkTrainingComplete (n : Nat) (r : TrainResult)
  | hbmSlot (stack pch : Nat) (frame k : Nat) (o : HbmOutcome)
  | hbmReadDelivery
  | refreshFrame (stack pch : Nat) (frame : Nat)
  | odeccPoll
  | freeRunEntry (die : Bool)
  | freeRunExit (die : Bool)
  | backgroundTestSlot (t : Nat) (differs : Bool)
  | stepIntake
  | stepReplaySection
  | sectionStart (sect : BitVec 3)
  | gradientQuantisation (urec : Nat) (dw : Nat)
  | normDecision (sumSq : List (BitVec 64))
  | updateSweep
  | shadowFrameEmit
  | stepEnd
  | rootJob (record : Nat) (blk : Nat) (fits : JobTime)
  | rootDeadline (record : Nat) (blk : Nat)
  | rootCommit (record : Nat) (blk : Nat)
  | precondition (record : Nat) (urec : Nat) (optRec : Nat)
  | solveJob (record : Nat) (fits : SolveArgs)
  | digestCollection (layer mb tid kind : Nat) (parts : List Nat) (len : Nat)
  | ownerDigestWrite (tid : Nat) (len : Nat)
  | weightStreamCheck (layer tid : Nat) (len : Nat)
  | shadowFrameHeader (bytes : List Byte)
  | shadowSegment (bytes : List Byte)
  | shadowFrameTrailer (bytes : List Byte)
  | tileFault (t : Nat)
  | handshakeTimeout (t : Nat)
  | recoveryRemap
  | restoreFromReplayPoint
  | recoveryFetch (peer : Nat) (addr len : Nat)
  | catchUpPoint
  | replayRecordComplete (idx : Nat)
  | partLoss (part : Nat)
  | thermalSample (temps : List Int)
  | thermtrip
  | pwrgdLoss
  | sysclkLoss
  | auxPowerLoss
  | avsAdjust (mv : Nat) (ok : Bool)
  | avsRetry (ok : Bool)
  | vcoreOutOfRange
  | sysRstAssert
  | sysRstDeassert (strap : BitVec 4) (loaderOk : Bool)
  | pwrgdAllAssert
  | pwrgdTimeout
  | hbmTrainingComplete (stack : Fin 8) (ok : Bool)
  | bootScrub
  | readyAssert
  | perstAssert (port : Bool)
  | perstDeassert (port : Bool)
  | confirm
  | confirmTimeout
  | watchdogReset
  | eraseSuspend
  | xipBusFault (task : Nat)
  | setEndpointId (bus : Bool) (eid : BitVec 8)
  | getEndpointId (bus : Bool)
  | getEndpointUuid (bus : Bool)
  | getMctpVersionSupport (bus : Bool) (type : BitVec 8)
  | getMessageTypeSupport (bus : Bool)
  | getTid (bus : Bool)
  | setTid (bus : Bool) (tid : BitVec 8)
  | getPldmVersion (bus : Bool) (type : BitVec 8)
  | getPldmTypes (bus : Bool)
  | getPldmCommands (bus : Bool) (type : BitVec 8)
  | getPdrRepositoryInfo (bus : Bool)
  | getPdr (bus : Bool) (handle : BitVec 32)
  | getSensorReading (bus : Bool) (sensor : Nat)
  | getStateSensorReadings (bus : Bool) (sensor : Nat)
  | setEventReceiver (bus : Bool) (enable : BitVec 8) (eid : BitVec 8)
  | platformEventMessage (bus : Bool) (cls : BitVec 8)
  | queryDeviceIdentifiers (bus : Bool)
  | getFirmwareParameters (bus : Bool)
  | requestUpdate (bus : Bool) (maxTransfer : Nat)
  | passComponentTable (bus : Bool) (component : Nat)
  | updateComponent (bus : Bool) (component : Nat) (size : Nat)
  | requestFirmwareData (bus : Bool) (off : Nat) (len : Nat)
  | transferComplete (bus : Bool) (image : FwImage) (keys : Option KeyManifest)
  | verifyComplete (bus : Bool)
  | applyComplete (bus : Bool) (readBackOk : Bool)
  | activateFirmware (bus : Bool) (self : Bool)
  | getStatus (bus : Bool)
  | cancelUpdateComponent (bus : Bool)
  | cancelUpdate (bus : Bool)
  | vddAux33PowerOn
  | sysclkStable
  | time10mEdge
  | flashOperationEnd
  | tapInstruction (op : TapOp) (balls : List (Nat × Bool))
  deriving DecidableEq, Repr, Inhabited

end Sys2Proof
end

