-- ==== Sys2Proof/Decode.lean ====
section
/-!
DEFINITION. The command a word spells by the bits of spec/opcode_table.json. No row of that table gives bits: the commands
reach the part as descriptors, registers, flits, pins and instruction slots, each with an encoding of its own (the slots of a
bundle, 04 R110–R120, are decoded in Machine/SlotWords.lean). So no word spells a command.
-/

namespace Sys2Proof

/-- The command that a word spells by the table's bits: none, for every word. -/
def decodeTableWord (_nbits _w : Nat) : Option Instr := none

end Sys2Proof
end

