-- ==== Sys2Proof/Config.lean ====
section
/-!
DEFINITION. What the manual leaves open, as constants with no body: nothing in Lean can evaluate them or prove a value of
them, so a claim that holds, holds for every value. Each is named in a log entry.
-/

namespace Sys2Proof.Config

/-- Fresh free values, one for each value of the counter State.free (log entry 3). -/
opaque freeValue : Nat → BitVec 64

/-- Which of the results within the bound a FAST reciprocal takes: a fixed function of format and operand bits
(01 R30 row 5, R31; log entry 7). -/
opaque fastRcp : Nat → Nat → Int

/-- As fastRcp, for the FAST reciprocal square root (01 R30 row 5). -/
opaque fastRsq : Nat → Nat → Int

/-- As fastRcp, for the FAST division of two operands (01 R30 row 5). -/
opaque fastDiv : Nat → Nat → Nat → Int

/-- The result bits of EXP2 as a function of format and operand bits, both modes (03 R88: at most 2 ulp; log entry 7). -/
opaque exp2 : Nat → Nat → Nat

/-- The result bits of LOG2 as a function of format and operand bits (03 R88; log entry 7). -/
opaque log2 : Nat → Nat → Nat

/-- The integer that an empty segment of a segmented maximum or minimum yields: the manual states none (03 R102; log entry 19).
Arguments: IXOP, format code. -/
opaque emptySegment : Nat → Nat → Nat

/-- The tile of a job group on which a row of a job's matrix lies (07 R191, R198, R205): the manual gives the group's size, not
the split of the work (log entry 53). Arguments: record address, block index, row. -/
opaque jobTile : Nat → Nat → Nat → Nat

/-- The layer of a tensor: the manual numbers layers and tensors and gives no map from one to the other (05 R157, 08 R234; log entry
51). Arguments: program ID, tensor ID. -/
opaque layerOf : Nat → Nat → Nat

/-- The W-pass tiles of a program's layers: each layer's curvature record and the tiles on which its W-pass accumulates. The manual gives
them no place in the image (06 R176; log entry 68). Argument: the bytes of the image. -/
opaque wpass : List (BitVec 8) → List (Nat × List Nat)

/-- The Householder reflector of a column: its vector, its scale and the diagonal element of R. The manual gives no formula (07 R207; log
entry 40). -/
opaque reflector : List Nat → List Nat × Nat × Nat

/-- The member of a group on which a camera of a conjugate-gradient solve lies: the manual gives no split (07 R212; log entry 133).
Arguments: record address, camera. -/
opaque solveShare : Nat → Nat → Nat

/-- What a solve job gives where the manual states no formula: the residual of KIND 2 and of a KIND 3 without an iterate (07 R211, R212;
log entry 40). Arguments: the words of the record and of its operands, and an index. -/
opaque solveWord : List Nat → Nat → BitVec 64

/-- Whether a signature over an image header verifies under the key of a slot epoch: ECDSA P-384 (15 R400; log entry 30).
Arguments: image identity, key epoch. -/
opaque sigVerifies : Nat → Nat → Bool

/-- SHA-384 of a payload (15 R400; log entry 30), as a number. -/
opaque sha384 : Nat → Nat

/-- Contents of an MCTP or PLDM response that DMTF standards and the board define and the manual does not give
(15 R419; log entry 31). Arguments: command row, selector, and the free counter where the contents change with time. -/
opaque pldmData : Nat → Nat → Nat → List (BitVec 8)

/-- Default base addresses of the digest-log, late-arrival and provenance rings and of the fault log, in Lantern's reserved
HBM (16 R440, R442; log entry 2). -/
opaque defaultBase : Nat → BitVec 64

/-- The board's level on a boundary-scan ball at a scan (17 R473; log entry 6). Arguments: the free counter, the ball. -/
opaque ballLevel : Nat → Nat → Bool

/-- The path of an on-chip transfer between two logical tiles: link number and cycle offset from the send, for each hop. The
manual gives its length (05 R143), not its links (log entry 20). -/
opaque route : Nat → Nat → List (Nat × Nat)

/-- The bank of a pseudo-channel in which an HBM line lies: 13 R355 gives no bank bits (log entry 46). -/
opaque hbmBank : Nat → Nat

/-- The 24 parity bytes of a codeword's 136 data bytes: the manual names RS(160,136) over GF(2^8) and neither its field polynomial nor
its generator (10 R264; log entry 125). -/
opaque rsParity : List (BitVec 8) → List (BitVec 8)

/-- The payload of a control flit that carries an announcement or a message; the manual gives no layout (10 R265, 11 R296; log entry
23). -/
opaque controlBytes : List Nat → List (BitVec 8)

/-- The value of settings key 0x0006: the manual names what the repair list holds, not its form (16 R443; log entry 60).
Arguments: FAILED masks by half-row; repairs as physical tile, bank, row. -/
opaque repairList : Sparse (BitVec 17) → List (Nat × Nat × Nat) → List Byte

end Sys2Proof.Config
end

