-- ==== Sys2Proof/Machine/State.lean ====
section
/-!
DEFINITION. The state of one SN9 part as plain data, the reasons a step can stop, and the state after reset. Every field is
a line of INVENTORY.md, State, with its rule and reset value.
-/

namespace Sys2Proof.Machine

/-! ### Tiles -/

/-- An accumulator entry (02 R57): V and the four side flags. -/
structure AccEntry where
  v : BitVec 128
  nz : Bool
  nan : Bool
  pinf : Bool
  ninf : Bool
  deriving DecidableEq, Repr, Inhabited

/-- A running hardware loop (04 R122, R125): first and last bundle of the body, iterations, LI, replay attribute, executions
of a replay loop (02 R66), program cycle of its start and length of one execution (02 R68). -/
structure LoopFrame where
  first : Nat
  last : Nat
  count : Nat
  iter : Nat
  rpl : Bool
  execs : Nat
  start : Nat
  len : Nat
  deriving DecidableEq, Repr, Inhabited

/-- A comparator (04 R126, 16 R447). -/
structure Comparator where
  conf : Bool
  imm : BitVec 32
  rel : BitVec 3
  src : Bool
  idx : BitVec 4
  deriving DecidableEq, Repr, Inhabited

/-- What a tile sequencer is doing (04 R109, R129; 02 R66, R68; 11 R300). -/
inductive TileRun where
  /-- no section runs -/
  | idle
  /-- bundles issue -/
  | running
  /-- a WAIT holds the bundle -/
  | waiting
  /-- an instruction of the bundle needs a network input that has not arrived: nothing of the tile issues (05 R147) -/
  | stalled
  /-- held at a safe point for a SNAPSHOT since a count (12 R350) -/
  | atSafe (since : Nat)
  /-- at the end of a replay-loop execution, waiting for the last accumulator update -/
  | replayEnd
  /-- the replay loop is done, idling until its reserve ends -/
  | reserve
  /-- the section ended -/
  | halted
  /-- stopped by a coordinated stop -/
  | stopped
  deriving DecidableEq, Repr, Inhabited

/-- The sequencer of a tile (04 R138–R140). LI, the loop counters and P are computed from `loops` and `cmp`. -/
structure TileSeq where
  run : TileRun
  sect : BitVec 3
  bundle : Nat
  loops : List LoopFrame
  cnt : Sparse W32
  cmp : Sparse Comparator
  vl : Nat
  msk : Sparse W32
  rsp : Sparse Nat
  skip : Nat
  /-- a held WAIT: flag, threshold, TB_COUNT of its first observation (04 R129) -/
  wait : Option (Nat × BitVec 64 × Nat)
  cycle : Nat
  /-- cycles by which the tile's issue lags its schedule: stalls, held WAITs, replay overruns and pauses since the section started
  (04 R130) -/
  shift : Nat
  /-- cycles by which late inputs have delayed the tile since the launch (07 R192) -/
  lag : Nat
  /-- the program cycle at which the section started -/
  origin : Nat
  /-- the end of the last accumulator update of this execution of a replay loop (02 R66) -/
  land : Nat
  /-- a stalled M slot: the link input it needs and, line by line, how long after its issue it needs it (05 R147) -/
  need : Option (Nat × List Nat)
  /-- an LDC value on its way: count register and value (04 R121) -/
  ldc : Option (Nat × W32)
  deriving DecidableEq, Repr, Inhabited

/-- The counters of a tile (05 R150; 02 R79; 03 R94), 32 bits each. -/
structure TileCtr where
  late : Nat
  wait : Nat
  replay : Nat
  pause : Nat
  replays : Nat
  satEntries : Nat
  overrun : Nat
  accEcc : Nat
  spEcc : Nat
  deriving DecidableEq, Repr, Inhabited

/-- The states of a power bank (13 R365). -/
inductive BankState where
  | on | retain | off
  deriving DecidableEq, Repr, Inhabited

/-- A power bank: its state and the target of a transition in progress (13 R366). -/
structure Bank where
  state : BankState
  target : Option BankState
  deriving DecidableEq, Repr, Inhabited

/-- An atomic from another tile on its way to this tile's bank (03 R95, R96): its first port cycle, byte address, SWAP or ADD, the
target's format, mask, value elements, and where the old values return: tile and byte offset in its vector buffers. -/
structure RemoteAtom where
  cycle : Nat
  addr : Nat
  swap : Bool
  fmt : Nat
  mask : W32
  vals : List Nat
  ret : Option (Nat × Nat)
  deriving DecidableEq, Repr, Inhabited

/-- A line on a link input (05 R143, R146): the tile that sent it, the cycles since the section's start in which it was sent and
in which it arrives, its bytes. -/
structure LinkLine where
  src : Nat
  sent : Nat
  arr : Nat
  line : List Byte
  deriving DecidableEq, Repr, Inhabited

/-- One logical tile. -/
structure Tile where
  sp : Bytes
  spErr : Sparse Nat
  vb : Bytes
  sets : Bytes
  setFmt : Sparse Nat
  /-- tensor ID + 1 of the LDS that last filled each stationary set (06 R168) -/
  setTid : Sparse Nat
  /-- row groups of Gram spans that this step does not run (06 R178) -/
  idle : List Nat
  acc : Sparse AccEntry
  accErr : Sparse Nat
  rgw : Sparse W32
  blkLen : Sparse Nat
  fillHalf : Bool
  istore : Sparse (BitVec 256)
  dstore : Sparse (BitVec 512)
  da : Sparse Nat
  flags : W32
  /-- lines on the link inputs, in order of arrival (05 R143, R146) -/
  links : Sparse (List LinkLine)
  /-- atomics of other tiles whose port cycles are still to come, in their order (03 R96) -/
  atoms : List RemoteAtom
  seq : TileSeq
  ctr : TileCtr
  bankSp : Bank
  bank0 : Bank
  bank1 : Bank
  testPtr : Nat
  /-- scratchpad port cycles taken and not yet past: program cycle and user code (03 R92) -/
  port : List (Nat × Nat)
  /-- program cycle at whose start the tile stops (03 R93, 04 R135, 11 R300) -/
  stopAt : Option Nat
  deriving DecidableEq, Repr, Inhabited

/-- A bank that is ON with no transition (13 R369, R377). -/
def Bank.resetOn : Bank := { state := .on, target := none }

/-- The sequencer after reset (04 R138): idle, everything zero; VL as a load sets it (log entry 2). -/
def TileSeq.reset : TileSeq :=
  { run := .idle, sect := 0, bundle := 0, loops := [], cnt := [], cmp := [], vl := 64, msk := [], rsp := [], skip := 0,
    wait := none, cycle := 0, shift := 0, lag := 0, origin := 0, land := 0, need := none, ldc := none }

/-- The counters after reset (05 R167, 02 R79, 03 R105). -/
def TileCtr.reset : TileCtr :=
  { late := 0, wait := 0, replay := 0, pause := 0, replays := 0, satEntries := 0, overrun := 0, accEcc := 0, spEcc := 0 }

/-- A tile after reset (02 R79, 03 R105, 04 R138, 13 R377). -/
def Tile.reset : Tile :=
  { sp := [], spErr := [], vb := [], sets := [], setFmt := [], setTid := [], idle := [], acc := [], accErr := [], rgw := [], blkLen := [],
    fillHalf := false, istore := [], dstore := [], da := [], flags := 0, links := [], atoms := [], seq := TileSeq.reset,
    ctr := TileCtr.reset, bankSp := Bank.resetOn, bank0 := Bank.resetOn, bank1 := Bank.resetOn, testPtr := 0, port := [], stopAt := none }

/-! ### Index engines -/

/-- An operand of an index-engine command, resolved when it issues (04 R119): whether it is in HBM, else the tile; byte
address; format; elements per row; bytes up to the end of its extent; elements in its logical row; null handle? -/
structure IxOperand where
  hbm : Bool
  tile : Nat
  addr : Nat
  fmt : Nat
  width : Nat
  room : Nat
  lrow : Nat
  null : Bool
  deriving DecidableEq, Repr, Inhabited

/-- A command in an index engine's slot (03 R97): IXOP, issuing tile with its bundle and handles (for the record of 04 R135),
bound N, operands, MOD, block dimensions word. -/
structure IxCmd where
  op : Nat
  tile : Nat
  bundle : Nat
  handles : List (BitVec 9)
  bound : Nat
  h0 : IxOperand
  h1 : IxOperand
  h2 : IxOperand
  h3 : IxOperand
  mod : Nat
  dims : Nat
  deriving DecidableEq, Repr, Inhabited

/-- An index engine (16 R448). -/
structure IxEngine where
  flags : W32
  oor : Nat
  count : Nat
  cmd : Option IxCmd
  /-- the tile that issued the command in the slot, or the last one (05 R151) -/
  tile : Nat
  deriving DecidableEq, Repr, Inhabited

/-- An index engine after a program load (03 R105). -/
def IxEngine.reset : IxEngine := { flags := 0, oor := 0, count := 0, cmd := none, tile := 0 }

/-! ### HBM -/

/-- How far a line access of the plan has come (13 R358, R359, R479). -/
inductive AccessState where
  | assigned | issued | withdrawn | served
  deriving DecidableEq, Repr, Inhabited

/-- A line access with an assigned slot (13 R357, R358): the tile, the index engine of an IXC, the section, bundle, position in the
issue sequence and line that issue it, the HBM line address, the scratchpad address, the assigned frame and slot, the cycle from
launch in which it became eligible (the planned one until it issues), and the data of a write once issued. -/
structure Access where
  tile : Nat
  engine : Option Nat
  sect : Nat
  bundle : Nat
  pos : List Nat
  line : Nat
  write : Bool
  hbm : Nat
  sp : Nat
  frame : Nat
  slot : Nat
  elig : Nat
  state : AccessState
  data : List Byte
  fails : Nat
  /-- of a line of a plane-packed saved tensor: its slot's address and exponent width (08 R221) -/
  save : Option (Nat × Nat)
  deriving DecidableEq, Repr, Inhabited

/-- A read line on its way into a scratchpad (13 R357). -/
structure LineDelivery where
  tile : Nat
  sp : Nat
  data : List Byte
  poisoned : Bool
  deriving DecidableEq, Repr, Inhabited

structure Hbm where
  mem : Bytes
  poison : List Nat
  odecc : Sparse Nat
  cecc : Sparse Nat
  dead : Sparse W64
  sppr : Sparse Nat
  rowFix : Sparse Nat
  plan : List Access
  deliver : List LineDelivery
  refreshed : Sparse Nat
  freeRun0 : Bool
  freeRun1 : Bool
  deriving DecidableEq, Repr, Inhabited

def Hbm.reset : Hbm :=
  { mem := [], poison := [], odecc := [], cecc := [], dead := [], sppr := [], rowFix := [], plan := [],
    deliver := [], refreshed := [], freeRun0 := false, freeRun1 := false }

/-! ### Pins, power, boot, JTAG -/

structure Pins where
  aux : Bool
  sysRst : Bool
  mainEn : Bool
  pwrgd : Bool
  ready : Bool
  thermAlert : Bool
  thermTrip : Bool
  faultForced : Bool
  perstA : Bool
  perstB : Bool
  strap : BitVec 4
  deriving DecidableEq, Repr, Inhabited

def Pins.reset : Pins :=
  { aux := true, sysRst := false, mainEn := false, pwrgd := false, ready := false, thermAlert := false, thermTrip := false,
    faultForced := false, perstA := false, perstB := false, strap := 0b0111 }

/-- How far a start has come (15 R405–R410, 17 R458–R467). -/
inductive BootPhase where
  /-- SYS_RST_N is low -/
  | inReset
  /-- the loader failed its check: only MCTP control answers (15 R405) -/
  | romHalted
  /-- recovery boot (15 R410) -/
  | recovery
  /-- MAIN_EN asserted, waiting for PWRGD_ALL -/
  | mainRequested
  /-- boot phases of 15 R408 run -/
  | booting
  /-- memories scrubbed (13 R364) -/
  | scrubbed
  /-- READY -/
  | up
  /-- main power or clock lost until the next SYS_RST_N -/
  | down
  deriving DecidableEq, Repr, Inhabited

structure Power where
  phase : BootPhase
  strapHeld : BitVec 4
  hbmTrained : Sparse Bool
  hbmRetries : Sparse Nat
  noRetry : Bool
  deferred : List (Nat × Nat)
  sensors : Sparse Int
  coolSince : Option Nat
  thermPause : Bool
  vcore : Nat
  avsFails : Nat
  avsStopped : Bool
  avsLast : Nat
  sysclk : Bool
  procs : Bool
  deriving DecidableEq, Repr, Inhabited

def Power.reset : Power :=
  { phase := .inReset, strapHeld := 0, hbmTrained := [], hbmRetries := [], noRetry := false, deferred := [], sensors := [],
    coolSince := none, thermPause := false, vcore := 780, avsFails := 0, avsStopped := false, avsLast := 0, sysclk := false,
    procs := false }

structure Tap where
  ir : TapOp
  dr : BitVec 32
  balls : List (Nat × Bool)
  hiz : Bool
  deriving DecidableEq, Repr, Inhabited

def Tap.reset : Tap := { ir := .idcode, dr := 0, balls := [], hiz := false }

/-- What is fused or fixed in the part (16 R430, 15 R402): grade (true = B14), stepping (true = B0), serial number, AVS
target. -/
structure Fuses where
  b14 : Bool
  b0 : Bool
  serial : BitVec 128
  vcoreTarget : Nat
  deriving DecidableEq, Repr, Inhabited

def Fuses.reset : Fuses := { b14 := false, b0 := true, serial := 0, vcoreTarget := 780 }

/-! ### Global and host-port blocks -/

structure Gbl where
  prog : BitVec 2
  paused : Bool
  restricted : Bool
  retired : Bool
  recovery : Bool
  partId : W64
  step : W64
  rstCause : BitVec 5
  progId : W64
  clk : Nat
  viewA : Bool
  viewB : Bool
  deriving DecidableEq, Repr, Inhabited

def Gbl.reset : Gbl :=
  { prog := 0, paused := false, restricted := false, retired := false, recovery := false, partId := 0, step := 0,
    rstCause := 0b00001, progId := 0, clk := 0, viewA := false, viewB := false }

/-- A host port (16 R432, 12 R342, R353). -/
structure HostPort where
  rate : BitVec 3
  width : BitVec 2
  cxl : Bool
  up : Bool
  aper : BitVec 9
  lost : Nat
  tcache : List Nat
  mem : Bytes
  denied : List Nat
  deriving DecidableEq, Repr, Inhabited

def HostPort.reset : HostPort :=
  { rate := 0, width := 0, cxl := false, up := false, aper := 0, lost := 0, tcache := [], mem := [], denied := [] }

/-! ### Queues -/

structure WorkRing where
  base : W64
  db : W64
  cfg : W64
  head : Nat
  prod : Nat
  cfgErr : Bool
  dbErr : Bool
  noSnoop : Bool
  wcyc : Bool
  xfault : Bool
  waiting : Bool
  snoopLine : Bool
  /-- a page request for the host address of its descriptor or doorbell is out (12 R342) -/
  faultAt : Option Nat
  deriving DecidableEq, Repr, Inhabited

def WorkRing.reset : WorkRing :=
  { base := 0, db := 0, cfg := 0, head := 0, prod := 0, cfgErr := false, dbErr := false, noSnoop := false, wcyc := false,
    xfault := false, waiting := false, snoopLine := false, faultAt := none }

structure CompRing where
  base : W64
  cfg : W64
  chead : Nat
  ctail : Nat
  cstall : Nat
  deriving DecidableEq, Repr, Inhabited

def CompRing.reset : CompRing := { base := 0, cfg := 0, chead := 0, ctail := 0, cstall := 0 }

/-- How far an operation has come (00 R12, 12 R337, R343). -/
inductive OpPhase where
  /-- fetched, not started -/
  | fetched
  /-- started and running (a WAIT that waits, a run in progress, a DMA under way) -/
  | started
  /-- a Held record waits to be written, with this status and RESULT -/
  | holding (status : BitVec 8) (result : BitVec 64)
  /-- Held: the record is written -/
  | held (status : BitVec 8)
  /-- finished: the final record waits to be written -/
  | finished
  deriving DecidableEq, Repr, Inhabited

/-- An operation that holds a tag (12 R338, 16 R449). -/
structure Op where
  ring : Nat
  cls : Nat
  opcode : Nat
  dpos : Nat
  desc : BitVec 512
  phase : OpPhase
  statuses : List (BitVec 8)
  result : W64
  moved : Nat
  torn : Bool
  heldBefore : Bool
  order : Nat
  /-- the host byte at which its access waits for a page (12 R342, R343) -/
  faultAt : Option Nat
  /-- its port was reset: its records are discarded (12 R353) -/
  lost : Bool
  /-- the SNAPSHOT's image or the rest of a REPLAY is still to be made -/
  todo : Bool
  /-- a SNAPSHOT's image, taken and not yet wholly written -/
  image : List Byte
  /-- its record waits for room and the wait is counted (12 R336) -/
  stalled : Bool
  /-- Held records still to be written, oldest first, of an operation that has gone on or ended since (00 R12, 12 R336) -/
  owed : List (BitVec 8 × W64)
  /-- its record met a translation fault and waits for Q_FAULT_RESP (12 R343) -/
  recHeld : Bool
  deriving DecidableEq, Repr, Inhabited

structure Queues where
  work : Sparse WorkRing
  comp : Sparse CompRing
  flag : Sparse W64
  /-- recent changes of flags, newest first: TB_COUNT, flag, value before (04 R129: a tile observes a flag some cycles late) -/
  flagLog : List (Nat × Nat × W64)
  landing : List (Nat × Nat × Bool × W32)
  ops : Sparse (Option Op)
  tagStall : Nat
  fetchNo : Nat
  rr : Sparse Nat
  cycleSince : Option Nat
  deriving DecidableEq, Repr, Inhabited

def Queues.reset : Queues :=
  { work := [], comp := [], flag := [], flagLog := [], landing := [], ops := [], tagStall := 0, fetchNo := 0, rr := [], cycleSince := none }

/-! ### The loaded program -/

/-- An allocation-table entry (08 R227). -/
structure Alloc where
  base : Nat
  size : Nat
  kind : Nat
  stage : Nat
  deriving DecidableEq, Repr, Inhabited

structure Prog where
  header : Bytes
  addr : Nat
  len : Nat
  plan : Nat
  alloc : List Alloc
  flagSet : List Nat
  tag : Option Nat
  launch : Nat
  /-- the run seed: DG_SEED at the launch (05 R163) -/
  seed : BitVec 128
  /-- counts by which coordinated pauses and pre-emptions have delayed the program since its launch (07 R192) -/
  paused : Nat
  s0 : W64
  f0 : W64
  stopped : Bool
  /-- bundle count NB of each tile that runs code (04 R108) -/
  nb : Sparse Nat
  /-- the length B of one execution of each replay loop as the load validator computed it, by section, tile and first body bundle
  (02 R68) -/
  bodies : Sparse Nat
  dig : Nat
  deriving DecidableEq, Repr, Inhabited

def Prog.reset : Prog :=
  { header := [], addr := 0, len := 0, plan := 0, alloc := [], flagSet := [], tag := none, launch := 0, seed := 0, paused := 0, s0 := 0, f0 := 0,
    stopped := false, nb := [], bodies := [], dig := 0 }

/-! ### Time base and agreed counts -/

/-- The time states (11 R293). -/
inductive TimeState where
  | unlocked | locking | locked | holdover
  deriving DecidableEq, Repr, Inhabited

structure TimeBase where
  count : Nat
  ctrl : W64
  state : TimeState
  depth : Nat
  offset : Int
  /-- one-way delay of the last exchange, in 2^−8 counts (11 R290) -/
  delay : Int
  ppsLost : Bool
  refLost : Bool
  holdLaunches : Nat
  lead : Nat
  tmo : Nat
  asym : Sparse (BitVec 16)
  discard : Nat
  xch : Option (Nat × Int)
  good : Nat
  lastXch : Nat
  holdTo : Option Nat
  slew : Int
  bootRoot : Bool
  aligned : Bool
  lastPps : Nat
  refRate : Bool
  deriving DecidableEq, Repr, Inhabited

def TimeBase.reset : TimeBase :=
  { count := 0, ctrl := 0, state := .unlocked, depth := 0, offset := 0, delay := 0, ppsLost := false, refLost := false, holdLaunches := 0,
    lead := 2000, tmo := 2000000, asym := [], discard := 0, xch := none, good := 0, lastXch := 0, holdTo := none, slew := 0,
    bootRoot := false, aligned := false, lastPps := 0, refRate := false }

/-- A launch being agreed (11 R298): the operation, the count asked for (0: the earliest), the count announced. -/
structure Launch where
  tag : Nat
  c : Nat
  go : Option Nat
  deriving DecidableEq, Repr, Inhabited

/-- A stop being agreed or in force (11 R300, R301). -/
structure Stop where
  c : Nat
  coord : Nat
  status : BitVec 8
  pre : Bool
  deriving DecidableEq, Repr, Inhabited

structure Agree where
  launch : Option Launch
  /-- READY messages a coordinator holds: part and core clock -/
  ready : List (Nat × Nat)
  pause : Option (Nat × Nat)
  resume : Option Nat
  stop : Option Stop
  drain : Bool
  preTag : Option Nat
  /-- class-0 rings that carried the PREEMPT (12 R345) -/
  preRings : List Nat
  savedTag : Option Nat
  /-- the count from which tiles hold at safe points for a SNAPSHOT (12 R350) -/
  snapAt : Option Nat
  abortEnd : Bool
  deriving DecidableEq, Repr, Inhabited

def Agree.reset : Agree :=
  { launch := none, ready := [], pause := none, resume := none, stop := none, drain := false, preTag := none, preRings := [],
    savedTag := none, snapAt := none, abortEnd := false }

/-! ### Collectives -/

/-- A communicator record with its member list (11 R304). -/
structure Comm where
  n : Nat
  chain : Bool
  placeRoot : Bool
  tree : Nat
  members : List Nat
  deriving DecidableEq, Repr, Inhabited

/-- An entry record (11 R305). -/
structure CollEntry where
  type : Nat
  op : Nat
  ifmt : Nat
  comm : Nat
  tflag : Nat
  dflag : Nat
  rootm : Nat
  tinc : Nat
  csz : Nat
  infl : Nat
  elems : Nat
  src : W64
  dst : W64
  bufOff : Nat
  bufSize : Nat
  idx : W64
  rowb : Nat
  rpm : Nat
  deriving DecidableEq, Repr, Inhabited

/-- A chunk of a running collective at this part (11 R312–R316): its index; 0 not started, 1 started, 2 its legs are sent; the
result once known; legs received (level, member, values); done? -/
structure Chunk where
  idx : Nat
  level : Nat
  value : List Nat
  got : List (Nat × Nat × List Nat)
  done : Bool
  deriving DecidableEq, Repr, Inhabited

/-- A collective in progress (11 R310–R318): entry, epoch, chunks, legs sent and not confirmed by the member named, progress
clock, CRC mismatches by leg, whether it lost a link. -/
structure CollRun where
  entry : Nat
  epoch : W64
  chunks : List Chunk
  kept : List (Nat × Leg)
  clock : Nat
  mism : Sparse Nat
  lost : Bool
  /-- legs (chunk, level, sending member) whose third CRC mismatch ended the collective until the recovery (11 R316) -/
  again : List (Nat × Nat × Nat)
  deriving DecidableEq, Repr, Inhabited

structure Colls where
  rankMap : Sparse Nat
  comms : List Comm
  entries : List CollEntry
  order : List (BitVec 32)
  pos : Nat
  round : W64
  thr : Sparse Nat
  /-- entries whose trigger flag has reached a threshold, in that order, with the attempt still to come (11 R310) -/
  due : List Nat
  /-- an attempt was refused with ORDER_FAULT since the launch (11 R319) -/
  refused : Bool
  runs : List CollRun
  buf : Bytes
  flags : W32
  deriving DecidableEq, Repr, Inhabited

def Colls.reset : Colls :=
  { rankMap := [], comms := [], entries := [], order := [], pos := 0, round := 0, thr := [], due := [], refused := false, runs := [], buf := [], flags := 0 }

/-! ### Links -/

/-- Port states (10 R284). -/
inductive PortState where
  | dark | training | up | degraded | failed | miswired
  deriving DecidableEq, Repr, Inhabited

/-- A retry episode at a receiver (10 R268, R269). -/
structure Episode where
  seq : BitVec 12
  retries : Nat
  start : Nat
  left : Nat
  nak : Nat
  deriving DecidableEq, Repr, Inhabited

structure Port where
  state : PortState
  cause : BitVec 3
  lightWarn : Bool
  txOk : BitVec 17
  rxOk : BitVec 17
  spare : Bool
  peerPart : BitVec 13
  peerPort : BitVec 5
  peerV : Bool
  retrain : Bool
  disable : Bool
  fecCorr : Nat
  uncorr : Nat
  crcErr : Nat
  retries : Nat
  episodes : Nat
  remaps : Nat
  txSeq : BitVec 12
  waiting : List Flit
  replay : List Flit
  resend : List Flit
  rxExp : BitVec 12
  lastAck : Option (BitVec 12)
  owedNak : Option (BitVec 12)
  epi : Option Episode
  epiTimes : List Nat
  remap : Bool
  /-- a lane-map flit of the remap in progress has still to leave (10 R271) -/
  mapOut : Bool
  /-- count at which the last retry episode or lane remap ended (11 R290) -/
  busyTo : Option Nat
  /-- retrained while a program runs: no scheduled traffic before the next start (10 R277) -/
  parked : Bool
  /-- the active lane, in ascending order, of the next byte sent (10 R264) -/
  laneAt : Nat
  deriving DecidableEq, Repr, Inhabited

def Port.reset : Port :=
  { state := .dark, cause := 0, lightWarn := false, txOk := 0, rxOk := 0, spare := false, peerPart := 0, peerPort := 0,
    peerV := false, retrain := false, disable := false, fecCorr := 0, uncorr := 0, crcErr := 0, retries := 0, episodes := 0,
    remaps := 0, txSeq := 0, waiting := [], replay := [], resend := [], rxExp := 0, lastAck := none, owedNak := none,
    epi := none, epiTimes := [], remap := false, mapOut := false, busyTo := none, parked := false, laneAt := 0 }

/-- The light of an optical engine (10 R274, R275). -/
inductive Light where
  | ok | warn | fail | restored
  deriving DecidableEq, Repr, Inhabited

structure Links where
  port : Sparse Port
  light : Sparse Light
  failed : List (Nat × Nat)
  /-- flits accepted and handed to the router, oldest first: port and flit -/
  routed : List (Nat × Flit)
  deriving DecidableEq, Repr, Inhabited

def Links.reset : Links := { port := [], light := [], failed := [], routed := [] }

/-! ### Tile map, digests, shadow stream, fault log, mailbox -/

structure TileMap where
  failed : Sparse (BitVec 17)
  repairs : List (Nat × Nat × Nat)
  deriving DecidableEq, Repr, Inhabited

def TileMap.reset : TileMap := { failed := [], repairs := [] }

/-- A ring of records in HBM (16 R440). -/
structure LogRing where
  base : W64
  size : Nat
  head : Nat
  lost : Nat
  deriving DecidableEq, Repr, Inhabited

structure Digests where
  seed : BitVec 128
  log : LogRing
  late : LogRing
  prov : LogRing
  deriving DecidableEq, Repr, Inhabited

/-- The default ring bases before Lantern writes them: 0 until boot (16 R440 'Default'; log entry 2). -/
def Digests.reset : Digests :=
  { seed := 0, log := { base := 0, size := 65536, head := 0, lost := 0 },
    late := { base := 0, size := 65536, head := 0, lost := 0 }, prov := { base := 0, size := 65536, head := 0, lost := 0 } }

/-- A segment of a frame (09 R255): writer (0 error term, 1 record updates, 2 root commit, 3 fold, 4 sweep), region, first word,
difference words. -/
structure Segment where
  writer : Nat
  region : Nat
  offset : Nat
  words : List W32
  deriving DecidableEq, Repr, Inhabited

/-- The frame a standby is receiving (09 R259). -/
structure FrameRx where
  step : W64
  nseg : Nat
  bytes : Nat
  digs : List Nat
  deriving DecidableEq, Repr, Inhabited

structure Shadow where
  ctrl : W64
  mirrorValid : Bool
  mirrorStep : W64
  rtBase : W64
  rtCount : Nat
  hbase : W64
  hsize : W64
  head : Nat
  tail : Nat
  stall : Nat
  drop : Nat
  /-- segments of the step's frame in the staging area -/
  segs : List Segment
  /-- the frame's header has left staging, with the bytes of the parts that have and the SEGDIG of each segment (09 R257) -/
  left : Option (Nat × List Nat)
  /-- the rest of the frame is dropped for the host (09 R258) -/
  hostSkip : Bool
  /-- count since which a writer waits for staging (09 R257) -/
  stallFrom : Option Nat
  /-- parts of a frame still to be written to the host ring: bytes -/
  hostOut : List (List Byte)
  rx : Option FrameRx
  /-- a frame was dropped for the host: the next one carries GAP (SS_STATUS.DROP_OUTSTANDING) -/
  gap : Bool
  deriving DecidableEq, Repr, Inhabited

def Shadow.reset : Shadow :=
  { ctrl := 0, mirrorValid := false, mirrorStep := 0, rtBase := 0, rtCount := 0,
    hbase := 0, hsize := 0, head := 0, tail := 0, stall := 0, drop := 0, segs := [], left := none, hostSkip := false, stallFrom := none, hostOut := [], rx := none, gap := false }

structure FaultLog where
  base : W64
  size : Nat
  head : Nat
  lost : Nat
  pend : Nat
  worst : BitVec 2
  deriving DecidableEq, Repr, Inhabited

def FaultLog.reset : FaultLog := { base := 0, size := 4096, head := 0, lost := 0, pend := 0, worst := 0 }

structure Mailbox where
  cmd : W64
  data : W64
  len : W64
  result : W64
  deriving DecidableEq, Repr, Inhabited

def Mailbox.reset : Mailbox := { cmd := 0, data := 0, len := 0, result := 0 }

/-! ### Lantern -/

/-- A journal record (15 R411): type, ARG0, ARG1; SEQ is its position, CRC is what makes it count. -/
structure JRec where
  type : BitVec 8
  arg0 : W64
  arg1 : W64
  deriving DecidableEq, Repr, Inhabited

/-- A settings area (15 R415): format, SEQ, entries of key and value bytes. -/
structure SetArea where
  valid : Bool
  format : Nat
  seq : Nat
  entries : List (Nat × List Byte)
  deriving DecidableEq, Repr, Inhabited

/-- The PLDM firmware-update state (15 R416, R419). -/
inductive UpdState where
  | idle | learn | ready | download | verify | apply | activate
  deriving DecidableEq, Repr, Inhabited

/-- An image in a flash slot: whole, or partly erased or programmed (15 R413). -/
inductive FwSlot where
  | empty
  | torn
  | whole (image : FwImage)
  deriving DecidableEq, Repr, Inhabited

structure Lantern where
  journal : List JRec
  running : FwSlot
  shadow : FwSlot
  keyA : Option KeyManifest
  keyB : Option KeyManifest
  fuseSvn : Nat
  fuseEpoch : Nat
  setA : SetArea
  setB : SetArea
  held : List (Nat × List Byte)
  staging : Option FwImage
  stagingKeys : Option KeyManifest
  received : Nat
  component : Nat
  compSize : Nat
  maxTransfer : Nat
  upd : UpdState
  updBus : Bool
  /-- step 2 of the update has been journalled -/
  updStarted : Bool
  flashOp : Option Nat
  flashErase : Bool
  flashSusp : Bool
  confirmArmed : Bool
  lastFb : BitVec 3
  rstConfirm : Bool
  eidI3c : BitVec 8
  eidSmb : BitVec 8
  tid : BitVec 8
  evRcv : Option (Bool × BitVec 8)
  density : Nat
  deriving DecidableEq, Repr, Inhabited

/-- The image the flash holds when the part is first powered: a whole image for both steppings, unsigned checks as the
security engine finds them (log entry 2). -/
def FwImage.factory : FwImage :=
  { magic := 0x5A4C4E31, fmtVer := 1, payloadLen := 16, svn := 0, steppings := 0b11, setFmt := 1, version := 1, ident := 0,
    hash := 0, payload := 0, tagOk := true, sig0 := some 0, sig1 := none }

def Lantern.reset : Lantern :=
  { journal := [⟨0x01, 0, 0⟩, ⟨0x02, 0, 0⟩], running := .whole FwImage.factory, shadow := .whole FwImage.factory,
    keyA := some { seq := 1, current := 0, ep0 := 0, rev0 := false, ep1 := 0, rev1 := true, rootOk := true }, keyB := none,
    fuseSvn := 0, fuseEpoch := 0, setA := { valid := true, format := 1, seq := 1, entries := [] },
    setB := { valid := false, format := 0, seq := 0, entries := [] }, held := [], staging := none, stagingKeys := none,
    received := 0, component := 0, compSize := 0, maxTransfer := 0, upd := .idle, updBus := false, updStarted := false,
    flashOp := none, flashErase := false, flashSusp := false, confirmArmed := false, lastFb := 0, rstConfirm := false,
    eidI3c := 0, eidSmb := 0, tid := 0, evRcv := none, density := 512 }

/-! ### Step sequencer and recovery -/

/-- A root job's workspace (07 R191–R201): record, block, not run for want of a factor, escalations, pivot flagged after them,
best iterate (its root in packed order as FP32) with its residual and number, finalised?, deadline reached? -/
structure RootWork where
  record : Nat
  blk : Nat
  idle : Bool
  esc : Nat
  probeFail : Bool
  firstPiv : Nat
  best : Option (List W32 × BitVec 64 × Nat)
  iters : Nat
  conv : Bool
  sat : Bool
  final : Bool
  deadline : Bool
  /-- FIN, and the schedule time at which the job has finalised (07 R192, R193) -/
  fin : Nat
  ends : Nat
  deriving DecidableEq, Repr, Inhabited

/-- A STEP-class block that a drain has reported (02 R69): its layer, tile and base row group. -/
structure Report where
  layer : Nat
  tile : Nat
  base : Nat
  deriving DecidableEq, Repr, Inhabited

structure StepSeq where
  tag : Option Nat
  s0 : W64
  n : Nat
  done : Nat
  phase : Nat
  intakeWait : Nat
  /-- count at which the intake in progress began (08 R232) -/
  intakeFrom : Option Nat
  /-- count at which the step replay window began (08 R234) -/
  replayFrom : Option Nat
  /-- the root deadline of the step in schedule time: the scheduled start of its sweep (07 R192) -/
  deadline : Nat
  spillHbm : Nat
  spillHost : Nat
  overrun : Nat
  /-- the step's permutation of sample positions, and this rank's by micro-batch (08 R233) -/
  perm : List Nat
  batches : List (List Nat)
  /-- the purpose-0x01 words drawn for the token of the step counter (08 R238) -/
  draws : List Nat
  reports : List Report
  /-- the layer of the block that section 1 replays (08 R234) -/
  replaying : Option Nat
  frozenDig : List (Nat × Nat)
  optRec : Nat
  names : StepNames
  /-- folds and tensors of the sweep done, and the non-finite master elements it wrote (09 R250) -/
  sweepAt : Nat
  unf : Nat
  decision : Option (BitVec 8 × BitVec 64)
  jobs : List RootWork
  wsum : Sparse Nat
  carried : Sparse Nat
  /-- squared norm of the results of each reduce-scatter of the step, by entry (09 R245) -/
  sqn : Sparse Nat
  /-- digest partial and words of the result that each collective with FP32 partials delivered, by address (05 R156) -/
  results : List (Nat × Nat × Nat)
  /-- groups each tile has spilled in the step, and the tile that spilled each slot (08 R222) -/
  spills : Sparse Nat
  spilled : Sparse Nat
  /-- of a REPLAY: entries in the digest log when it began, and the parameters as frame s leaves them, by tensor (05 R166) -/
  logHead : Nat
  params : List (Nat × List Byte)
  /-- digests of the step's input tensors by tensor ID (05 R157 KIND 3, R162) -/
  inDig : Sparse Nat
  owner : Sparse Nat
  ownFail : Bool
  stale : Bool
  sat : Bool
  skipped : Bool
  stepStatus : List (BitVec 8)
  sectRun : Option (BitVec 3)
  deriving DecidableEq, Repr, Inhabited

def StepSeq.reset : StepSeq :=
  { tag := none, s0 := 0, n := 0, done := 0, phase := 0, intakeWait := 0, intakeFrom := none, replayFrom := none, deadline := 0, spillHbm := 0, spillHost := 0, overrun := 0,
    perm := [], batches := [], draws := [], reports := [], replaying := none, frozenDig := [], optRec := 0,
    names := { curv := [], layers := [], saved := [], slots := [], work := [] }, sweepAt := 0, unf := 0, decision := none, jobs := [], wsum := [],
    carried := [], sqn := [], results := [], spills := [], spilled := [], logHead := 0, params := [], inDig := [], owner := [], ownFail := false, stale := false, sat := false, skipped := false, stepStatus := [],
    sectRun := none }

/-- A replay record (14 R382): replay-point index, step, sequencer states of the tiles, the step sequencer's state, collective position,
schedule time, and how the frame in staging stood. -/
structure ReplayPoint where
  idx : Nat
  step : W64
  tiles : Sparse TileSeq
  seqr : StepSeq
  pos : Nat
  sched : Nat
  segs : List Segment
  deriving DecidableEq, Repr, Inhabited

/-- The stages of a recovery (14 R386). -/
inductive RecStage where
  | none | announced | paused | remapped
  /-- the restore section runs -/
  | restoring
  | restored
  deriving DecidableEq, Repr, Inhabited

structure Recovery where
  current : Option ReplayPoint
  previous : Option ReplayPoint
  log : List (Nat × List Byte)
  /-- the receive log overflowed in this segment (14 R384) -/
  logFull : Bool
  active : Bool
  stage : RecStage
  cause : Option (BitVec 8 × Nat × Nat)
  faultCycle : Nat
  /-- program cycle each tile had reached at the pause (14 R384) -/
  upTo : Sparse Nat
  retire : List Nat
  rows : List (Nat × Nat)
  /-- pseudo-channels and lines in error (13 R363) -/
  pch : List (Nat × Nat)
  digest : Option (Nat × Nat)
  /-- words of the sweep since the current replay point with their old values, newest first (09 R260) -/
  undo : List (Nat × Nat)
  /-- carried partials that have come since the current replay point, by tensor (14 R384) -/
  carried : Sparse Nat
  /-- pieces of gathered copies asked of their owners and still to come: address and bytes (14 R383) -/
  want : List (Nat × Nat)
  deriving DecidableEq, Repr, Inhabited

def Recovery.reset : Recovery :=
  { current := none, previous := none, log := [], logFull := false, active := false, stage := .none, cause := none, faultCycle := 0,
    upTo := [], retire := [], rows := [], pch := [], digest := none, undo := [], carried := [], want := [] }

/-- What a pre-emption saves (12 R346). -/
structure Saved where
  tiles : Sparse Tile
  ix : Sparse IxEngine
  prog : Prog
  colls : List CollRun
  buf : Bytes
  /-- collective position, threshold of each entry, round (11 R302, 16 R448) -/
  pos : Nat
  thr : Sparse Nat
  due : List Nat
  round : W64
  seqr : StepSeq
  plan : List Access
  /-- the count at which its schedule time stopped (07 R203) -/
  since : Nat
  /-- its replay records and receive log -/
  recov : Recovery
  deriving DecidableEq, Repr, Inhabited

/-! ### What the part emits -/

/-- A message or signal the part sends (INVENTORY: the model's own output trace). -/
inductive Out where
  /-- READY to the coordinator: this part, its clock (11 R298) -/
  | ready (part clk : Nat)
  /-- GO(C) announced -/
  | go (c : Nat)
  /-- CANCEL announced, with the clocks found (05 R144) -/
  | cancel (clocks : List (Nat × Nat))
  /-- pause, resume and stop announcements (11 R299, R300) -/
  | pause (p : Nat)
  | resume (q : Nat)
  | stop (c : Nat) (status : BitVec 8) (pre : Bool)
  /-- MSI-X vector of a host port (12 R331) -/
  | msix (port : Bool) (vector : Nat)
  /-- a PRI page request of a host port (12 R342) -/
  | pageRequest (port : Bool) (page : Nat)
  /-- time transfer: request with t1, reply with t2 and t3 (11 R290) -/
  | timeReq (port : Nat) (t1 : Int)
  | timeRep (port : Nat) (t2 t3 : Int)
  /-- a flit put on a fibre, with the bytes of each active lane (10 R264) -/
  | flit (port : Nat) (f : Flit) (lanes : List (Nat × List Byte))
  /-- the identity a port sends in training: part, port, position set (10 R277) -/
  | identity (port : Nat) (part : Nat) (posv : Bool)
  /-- a leg sent to a part; a leg confirmed to, or asked again of, the member that sent it: entry, chunk, level, this member (11 R315,
  R316) -/
  | leg (dest : Nat) (l : Leg)
  | legConfirm (sender : Nat) (l : Nat × Nat × Nat × Nat)
  | legAgain (sender : Nat) (l : Nat × Nat × Nat × Nat)
  /-- bytes read through an aperture (12 R325) or for a peer's recovery fetch (14 R383) -/
  | aperture (port : Bool) (data : List Byte)
  | fetch (peer : Nat) (data : List Byte)
  /-- a recovery fetch asked of a part: address and bytes (14 R383) -/
  | fetchAsk (part addr len : Nat)
  /-- this part's squared norm for the norm all-reduce (09 R246) -/
  | norm (v : Nat)
  /-- a frame or its part sent on P31 (09 R257) -/
  | frame (data : List Byte)
  /-- catch-up point announced (14 R386) -/
  | catchUp
  /-- an MCTP or PLDM response: bus, completion code, data (15 R419) -/
  | mctp (bus : Bool) (code : BitVec 8) (data : List Byte)
  /-- an AVSBus voltage write in mV (17 R464) -/
  | avs (mv : Nat)
  /-- a JTAG data register shifted out (17 R473) -/
  | tdo (v : BitVec 32)
  deriving DecidableEq, Repr, Inhabited

/-! ### The whole state -/

structure State where
  pending : List Instr
  out : List Out
  free : Nat
  fuse : Fuses
  pins : Pins
  pwr : Power
  tap : Tap
  gbl : Gbl
  hpA : HostPort
  hpB : HostPort
  hpOwn : Sparse W64
  q : Queues
  prog : Prog
  saved : Option Saved
  tiles : Sparse Tile
  ix : Sparse IxEngine
  hbm : Hbm
  tb : TimeBase
  ag : Agree
  coll : Colls
  lnk : Links
  tm : TileMap
  dg : Digests
  ss : Shadow
  flt : FaultLog
  mbx : Mailbox
  lan : Lantern
  seqr : StepSeq
  recov : Recovery
  deriving DecidableEq, Repr, Inhabited

/-- The machine right after reset: power-on on VDD_AUX33, SYS_RST_N low, every register at its Reset column (16 R451). -/
def State.reset : State :=
  { pending := [], out := [], free := 0, fuse := Fuses.reset, pins := Pins.reset, pwr := Power.reset, tap := Tap.reset,
    gbl := Gbl.reset, hpA := HostPort.reset, hpB := HostPort.reset, hpOwn := [], q := Queues.reset, prog := Prog.reset,
    saved := none, tiles := [], ix := [], hbm := Hbm.reset, tb := TimeBase.reset, ag := Agree.reset, coll := Colls.reset,
    lnk := Links.reset, tm := TileMap.reset, dg := Digests.reset, ss := Shadow.reset, flt := FaultLog.reset,
    mbx := Mailbox.reset, lan := Lantern.reset, seqr := StepSeq.reset, recov := Recovery.reset }

/-! ### Why a step stops -/

/-- Faults that end a step of the model. The part's own faults are effects on State, so none is needed beyond this one. -/
inductive Fault where
  /-- nothing raises it: every fault the manual describes is an effect on State (14 R378–R393). Safe. -/
  | noSuchFault
  deriving DecidableEq, Repr, Inhabited

/-- Reasons for a refusal. -/
inductive Refusal where
  /-- exec's arm for a command whose meaning is not written yet. Safe: nothing can be proved of it. -/
  | notModelled (mnemonic : String)
  deriving DecidableEq, Repr, Inhabited

end Sys2Proof.Machine
end

