-- ==== Sys2Proof/Machine/Bits.lean ====
section
/-!
DEFINITION. Byte order, bit fields, sparse stores, byte memories, LD64 (05 R152–R154), CRC-32 (10 R265), CRC-64 (11 R316) and
AES-128 for the random generator (05 R163).
-/

namespace Sys2Proof.Machine

/-! ### Sparse stores -/

/-- What a sparse store holds at a key; an unlisted key holds the default. -/
def Sparse.get {α : Type} (d : α) : Sparse α → Nat → α
  | [], _ => d
  | (k', v) :: m, k => if k' = k then v else Sparse.get d m k

/-- Lists a key with a value, in rising order; the value of a listed key is replaced. -/
def Sparse.put {α : Type} : Sparse α → Nat → α → Sparse α
  | [], k, v => [(k, v)]
  | (k', v') :: m, k, v =>
    if k' = k then (k, v) :: m
    else if k < k' then (k, v) :: (k', v') :: m
    else (k', v') :: Sparse.put m k v

/-- Writes a key; writing the default removes the entry, so equal stores are equal lists. -/
def Sparse.set {α : Type} [DecidableEq α] (d : α) (m : Sparse α) (k : Nat) (v : α) : Sparse α :=
  if v = d then m.filter fun c => c.1 != k else Sparse.put m k v

/-- The canonical form: keys strictly rising from `lo`, no default listed. -/
def Sparse.wfFrom {α : Type} [DecidableEq α] (d : α) : Nat → Sparse α → Bool
  | _, [] => true
  | lo, (k, v) :: m => decide (lo ≤ k) && decide (v ≠ d) && Sparse.wfFrom d (k + 1) m

/-- The canonical form of a byte memory (an unlisted address reads 0: 13 R364). -/
def Memory.wf (m : Bytes) : Bool := Sparse.wfFrom (0 : Byte) 0 m

/-! ### Byte memories -/

def Bytes.read (m : Bytes) (a : Nat) : Byte := Sparse.get 0 m a

def Bytes.write (m : Bytes) (a : Nat) (v : Byte) : Bytes := Sparse.set 0 m a v

/-- n bytes from address a, lowest first. -/
def Bytes.readN (m : Bytes) (a n : Nat) : List Byte := (List.range n).map fun i => Bytes.read m (a + i)

/-- Writes a run of bytes from address a. -/
def Bytes.writeN (m : Bytes) (a : Nat) : List Byte → Bytes
  | [] => m
  | b :: bs => Bytes.writeN (Bytes.write m a b) (a + 1) bs

/-- Keeps the bytes whose address satisfies p; the others read 0 again. -/
def Bytes.keep (m : Bytes) (p : Nat → Bool) : Bytes := m.filter fun c => p c.1

/-! ### Little-endian numbers (01 R15) -/

/-- The number of a run of bytes, least significant first. -/
def leNat : List Byte → Nat
  | [] => 0
  | b :: bs => b.toNat + 256 * leNat bs

/-- n bytes of a number, least significant first. -/
def leBytes : Nat → Nat → List Byte
  | 0, _ => []
  | n + 1, v => BitVec.ofNat 8 v :: leBytes n (v / 256)

/-- The number in n bytes at an address. -/
def Bytes.readLe (m : Bytes) (a n : Nat) : Nat := leNat (Bytes.readN m a n)

/-- Writes the n low bytes of a number. -/
def Bytes.writeLe (m : Bytes) (a n v : Nat) : Bytes := Bytes.writeN m a (leBytes n v)

def Bytes.read64 (m : Bytes) (a : Nat) : BitVec 64 := BitVec.ofNat 64 (Bytes.readLe m a 8)

def Bytes.read32 (m : Bytes) (a : Nat) : BitVec 32 := BitVec.ofNat 32 (Bytes.readLe m a 4)

def Bytes.write64 (m : Bytes) (a : Nat) (v : BitVec 64) : Bytes := Bytes.writeLe m a 8 v.toNat

def Bytes.write32 (m : Bytes) (a : Nat) (v : BitVec 32) : Bytes := Bytes.writeLe m a 4 v.toNat

/-- Bits [hi:lo] of a number. -/
def field (v hi lo : Nat) : Nat := (v >>> lo) % 2 ^ (hi + 1 - lo)

/-- One bit of a number. -/
def bitAt (v i : Nat) : Bool := v.testBit i

/-- v with bits [hi:lo] replaced. -/
def setField (v hi lo x : Nat) : Nat :=
  let w := hi + 1 - lo
  v - (field v hi lo) * 2 ^ lo + (x % 2 ^ w) * 2 ^ lo

/-- Two's-complement value of the low w bits. -/
def signed (w v : Nat) : Int := let u := v % 2 ^ w; if u < 2 ^ (w - 1) then (u : Int) else (u : Int) - 2 ^ w

/-- Low w bits of an integer. -/
def wrap (w : Nat) (x : Int) : Nat := (x % (2 ^ w : Int)).toNat

def b2n (b : Bool) : Nat := if b then 1 else 0

/-- Saturating addition to n bits (16 R426). -/
def satAdd (n a b : Nat) : Nat := Nat.min (a + b) (2 ^ n - 1)

def ceilDiv (a b : Nat) : Nat := (a + b - 1) / b

def alignUp (a b : Nat) : Nat := ceilDiv a b * b

/-- A list cut into runs of n (the last may be short). -/
def chunksOf {α : Type} (n : Nat) (l : List α) : List (List α) :=
  (List.range (ceilDiv l.length n)).map fun i => (l.drop (i * n)).take n

/-- The 32-bit little-endian words of a run of bytes, padded with zero bytes (05 R153). -/
def wordsOf (l : List Byte) : List Nat := (chunksOf 4 l).map leNat

/-! ### LD64 (05 R152) -/

def ldP : Nat := 2 ^ 61 - 1

def ldG : Nat := 1048579

def ldLen : Nat := 0x0123456789ABCDEF

/-- b ^ e mod m, reading the exponent's low n bits. -/
def powModAux (m : Nat) : Nat → Nat → Nat → Nat → Nat
  | 0, _, _, acc => acc
  | n + 1, b, e, acc => powModAux m n (b * b % m) (e / 2) (if e % 2 = 1 then acc * b % m else acc)

/-- The weight k_i = G^(i+1) mod P. -/
def ldWeight (i : Nat) : Nat := powModAux ldP 64 ldG (i + 1) 1

/-- The partial S of words w_i at word indices first, first + 1, …. -/
def ldPartialFrom : Nat → List Nat → Nat
  | _, [] => 0
  | k, w :: ws => (k * (w + 1) + ldPartialFrom (k * ldG % ldP) ws) % ldP

def ldPartial (first : Nat) (ws : List Nat) : Nat := ldPartialFrom (ldWeight first) ws

/-- The finalised digest of a partial over L words. -/
def ldFinal (s len : Nat) : Nat := if len = 0 then 0 else (s + len * ldLen) % ldP

/-- LD64 of a whole tensor of words. -/
def ld64 (ws : List Nat) : Nat := ldFinal (ldPartial 0 ws) ws.length

/-- LD64 of digests taken as two words each, low first. -/
def ld64Pairs (ds : List Nat) : Nat := ld64 (ds.flatMap fun d => [d % 2 ^ 32, d / 2 ^ 32])

/-! ### CRC -/

/-- One reflected CRC-32 step of a byte, polynomial 0x04C1_1DB7 (10 R265). -/
def crc32Bit : Nat → Nat → Nat
  | 0, c => c
  | n + 1, c => crc32Bit n (if c % 2 = 1 then (c / 2) ^^^ 0xEDB88320 else c / 2)

/-- CRC-32 with initial value and final XOR 0xFFFF_FFFF. -/
def crc32 (l : List Byte) : BitVec 32 :=
  BitVec.ofNat 32 ((l.foldl (fun c b => crc32Bit 8 (c ^^^ b.toNat)) 0xFFFFFFFF) ^^^ 0xFFFFFFFF)

def crc64Bit : Nat → Nat → Nat
  | 0, c => c
  | n + 1, c =>
    crc64Bit n (if c.testBit 63 then ((c * 2) % 2 ^ 64) ^^^ 0x42F0E1EBA9EA3693 else (c * 2) % 2 ^ 64)

/-- CRC-64 ECMA-182: initial value 0, no reflection, no final XOR (11 R316). -/
def crc64 (l : List Byte) : BitVec 64 :=
  BitVec.ofNat 64 (l.foldl (fun c b => crc64Bit 8 (c ^^^ (b.toNat * 2 ^ 56))) 0)

/-! ### AES-128 (05 R163: FIPS 197) -/

/-- Multiplication by x in GF(2^8) with the AES polynomial. -/
def xtime (a : Nat) : Nat := let d := a * 2; if d < 256 then d else (d ^^^ 0x11B) % 256

def gmulAux : Nat → Nat → Nat → Nat → Nat
  | 0, _, _, acc => acc
  | n + 1, a, b, acc => gmulAux n (xtime a) (b / 2) (if b % 2 = 1 then acc ^^^ a else acc)

def gmul (a b : Nat) : Nat := gmulAux 8 a b 0

/-- The inverse in GF(2^8): a^254. -/
def ginv (a : Nat) : Nat :=
  let a2 := gmul a a
  let a3 := gmul a2 a
  let a6 := gmul a3 a3
  let a12 := gmul a6 a6
  let a15 := gmul a12 a3
  let a30 := gmul a15 a15
  let a60 := gmul a30 a30
  let a120 := gmul a60 a60
  let a127 := gmul (gmul a120 a6) a
  gmul a127 a127

def rotl8 (a n : Nat) : Nat := ((a <<< n) ||| (a >>> (8 - n))) % 256

/-- The AES S-box. -/
def sbox (a : Nat) : Nat :=
  let b := ginv a
  b ^^^ rotl8 b 1 ^^^ rotl8 b 2 ^^^ rotl8 b 3 ^^^ rotl8 b 4 ^^^ 0x63

/-- The next round key from the last, as 16 bytes. -/
def nextKey (rcon : Nat) (k : List Nat) : List Nat :=
  let g (i : Nat) := k.getD i 0
  let t := [sbox (g 13) ^^^ rcon, sbox (g 14), sbox (g 15), sbox (g 12)]
  let w0 := (List.range 4).map fun i => g i ^^^ t.getD i 0
  let w1 := (List.range 4).map fun i => g (4 + i) ^^^ w0.getD i 0
  let w2 := (List.range 4).map fun i => g (8 + i) ^^^ w1.getD i 0
  let w3 := (List.range 4).map fun i => g (12 + i) ^^^ w2.getD i 0
  w0 ++ w1 ++ w2 ++ w3

def addKey (s k : List Nat) : List Nat := List.zipWith (· ^^^ ·) s k

/-- SubBytes, then ShiftRows: byte r + 4c comes from column c + r. -/
def subShift (s : List Nat) : List Nat :=
  (List.range 16).map fun i => sbox (s.getD ((i % 4) + 4 * ((i / 4 + i % 4) % 4)) 0)

def mixColumn (c : List Nat) : List Nat :=
  let g (i : Nat) := c.getD (i % 4) 0
  (List.range 4).map fun i => xtime (g i) ^^^ (xtime (g (i + 1)) ^^^ g (i + 1)) ^^^ g (i + 2) ^^^ g (i + 3)

def mixColumns (s : List Nat) : List Nat := (chunksOf 4 s).flatMap mixColumn

/-- Nine rounds with MixColumns, then the last without. -/
def aesRounds : Nat → Nat → List Nat → List Nat → List Nat
  | 0, rcon, k, s => addKey (subShift s) (nextKey rcon k)
  | n + 1, rcon, k, s =>
    let k' := nextKey rcon k
    aesRounds n (xtime rcon) k' (addKey (mixColumns (subShift s)) k')

/-- AES-128 of a block, both as 16 bytes, byte 0 first. -/
def aes128 (key block : List Nat) : List Nat := aesRounds 9 1 key (addKey block key)

/-- A number as n bytes, most significant first. -/
def beBytes (n v : Nat) : List Nat := (List.range n).map fun i => (v >>> (8 * (n - 1 - i))) % 256

def beNat (l : List Nat) : Nat := l.foldl (fun a b => a * 256 + b) 0

/-- The 32-bit word the counter-mode random generator assigns to an element (05 R163): key byte j is byte j of the
little-endian seed, the counter block enters most significant byte first. -/
def crgWord (seed : BitVec 128) (step : BitVec 64) (tid purpose : Nat) (idx : Int) : Nat :=
  let e := wrap 64 idx
  let block := step.toNat * 2 ^ 64 + (tid % 2 ^ 16) * 2 ^ 48 + (purpose % 256) * 2 ^ 40 + field e 41 2
  let key := (List.range 16).map fun j => (seed.toNat >>> (8 * j)) % 256
  let y := beNat (aes128 key (beBytes 16 block))
  (y >>> (96 - 32 * (e % 4))) % 2 ^ 32

end Sys2Proof.Machine
end

