-- ==== Sys2Proof/Machine/Flags.lean ====
section
/-!
DEFINITION. The arithmetic flag word (01 R44) as a number, and the flags each computation raises (01 R45).
-/

namespace Sys2Proof.Machine

/-- IV, invalid. -/
def fIV : Nat := 1
/-- DZ, division by zero. -/
def fDZ : Nat := 2
/-- OF, overflow. -/
def fOF : Nat := 4
/-- UF, underflow. -/
def fUF : Nat := 8
/-- NX, inexact. -/
def fNX : Nat := 16
/-- FZ, a FAST operation replaced a subnormal input with zero. -/
def fFZ : Nat := 32
/-- WX, an accumulation truncated bits below the window LSB. -/
def fWX : Nat := 64

/-- A flag when a condition holds. -/
def flagIf (c : Bool) (f : Nat) : Nat := if c then f else 0

/-- The sticky word receives the OR of what an operation raises (01 R46). -/
def raise (word : W32) (f : Nat) : W32 := word ||| BitVec.ofNat 32 f

/-- NX, and UF when the value is tiny, of an inexact rounding (01 R45: clause 7, tininess after rounding). -/
def roundFlags (inexact tiny : Bool) : Nat := flagIf inexact fNX ||| flagIf (inexact && tiny) fUF

/-- FAST: a flushed result raises UF and NX; otherwise an inexact one raises NX (01 R45). -/
def fastFlags (inexact flushed : Bool) : Nat := flagIf (inexact || flushed) fNX ||| flagIf flushed fUF

/-- Overflow raises OF and NX (01 R37, R45). -/
def overflowFlags : Nat := fOF ||| fNX

end Sys2Proof.Machine
end

