-- ==== Sys2Proof/Machine/Num.lean ====
section
/-!
DEFINITION. The number formats (01 R13–R19), exact values, and rounding (01 R34, R35, R37). A finite value is a sign, a
significand and a power of two, so every conversion below is exact until it rounds once.
-/

namespace Sys2Proof.Machine

/-! ### Format codes (01 R13) -/

def fmtINT8 : Nat := 0x00
def fmtE4M3 : Nat := 0x01
def fmtE5M2 : Nat := 0x02
def fmtE2M3 : Nat := 0x03
def fmtE3M2 : Nat := 0x04
def fmtE2M1 : Nat := 0x05
def fmtBF16 : Nat := 0x08
def fmtFP16 : Nat := 0x09
def fmtFP32 : Nat := 0x0A
def fmtFP64 : Nat := 0x0B
def fmtINT32 : Nat := 0x0C
def fmtUINT8 : Nat := 0x0D
def fmtINT64 : Nat := 0x0E
def fmtE8M0 : Nat := 0x0F
def fmtE4M3B : Nat := 0x11

/-- Bit 4 of the code: block-scaled B32. -/
def isBlock (f : Nat) : Bool := f.testBit 4

/-- The element format of a block-scaled code. -/
def elemFmt (f : Nat) : Nat := f % 16

/-- Codes that are not reserved (01 R14). -/
def fmtKnown (f : Nat) : Bool := f ≤ 5 || (8 ≤ f && f ≤ 0x15)

/-- Bits of an element (01 R13). -/
def fmtBits (f : Nat) : Nat :=
  match elemFmt f with
  | 0 => 8 | 1 => 8 | 2 => 8 | 3 => 6 | 4 => 6 | 5 => 4 | 8 => 16 | 9 => 16 | 10 => 32 | 11 => 64 | 12 => 32 | 13 => 8
  | 14 => 64 | 15 => 8 | _ => 8

/-- Integer formats. -/
def isInt (f : Nat) : Bool := match elemFmt f with | 0 => true | 12 => true | 13 => true | 14 => true | _ => false

/-- Exponent bits, mantissa bits and bias of a floating format (01 R17). -/
def fpParam (f : Nat) : Nat × Nat × Nat :=
  match elemFmt f with
  | 1 => (4, 3, 7) | 2 => (5, 2, 15) | 3 => (2, 3, 1) | 4 => (3, 2, 3) | 5 => (2, 1, 1) | 8 => (8, 7, 127)
  | 9 => (5, 10, 15) | 10 => (8, 23, 127) | 11 => (11, 52, 1023) | _ => (8, 23, 127)

def expBits (f : Nat) : Nat := (fpParam f).1
def manBits (f : Nat) : Nat := (fpParam f).2.1
def fpBias (f : Nat) : Nat := (fpParam f).2.2

/-- Formats with infinities: the IEEE-like ones (01 R17). -/
def hasInf (f : Nat) : Bool := match elemFmt f with | 2 => true | 8 => true | 9 => true | 10 => true | 11 => true | _ => false

/-- Formats with NaN: those with infinities, and E4M3 (01 R17). -/
def hasNan (f : Nat) : Bool := hasInf f || elemFmt f == 1

/-- The operand class of a matrix format (01 R22): 0 narrow, 1 16-bit, 2 FP32-slice, 3 FP64-slice. -/
def matClass (f : Nat) : Option Nat :=
  match f with
  | 0 => some 0 | 1 => some 0 | 2 => some 0 | 3 => some 0 | 4 => some 0 | 5 => some 0 | 8 => some 1 | 9 => some 1
  | 10 => some 2 | 11 => some 3 | _ => if 0x10 ≤ f ∧ f ≤ 0x15 then some 0 else none

/-! ### Exact values -/

/-- The value of an element: not a number (with whether it is signalling), an infinity, or (−1)^s × m × 2^e. -/
inductive FVal where
  | nan (sig : Bool)
  | inf (s : Bool)
  | fin (s : Bool) (m : Nat) (e : Int)
  deriving DecidableEq, Repr, Inhabited

/-- The canonical quiet NaN (01 R32). -/
def canonNan (f : Nat) : Nat :=
  match elemFmt f with
  | 11 => 0x7FF8000000000000 | 10 => 0x7FC00000 | 8 => 0x7FC0 | 9 => 0x7E00 | 2 => 0x7E | 1 => 0x7F | _ => 0

/-- An integer format's value (01 R16). -/
def intVal (f x : Nat) : Int := if elemFmt f = 13 then ((x % 256 : Nat) : Int) else signed (fmtBits f) x

/-- The sign bit of an element. -/
def signBit (f x : Nat) : Bool := x.testBit (fmtBits f - 1)

/-- The magnitude bits of an element (all but the sign). -/
def magBits (f x : Nat) : Nat := x % 2 ^ (fmtBits f - 1)

/-- The value an element's bits encode (01 R16–R19). A signalling NaN has mantissa bit msb 0 (01 R37). -/
def decodeVal (f x : Nat) : FVal :=
  if isInt f then
    let v := intVal f x
    .fin (decide (v < 0)) v.natAbs 0
  else
    let mb := manBits f
    let eb := expBits f
    let s := signBit f x
    let m := x % 2 ^ mb
    let ex := (x / 2 ^ mb) % 2 ^ eb
    let top := 2 ^ eb - 1
    if hasInf f && ex == top then (if m = 0 then .inf s else .nan (!m.testBit (mb - 1)))
    else if elemFmt f == 1 && ex == top && m == 2 ^ mb - 1 then .nan false
    else if ex = 0 then .fin s m (1 - (fpBias f : Int) - mb)
    else .fin s (m + 2 ^ mb) ((ex : Int) - fpBias f - mb)

/-- The scale a code of E8M0 decodes to: none for 0xFF (01 R21). -/
def scaleExp (c : Nat) : Option Int := if c % 256 = 255 then none else some (((c % 256 : Nat) : Int) - 127)

/-- An element of a block with scale exponent e (01 R20, R21). -/
def scaleVal (e : Option Int) : FVal → FVal
  | .fin s m x => match e with | none => .nan false | some d => .fin s m (x + d)
  | v => match e with | none => .nan false | some _ => v

def FVal.isNan : FVal → Bool | .nan _ => true | _ => false
def FVal.isInf : FVal → Bool | .inf _ => true | _ => false
def FVal.isZero : FVal → Bool | .fin _ 0 _ => true | _ => false
def FVal.sign : FVal → Bool | .nan _ => false | .inf s => s | .fin s _ _ => s

/-- Signed significand. -/
def sgnNat (s : Bool) (m : Nat) : Int := if s then -(m : Int) else m

/-- Order of two dyadic numbers a × 2^x ≤ b × 2^y. -/
def dyLe (a : Int) (x : Int) (b : Int) (y : Int) : Bool :=
  let lo := if x ≤ y then x else y
  decide (a * 2 ^ (x - lo).toNat ≤ b * 2 ^ (y - lo).toNat)

def dyLt (a : Int) (x : Int) (b : Int) (y : Int) : Bool := !dyLe b y a x

/-- Sum of two dyadic numbers. -/
def dyAdd (a : Int) (x : Int) (b : Int) (y : Int) : Int × Int :=
  let lo := if x ≤ y then x else y
  (a * 2 ^ (x - lo).toNat + b * 2 ^ (y - lo).toNat, lo)

/-- floor (a × 2^x), for a window's truncation toward −∞ (02 R58). -/
def dyFloor (a : Int) (x : Int) : Int := if 0 ≤ x then a * 2 ^ x.toNat else a / (2 ^ (-x).toNat : Int)

/-- Whether a × 2^x is an integer. -/
def dyExact (a : Int) (x : Int) : Bool := if 0 ≤ x then true else decide (a % (2 ^ (-x).toNat : Int) = 0)

/-! ### Rounding (01 R34) -/

/-- The rounding modes. -/
inductive Rm where
  | rne | rtz | rdn | rup | sr
  deriving DecidableEq, Repr, Inhabited

/-- The 3-bit encoding; 0b101–0b111 are reserved (rejected at load) and read as RNE here, which no loaded program holds. -/
def rmOf (x : BitVec 3) : Rm :=
  match x.toNat with | 0 => .rne | 1 => .rtz | 2 => .rdn | 3 => .rup | 4 => .sr | _ => .rne

/-- Number of bits of m. -/
def bitLen (m : Nat) : Nat := if m = 0 then 0 else Nat.log2 m + 1

/-- Whether the magnitude rounds up to the next quantum: lo / 2^sh is the discarded part, `sticky` says that the exact value
lies a little above it, u is the random word of SR (01 R35). -/
def roundsUp (rm : Rm) (s : Bool) (hi lo sh : Nat) (sticky : Bool) (u : Nat) : Bool :=
  let half := 2 ^ (sh - 1)
  let some_ := lo != 0 || sticky
  match rm with
  | .rne => decide (half < lo) || (decide (lo = half) && sh != 0 && (sticky || hi % 2 == 1))
  | .rtz => false
  | .rdn => s && some_
  | .rup => !s && some_
  | .sr =>
    if some_ then
      if s then !decide (2 ^ 32 ≤ 2 ^ 32 * (2 ^ sh - lo) / 2 ^ sh + u)
      else decide (2 ^ 32 ≤ 2 ^ 32 * lo / 2 ^ sh + u)
    else false

/-- A magnitude rounded to a multiple of 2^q: the significand, and whether it was inexact. -/
def roundQ (rm : Rm) (s : Bool) (m : Nat) (e : Int) (sticky : Bool) (u : Nat) (q : Int) : Nat × Bool :=
  if q ≤ e then
    let k := m * 2 ^ (e - q).toNat
    (k + b2n (sticky && roundsUp rm s k 0 0 sticky u), sticky)
  else
    let sh := (q - e).toNat
    let hi := m / 2 ^ sh
    let lo := m % 2 ^ sh
    (hi + b2n (roundsUp rm s hi lo sh sticky u), lo != 0 || sticky)

/-- The exponent of the quantum of m × 2^e at precision p, exponent range unbounded. -/
def quantumU (p m : Nat) (e : Int) : Int := e + bitLen m - p

/-- The exponent of the smallest subnormal. -/
def minExp (f : Nat) : Int := 1 - (fpBias f : Int) - manBits f

/-- Largest finite magnitude (01 R17) as significand and exponent. -/
def maxFin (f : Nat) : Nat × Int :=
  let mb := manBits f
  let topE : Int := if hasInf f then 2 ^ expBits f - 2 else 2 ^ expBits f - 1
  let m := 2 ^ (mb + 1) - 1 - (if elemFmt f = 1 then 1 else 0)
  (m, topE - fpBias f - mb)

/-- The bits of significand k × 2^q with sign s; k ≤ 2^(mb+1), q at least the subnormal quantum, value in range. -/
def packBits (f : Nat) (s : Bool) (k : Nat) (q : Int) : Nat :=
  let mb := manBits f
  let sgn := b2n s * 2 ^ (fmtBits f - 1)
  if k = 0 then sgn
  else
    let k' := if 2 ^ (mb + 1) ≤ k then k / 2 else k
    let q' := if 2 ^ (mb + 1) ≤ k then q + 1 else q
    if k' < 2 ^ mb then sgn + k'
    else sgn + (q' + fpBias f + mb).toNat * 2 ^ mb + (k' - 2 ^ mb)

/-- Signed zero, infinity and largest finite as bits. -/
def zeroBits (f : Nat) (s : Bool) : Nat := b2n s * 2 ^ (fmtBits f - 1)
def infBits (f : Nat) (s : Bool) : Nat := b2n s * 2 ^ (fmtBits f - 1) + (2 ^ expBits f - 1) * 2 ^ manBits f
def maxBits (f : Nat) (s : Bool) : Nat := packBits f s (maxFin f).1 (maxFin f).2

/-- What a rounding to a floating format gives: the bits when in range, inexact, tiny after rounding, beyond the largest
finite after rounding with unbounded exponent (01 R37), a subnormal result. -/
structure Rounded where
  bits : Nat
  inexact : Bool
  tiny : Bool
  ovf : Bool
  subnormal : Bool
  deriving DecidableEq, Repr, Inhabited

/-- Rounds (−1)^s × m × 2^e (a little more with sticky) to format f. Under SR the range test treats SR as RNE, and a value
above the largest finite whose RNE rounding is in range rounds to the largest finite (01 R37). Tininess is that of the value
rounded in the instruction's mode with unbounded exponent (R29). -/
def roundFloat (f : Nat) (rm : Rm) (s : Bool) (m : Nat) (e : Int) (sticky : Bool) (u : Nat) : Rounded :=
  if m = 0 && !sticky then { bits := zeroBits f s, inexact := false, tiny := false, ovf := false, subnormal := false }
  else
    let p := manBits f + 1
    let qU := quantumU p m e
    let rmR := if rm = .sr then .rne else rm
    let kU := roundQ rmR s m e sticky u qU
    let mf := maxFin f
    let ovf := dyLt mf.1 mf.2 kU.1 qU
    let kT := roundQ rm s m e sticky u qU
    let tiny := dyLt kT.1 qU 1 (1 - (fpBias f : Int))
    let q := if qU < minExp f then minExp f else qU
    let k := roundQ rm s m e sticky u q
    let aboveMax := rm == .sr && !ovf && dyLt mf.1 mf.2 m e
    if aboveMax then { bits := maxBits f s, inexact := true, tiny := false, ovf := false, subnormal := false }
    else
      let bits := packBits f s k.1 q
      { bits := bits, inexact := k.2, tiny := tiny, ovf := ovf,
        subnormal := decide (k.1 ≠ 0) && decide (q = minExp f) && decide (k.1 < 2 ^ manBits f) }

/-- The overflow result of IEEE 754-2019 7.4 for a rounding mode: largest finite under a mode that rounds toward zero,
else infinity (01 R37). -/
def overflowBits (f : Nat) (rm : Rm) (s : Bool) : Nat :=
  match rm with
  | .rtz => maxBits f s
  | .rdn => if s then infBits f s else maxBits f s
  | .rup => if s then maxBits f s else infBits f s
  | _ => infBits f s

/-- A value rounded to an integer in a mode (convertToInteger, 01 R45). -/
def roundInt (rm : Rm) (s : Bool) (m : Nat) (e : Int) (u : Nat) : Int := sgnNat s (roundQ rm s m e false u 0).1

/-- Bounds of an integer format. -/
def intMin (f : Nat) : Int := if elemFmt f = 13 then 0 else -(2 ^ (fmtBits f - 1))
def intMax (f : Nat) : Int := if elemFmt f = 13 then 255 else 2 ^ (fmtBits f - 1) - 1

end Sys2Proof.Machine
end

