-- ==== Sys2Proof/Machine/Ops.lean ====
section
/-!
DEFINITION. The named operations every family shares: access to tiles, operations and status words; counts and clocks;
the fault record and log (14 R378, R379, R477); statuses of an operation (00 R10–R12).
-/

namespace Sys2Proof.Machine

/-! ### Status codes (00 R10) -/

def stOk : BitVec 8 := 0x00
def stCapacity : BitVec 8 := 0x01
def stInvalid : BitVec 8 := 0x02
def stPort : BitVec 8 := 0x03
def stTranslation : BitVec 8 := 0x04
def stOrder : BitVec 8 := 0x05
def stWaitCycle : BitVec 8 := 0x06
def stTimeout : BitVec 8 := 0x07
def stDigest : BitVec 8 := 0x08
def stSkipped : BitVec 8 := 0x09
def stPivot : BitVec 8 := 0x0A
def stBest : BitVec 8 := 0x0B
def stLink : BitVec 8 := 0x0C
def stRemapped : BitVec 8 := 0x0D
def stEcc : BitVec 8 := 0x0E
def stPreempted : BitVec 8 := 0x0F
def stAborted : BitVec 8 := 0x10
def stRestricted : BitVec 8 := 0x11
def stSaturated : BitVec 8 := 0x12

/-- The Ended form of DIGEST_MISMATCH and of ECC_UNCORRECTABLE, kept apart inside the part from their Done-with-condition
form (00 R10); the record shows the low code. -/
def stDigestEnded : BitVec 8 := 0x88
def stEccEnded : BitVec 8 := 0x8E

/-- The code a record shows. -/
def stCode (st : BitVec 8) : BitVec 8 := st &&& 0x7F

/-- Classes in the order of R11: 0 Ended, 1 Held, 2 Done with condition, 3 Done. -/
def stClass (st : BitVec 8) : Nat :=
  match st.toNat with
  | 0x00 => 3 | 0x04 => 1 | 0x06 => 1 | 0x0F => 1 | 0x08 => 2 | 0x09 => 2 | 0x0A => 2 | 0x0B => 2 | 0x0C => 2 | 0x0D => 2
  | 0x0E => 2 | 0x12 => 2 | _ => 0

/-- The choice of R11: by class, then the lowest code. -/
def stChoose : List (BitVec 8) → BitVec 8
  | [] => stOk
  | st :: l =>
    let r := stChoose l
    if stClass st < stClass r ∨ (stClass st = stClass r ∧ (stCode st).toNat ≤ (stCode r).toNat) then st else r

/-- SEV of a record for a status a completion does not carry (14 R477). -/
def stSev (st : BitVec 8) : Nat :=
  if stClass st = 0 then 2
  else if st = stLink ∨ st = stRemapped ∨ st = stDigest ∨ st = stEcc then 1 else 0

/-! ### Source kinds of a fault record (14 R378) -/

def srcTile : Nat := 0x01
def srcHbm : Nat := 0x02
def srcPort : Nat := 0x03
def srcRouter : Nat := 0x04
def srcRing : Nat := 0x05
def srcStep : Nat := 0x06
def srcIndex : Nat := 0x07
def srcPower : Nat := 0x08
def srcLantern : Nat := 0x09
def srcValidator : Nat := 0x0A
def srcTest : Nat := 0x0B
def srcRemote : Nat := 0x0C

/-! ### Sparse helpers -/

/-- Every listed value replaced; values that become the default leave the list. -/
def Sparse.mapVals {α : Type} [DecidableEq α] (d : α) (f : Nat → α → α) (m : Sparse α) : Sparse α :=
  (m.map fun c => (c.1, f c.1 c.2)).filter fun c => decide (c.2 ≠ d)

/-! ### State access -/

/-- The next state of a step that runs. -/
def ok (s : State) : Host.Outcome State Fault Refusal := .next s

def State.tile (s : State) (t : Nat) : Tile := Sparse.get Tile.reset s.tiles t

def State.setTile (s : State) (t : Nat) (x : Tile) : State := { s with tiles := Sparse.set Tile.reset s.tiles t x }

/-- A tile's sequencer replaced. -/
def State.setSeq (s : State) (t : Nat) (q : TileSeq) : State := s.setTile t { s.tile t with seq := q }

/-- The sticky flag word of a tile (01 R44, R46). -/
def State.raiseFlags (s : State) (t : Nat) (f : Nat) : State :=
  s.setTile t { s.tile t with flags := raise (s.tile t).flags f }

def State.emit (s : State) (o : Out) : State := { s with out := s.out ++ [o] }

/-- The next free value; the counter moves on (log entry 3). -/
def State.freeVal (s : State) : BitVec 64 := Config.freeValue s.free

def State.useFree (s : State) (n : Nat) : State := { s with free := s.free + n }

def State.op (s : State) (tag : Nat) : Option Op := Sparse.get none s.q.ops tag

def State.setOp (s : State) (tag : Nat) (o : Option Op) : State :=
  { s with q := { s.q with ops := Sparse.set none s.q.ops tag o } }

def State.updOp (s : State) (tag : Nat) (f : Op → Op) : State :=
  match s.op tag with
  | none => s
  | some o => s.setOp tag (some (f o))

def State.flag (s : State) (i : Nat) : BitVec 64 := Sparse.get 0 s.q.flag i

/-- Flag i as it stood at an earlier count: the value before the first change after it (04 R129). -/
def State.flagAsOf (s : State) (i at_ : Nat) : BitVec 64 :=
  match (s.q.flagLog.filter fun e => e.2.1 == i && decide (at_ < e.1)).getLast? with
  | some e => e.2.2
  | none => s.flag i

def State.work (s : State) (n : Nat) : WorkRing := Sparse.get WorkRing.reset s.q.work n

def State.setWork (s : State) (n : Nat) (w : WorkRing) : State :=
  { s with q := { s.q with work := Sparse.set WorkRing.reset s.q.work n w } }

def State.comp (s : State) (n : Nat) : CompRing := Sparse.get CompRing.reset s.q.comp n

def State.setComp (s : State) (n : Nat) (w : CompRing) : State :=
  { s with q := { s.q with comp := Sparse.set CompRing.reset s.q.comp n w } }

def State.ixe (s : State) (e : Nat) : IxEngine := Sparse.get IxEngine.reset s.ix e

def State.setIxe (s : State) (e : Nat) (x : IxEngine) : State := { s with ix := Sparse.set IxEngine.reset s.ix e x }

def State.port (s : State) (n : Nat) : Port := Sparse.get Port.reset s.lnk.port n

def State.setPort (s : State) (n : Nat) (p : Port) : State :=
  { s with lnk := { s.lnk with port := Sparse.set Port.reset s.lnk.port n p } }

/-- A host port: false A, true B. -/
def State.hp (s : State) (b : Bool) : HostPort := if b then s.hpB else s.hpA

def State.setHp (s : State) (b : Bool) (h : HostPort) : State := if b then { s with hpB := h } else { s with hpA := h }

/-- The part ID: GBL_PARTID[12:0] (16 R430). -/
def State.partNo (s : State) : Nat := s.gbl.partId.toNat % 2 ^ 13

/-- The part of a rank, none when the rank map has no entry (11 R303: 0xFFFF). -/
def State.partOf (s : State) (rank : Nat) : Option Nat :=
  let p := Sparse.get 0xFFFF s.coll.rankMap rank
  if p = 0xFFFF then none else some p

/-- The logical rank of this part: 0xFFFF when it holds none (14 R378 RANK; log entry 8). -/
def State.rank (s : State) : Nat :=
  match s.coll.rankMap.find? fun c => c.2 == s.partNo with
  | some c => c.1
  | none => 0xFFFF

/-- Compute requests complete with RESTRICTED_MODE (00 R3, 13 R375). -/
def State.restricted (s : State) : Bool := s.gbl.restricted || s.gbl.retired

/-- The part works: READY is high (17 R461). -/
def State.ready (s : State) : Bool := s.pins.ready

/-! ### Records in HBM -/

/-- A 64-bit word of HBM. -/
def State.mem64 (s : State) (a : Nat) : Nat := Bytes.readLe s.hbm.mem a 8

/-- Bits [hi:lo] of the word at byte offset `off` of a record. -/
def State.recField (s : State) (r off hi lo : Nat) : Nat := field (s.mem64 (r + off)) hi lo

/-- The layer of a tensor: as the step run names it, else open (log entry 51). -/
def State.layerOf (s : State) (tid : Nat) : Nat :=
  match s.seqr.names.layers.find? fun x => x.1 == tid with
  | some x => x.2 % 2 ^ 16
  | none => Config.layerOf s.gbl.progId.toNat tid % 2 ^ 16

/-- Block size of a code; 0 for a reserved one. -/
def blockSize (c : Nat) : Nat := if c ≤ 4 then 256 * 2 ^ c else 0

/-- The block size of a side of a curvature record (06 R184): false A, true G. -/
def State.curvB (s : State) (r : Nat) (g : Bool) : Nat := blockSize (if g then s.recField r 0 29 27 else s.recField r 0 26 24)

/-- The dimension of a side. -/
def State.curvDim (s : State) (r : Nat) (g : Bool) : Nat := if g then s.recField r 8 63 32 else s.recField r 8 31 0

/-- A side of a curvature record is enabled: false A, true G (06 R184). -/
def State.curvOn (s : State) (r : Nat) (g : Bool) : Bool := s.recField r 0 (if g then 17 else 16) (if g then 17 else 16) == 1

/-- The step gathers statistics for a layer (06 R178). -/
def State.gathers (s : State) (r : Nat) : Bool :=
  (s.curvOn r false || s.curvOn r true) && s.gbl.step.toNat % s.recField r 0 39 32 == s.recField r 0 47 40

/-! ### Counts and clocks (11 R289, R296) -/

/-- Core cycles in 5 counts: 7 at 1.40 GHz, 8 at 1.60 GHz. -/
def State.cyc5 (s : State) : Nat := if s.gbl.clk = 1400 then 7 else 8

/-- Cycles from the section's start to now of a tile: its program cycle and all that has delayed its issue (04 R130). -/
def Tile.now (x : Tile) : Nat := x.seq.cycle + x.seq.shift - x.seq.origin

/-- The first aligned count at or after c. -/
def alignedCount (c : Nat) : Nat := alignUp c 5

/-- Counts that n cycles take, rounded up. -/
def State.countsOf (s : State) (n : Nat) : Nat := ceilDiv (n * 5) s.cyc5

/-- Cycles in n counts. -/
def State.cyclesOf (s : State) (n : Nat) : Nat := n * s.cyc5 / 5

/-- The count a coordinator announces: the first aligned count at or after the current count + TB_LEAD (11 R300). -/
def State.announceCount (s : State) : Nat := alignedCount (s.tb.count + s.tb.lead)

/-! ### Fault records (14 R378, R379, R380, R477) -/

/-- Items of a record that do not depend on the part's state. -/
structure Cause where
  status : BitVec 8
  sev : Nat
  src : Nat
  unit : Nat
  tag : Option Nat
  detail : List Nat
  deriving DecidableEq, Repr, Inhabited

/-- The 64 bytes of record `cont` of a cause, with four of its DETAIL words and the MORE bit. -/
def State.recordBytes (s : State) (c : Cause) (cont : Nat) (more : Bool) (words : List Nat) : List Byte :=
  let ring := match c.tag with
    | none => 0
    | some g => match s.op g with | none => 0 | some o => o.ring
  let tagv := match c.tag with | none => false | some _ => true
  let w2 := (stCode c.status).toNat + (if cont = 0 then c.sev else 0) * 2 ^ 8 + c.src * 2 ^ 16 + (c.unit % 2 ^ 16) * 2 ^ 24
    + s.partNo * 2 ^ 40
  let w3 := (c.tag.getD 0) % 2 ^ 12 + (ring % 2 ^ 7) * 2 ^ 12 + b2n tagv * 2 ^ 19 + s.rank * 2 ^ 20 + cont * 2 ^ 36
    + b2n more * 2 ^ 48
  leBytes 8 s.gbl.step.toNat ++ leBytes 8 s.tb.count ++ leBytes 8 w2 ++ leBytes 8 w3
    ++ ((List.range 4).map fun i => leBytes 8 (words.getD i 0)).flatten

/-- Appends one record to the fault-log ring: the oldest entry is overwritten when it is full. -/
def State.appendRecord (s : State) (sev : Nat) (bytes : List Byte) : State :=
  let f := s.flt
  let a := f.base.toNat + 64 * (f.head % f.size)
  let pend := if 2 ≤ sev then satAdd 32 f.pend 1 else f.pend
  let worst := if pend = 0 then 0 else if f.pend = 0 then sev else Nat.max f.worst.toNat sev
  { s with
    hbm := { s.hbm with mem := Bytes.writeN s.hbm.mem a bytes }
    flt := { f with head := f.head + 1, lost := if f.size ≤ f.head then satAdd 32 f.lost 1 else f.lost, pend := pend,
                    worst := BitVec.ofNat 2 worst } }

/-- The records of a cause from its cont-th on: four DETAIL words each. -/
def State.logFrom (s : State) (c : Cause) (cont : Nat) : List (List Nat) → State
  | [] => s
  | [w] => s.appendRecord (if cont = 0 then c.sev else 0) (s.recordBytes c cont false w)
  | w :: ws => (s.appendRecord (if cont = 0 then c.sev else 0) (s.recordBytes c cont true w)).logFrom c (cont + 1) ws

/-- Writes the fault record of a cause with its continuation records. -/
def State.logCause (s : State) (c : Cause) : State :=
  s.logFrom c 0 (if c.detail.isEmpty then [[]] else chunksOf 4 c.detail)

/-! ### Statuses of operations (00 R11) -/

/-- A status applies to an operation. -/
def State.addStatusTo (s : State) (tag : Nat) (st : BitVec 8) : State :=
  s.updOp tag fun o => { o with statuses := if o.statuses.contains st then o.statuses else o.statuses ++ [st] }

/-- A status of the step in progress of RUN_STEPS (08 R236). -/
def State.addStepStatus (s : State) (st : BitVec 8) : State :=
  if s.seqr.stepStatus.contains st then s else { s with seqr := { s.seqr with stepStatus := s.seqr.stepStatus ++ [st] } }

/-- A status applies to the running program's operation, and to its step. -/
def State.addStatus (s : State) (st : BitVec 8) : State :=
  match s.prog.tag with
  | none => s
  | some g => (if s.seqr.tag = some g then s.addStepStatus st else s).addStatusTo g st

/-- A Held record that has not been written is still owed when the operation goes on or ends (00 R12, 12 R336). -/
def Op.owing (o : Op) : Op :=
  match o.phase with
  | .holding st r => { o with owed := o.owed ++ [(st, r)] }
  | _ => o

/-- An operation ends: the final record waits to be written (12 R334), behind Held records that it owes. -/
def State.finish (s : State) (tag : Nat) (sts : List (BitVec 8)) (result : BitVec 64) : State :=
  (sts.foldl (fun s st => s.addStatusTo tag st) s).updOp tag fun o => { o.owing with phase := .finished, result := result }

/-- An operation ends with a RESULT that the manual does not state: the field is open (log entry 44). -/
def State.finishOpen (s : State) (tag : Nat) (sts : List (BitVec 8)) : State := (s.finish tag sts s.freeVal).useFree 1

/-- RESULT of an operation that ends where it is, for the opcodes to which 12 R335 gives one: 0 of LOAD_PROGRAM, the step counter of
RUN_STEPS, the bytes moved of a DMA, the step counter of the first unit of STATE_READ, the length of a SNAPSHOT's image, the flag
that a WAIT sees. -/
def State.endResult (s : State) (o : Op) : Option W64 :=
  match o.opcode with
  | 0x01 => some 0
  | 0x03 => some s.gbl.step
  | 0x04 => some (BitVec.ofNat 64 o.moved)
  | 0x05 => some (BitVec.ofNat 64 o.moved)
  | 0x06 => if o.moved = 0 then none else some o.result
  | 0x07 => if o.todo then none else some o.result
  | 0x09 => some (s.flag (field o.desc.toNat 71 64))
  | _ => none

/-- An operation ends where it is. -/
def State.endEarly (s : State) (tag : Nat) (sts : List (BitVec 8)) : State :=
  match s.op tag with
  | none => s
  | some o => match s.endResult o with
    | some r => s.finish tag sts r
    | none => s.finishOpen tag sts

/-- An operation becomes Held: its Held record waits to be written (00 R12). -/
def State.hold (s : State) (tag : Nat) (st : BitVec 8) (result : BitVec 64) : State :=
  s.updOp tag fun o => { o with phase := .holding st result }

end Sys2Proof.Machine
end

