-- ==== Sys2Proof/Machine/Routes.lean ====
section
/-!
DEFINITION. Zilio topology and routes (10 R278–R283), and flits up to the queue of the port on which they leave (10 R264–R267).
-/

namespace Sys2Proof.Machine

/-! ### Topology and routes (10 R278–R283) -/

/-- Port of member m toward member n of its group. -/
def groupPort (m n : Nat) : Nat := if n < m then n else n - 1

/-- The global link from group g to group h. -/
def globalLink (g h : Nat) : Nat := (h + 257 * 2 - g - 1) % 257

/-- The part and port that R279 and R280 give for a port of a part; none for P31. -/
def wiredPeer (part port : Nat) : Option (Nat × Nat) :=
  let g := part / 16
  let m := part % 16
  if port < 15 then
    let n := if port < m then port else port + 1
    some (16 * g + n, groupPort n m)
  else if port < 31 then
    let c := 16 * m + (port - 15)
    let h := (g + c + 1) % 257
    some (16 * h + (255 - c) / 16, 15 + (255 - c) % 16)
  else none

/-- The hops of the minimal route: part and port of each (10 R282). -/
def minimalRoute (a b : Nat) : List (Nat × Nat) :=
  let g := a / 16
  let h := b / 16
  if a = b then []
  else if g = h then [(a, groupPort (a % 16) (b % 16))]
  else
    let c := globalLink g h
    let x := 16 * g + c / 16
    let y := 16 * h + (255 - c) / 16
    (if a = x then [] else [(a, groupPort (a % 16) (x % 16))]) ++ [(x, 15 + c % 16)]
      ++ (if y = b then [] else [(y, groupPort (y % 16) (b % 16))])

/-- A link is known to have failed, at either end. -/
def State.linkFailed (s : State) (part port : Nat) : Bool :=
  s.lnk.failed.contains (part, port)
    || (match wiredPeer part port with | none => false | some p => s.lnk.failed.contains p)

/-- Ports that carry traffic. -/
def PortState.works : PortState → Bool
  | .up => true | .degraded => true
  | .dark => false | .training => false | .failed => false | .miswired => false

/-- Parts known to be in the domain: those of the rank map, and this one. -/
def State.domainParts (s : State) : List Nat :=
  (s.partNo :: (s.coll.rankMap.map (·.2)).filter (· != 0xFFFF)).eraseDups

/-- A link is up as far as this part knows: it is wired, no failure of it is known, and a port of this part works and is not held back
by R277. -/
def State.linkUp (s : State) (part port : Nat) : Bool :=
  (wiredPeer part port).isSome && !s.linkFailed part port
    && (part != s.partNo || ((s.port port).state.works && !(s.port port).parked))

/-- Usable links of a part: port and far part. -/
def State.usableLinks (s : State) (parts : List Nat) (a : Nat) : List (Nat × Nat) :=
  (List.range 31).filterMap fun k =>
    match wiredPeer a k with
    | none => none
    | some p => if parts.contains p.1 && s.linkUp a k then some (k, p.1) else none

/-- Searches back from the destination, hop by hop, for the first link of part `a` on a shortest route; ties go to the lowest part
(10 R283). -/
def State.searchHop (s : State) (parts : List Nat) (a : Nat) : Nat → List Nat → List Nat → Option (Nat × Nat)
  | 0, _, _ => none
  | n + 1, front, seen =>
    let mine := (s.usableLinks parts a).filter fun l => front.contains l.2
    match mine with
    | l :: ls => some (ls.foldl (fun b x => if x.2 < b.2 then x else b) l)
    | [] =>
      let next := parts.filter fun p => !seen.contains p && (s.usableLinks parts p).any fun l => front.contains l.2
      if next.isEmpty then none else s.searchHop parts a n next (seen ++ next)

/-- The shortest route from part a to part b that avoids every known failure; empty when there is none. -/
def State.searchRoute (s : State) (parts : List Nat) (b : Nat) : Nat → Nat → List (Nat × Nat)
  | 0, _ => []
  | n + 1, a =>
    if a = b then []
    else match s.searchHop parts a (parts.length + 1) [b] [b] with
      | none => []
      | some l => (a, l.1) :: s.searchRoute parts b n l.2

/-- The two hops that replace a failed group link: through the lowest-numbered member whose links to both ends are up (10 R283). -/
def State.groupDetour (s : State) (parts : List Nat) (a b : Nat) : Option (List (Nat × Nat)) :=
  let g := a / 16
  ((List.range 16).find? fun k =>
    k != a % 16 && k != b % 16 && parts.contains (16 * g + k)
      && s.linkUp a (groupPort (a % 16) k) && s.linkUp (16 * g + k) (groupPort k (b % 16))).map
    fun k => [(a, groupPort (a % 16) k), (16 * g + k, groupPort k (b % 16))]

/-- The global link between two groups: part and port at the near end, part at the far end. -/
def globalEnds (g h : Nat) : (Nat × Nat) × Nat :=
  let c := globalLink g h
  ((16 * g + c / 16, 15 + c % 16), 16 * h + (255 - c) / 16)

/-- The route that replaces one over a failed global link: through the lowest-numbered group whose global links to both are up
(10 R283). -/
def State.globalDetour (s : State) (parts : List Nat) (a b : Nat) : Option (List (Nat × Nat)) :=
  let g := a / 16
  let h := b / 16
  ((List.range 257).find? fun i =>
    i != g && i != h && parts.contains (globalEnds g i).2 && s.linkUp (globalEnds g i).1.1 (globalEnds g i).1.2
      && s.linkUp (globalEnds i h).1.1 (globalEnds i h).1.2).map
    fun i =>
      let x := globalEnds g i
      let y := globalEnds i h
      minimalRoute a x.1.1 ++ [x.1] ++ minimalRoute x.2 y.1.1 ++ [y.1] ++ minimalRoute y.2 b

/-- The route from part a to part b (10 R282, R283): minimal; with one link of it failed, the replacement of that link; with more, or
when the replacement is not whole, the shortest that avoids every known failure (log entry 134). -/
def State.routeOf (s : State) (a b : Nat) : List (Nat × Nat) :=
  let r := minimalRoute a b
  let up (h : Nat × Nat) : Bool := s.linkUp h.1 h.2
  let parts := s.domainParts
  match r.filter fun h => !up h with
  | [] => r
  | [h] =>
    let other := if 15 ≤ h.2 then s.globalDetour parts a b
      else ((wiredPeer h.1 h.2).bind fun p => s.groupDetour parts h.1 p.1).map fun d => r.flatMap fun x => if x = h then d else [x]
    match other with
    | some d => if d.all up then d else s.searchRoute parts b (parts.length + 1) a
    | none => s.searchRoute parts b (parts.length + 1) a
  | _ => s.searchRoute parts b (parts.length + 1) a

/-- The port on which a route to a part leaves. -/
def State.routePort (s : State) (dest : Nat) : Option Nat := (s.routeOf s.partNo dest).head?.map (·.2)

/-! ### Trees (11 R312–R314) -/

/-- Trailing zero bits of a member index, at most 13. -/
def trailing : Nat → Nat → Nat
  | 0, _ => 0
  | n + 1, m => if m % 2 = 1 then 0 else 1 + trailing n (m / 2)

/-- The tree of a shape: parent of a member, none for the member that holds the result. -/
def treeParent (chain : Bool) (n m : Nat) : Option Nat :=
  if chain then (if m + 1 < n then some (m + 1) else none)
  else if m = 0 then none else some (m - 2 ^ trailing 13 m)

/-- Members whose values a member combines, in order. -/
def treeChildren (chain : Bool) (n m : Nat) : List Nat :=
  if chain then (if m = 0 then [] else [m - 1])
  else ((List.range (if m = 0 then 13 else trailing 13 m)).map (m + 2 ^ ·)).filter fun c => decide (c < n)

/-- The member that holds the reduction when nodes combine it. -/
def treeHolder (chain : Bool) (n : Nat) : Nat := if chain then n - 1 else 0

/-- Members a member passes the root's result to: down the tree of the shape, root 0. -/
def downChildren (chain : Bool) (n m : Nat) : List Nat :=
  if chain then (if m + 1 < n then [m + 1] else []) else treeChildren false n m

/-- The own index of this part in a communicator. -/
def State.memberIndex (s : State) (c : Comm) : Option Nat :=
  (List.range c.members.length).find? fun i => s.partOf (c.members.getD i 0) == some s.partNo

def State.memberPart (s : State) (c : Comm) (m : Nat) : Option Nat :=
  match c.members[m]? with | none => none | some r => s.partOf r

/-- Members to which member `me` of a communicator sends legs of an entry (11 R306, R312–R314). -/
def CollEntry.legDests (e : CollEntry) (c : Comm) (me : Nat) : List Nat :=
  let others := (List.range c.n).filter (· != me)
  let holder := treeHolder c.chain c.n
  let up : List Nat := match treeParent c.chain c.n me with | none => [] | some d => [d]
  match e.type with
  | 1 => if c.placeRoot then others else up ++ (if me = holder then others else [])
  | 2 => others
  | 3 => if me = e.rootm then others else []
  | 4 => others
  | 5 => others
  | _ =>
    (if c.placeRoot then (if me = 0 then [] else [0]) else up ++ (if me = holder ∧ holder ≠ 0 then [0] else []))
      ++ downChildren c.chain c.n me

/-- The hops that the legs of a running collective take from and to this part. -/
def State.runHops (s : State) (r : CollRun) : List (Nat × Nat) :=
  match s.coll.entries[r.entry]? with
  | none => []
  | some e =>
    match s.coll.comms[e.comm]? with
    | none => []
    | some c =>
      match s.memberIndex c with
      | none => []
      | some me =>
        (List.range c.n).flatMap fun m =>
          match s.memberPart c m with
          | none => []
          | some p =>
            (if (e.legDests c me).contains m then s.routeOf s.partNo p else [])
              ++ (if (e.legDests c m).contains me then s.routeOf p s.partNo else [])

/-- A collective in progress uses a link, named by either end. -/
def State.runUses (s : State) (r : CollRun) (part port : Nat) : Bool :=
  (s.runHops r).any fun h => h == (part, port) || wiredPeer h.1 h.2 == some (part, port)

/-! ### Flits (10 R264–R266) -/

def tyIdle : BitVec 4 := 0
def tyData : BitVec 4 := 1
def tyControl : BitVec 4 := 2
def tyNak : BitVec 4 := 3
def tyTunnel : BitVec 4 := 4
def tyNotice : BitVec 4 := 5
def tyLaneMap : BitVec 4 := 6

/-- Header bytes 0x00–0x0B. -/
def flitHead (f : Flit) : List Byte :=
  let w := f.type.toNat + f.seq.toNat * 2 ^ 4 + f.ackSeq.toNat * 2 ^ 16 + b2n f.ackV * 2 ^ 28 + f.dest.toNat * 2 ^ 32
    + f.stream.toNat * 2 ^ 48
  leBytes 8 w ++ leBytes 4 (f.tseq.toNat + f.tport.toNat * 2 ^ 12)

/-- The CRC of header bytes 0x00–0x0B and the payload. -/
def flitCrc (f : Flit) : BitVec 32 := crc32 (flitHead f ++ f.payload)

/-- A flit to send: 256 bytes of payload. -/
def newFlit (type : BitVec 4) (dest stream : Nat) (payload : List Byte) : Flit :=
  { type := type, seq := 0, ackSeq := 0, ackV := false, dest := BitVec.ofNat 13 dest, stream := BitVec.ofNat 16 stream,
    tseq := 0, tport := 0, crc := 0, payload := payload ++ List.replicate (256 - payload.length) 0, err0 := 0, err1 := 0,
    inner := none }

/-- Flits the replay buffer holds (10 R267). -/
def replaySize : Nat := 2048

/-- A flit waits to be sent on a port. -/
def Port.queue (p : Port) (f : Flit) : Port := { p with waiting := p.waiting ++ [f] }

/-- A flit waits on the port of its route; none: it is not sent. -/
def State.sendTo (s : State) (dest : Nat) (f : Flit) : State :=
  match s.routePort dest with
  | none => s
  | some n => s.setPort n ((s.port n).queue f)

/-- A sequenced control flit with an announcement or a message for a part; what its payload holds is open (log entry 23). -/
def controlFlit (dest : Nat) (words : List Nat) : Flit := newFlit tyControl dest 0 (Config.controlBytes words)

/-- An announcement: sequenced control flits to every other part of the domain (11 R296), which wait out any retry with the data (10
R286). -/
def State.announce (s : State) (o : Out) (words : List Nat) : State :=
  ((s.domainParts.filter (· != s.partNo)).foldl (fun (s : State) p => s.sendTo p (controlFlit p words)) s).emit o

/-- A message to one part. -/
def State.tell (s : State) (dest : Nat) (o : Out) (words : List Nat) : State := (s.sendTo dest (controlFlit dest words)).emit o

/-! ### Codewords and lanes (10 R263, R264, R271) -/

/-- Byte errors that RS(160,136) corrects in a codeword. -/
def fecLimit : Nat := 12

/-- Both codewords decode. -/
def flitFecOk (f : Flit) : Bool := decide (f.err0 ≤ fecLimit ∧ f.err1 ≤ fecLimit)

/-- Codewords that cannot be decoded. -/
def flitFecBad (f : Flit) : Nat := b2n (decide (fecLimit < f.err0)) + b2n (decide (fecLimit < f.err1))

/-- Bytes that the FEC corrects. -/
def flitFecBytes (f : Flit) : Nat := (if f.err0 ≤ fecLimit then f.err0 else 0) + (if f.err1 ≤ fecLimit then f.err1 else 0)

/-- The 272 bytes of a flit: header and payload. -/
def flitBytes (f : Flit) : List Byte := flitHead f ++ leBytes 4 f.crc.toNat ++ (f.payload ++ List.replicate 256 0).take 256

/-- A codeword: 136 bytes and the 24 of its parity, which are open (log entry 125). -/
def codeword (bs : List Byte) : List Byte := bs ++ (Config.rsParity bs ++ List.replicate 24 0).take 24

/-- Bytes of two codewords in turn. -/
def interleave : List Byte → List Byte → List Byte
  | a :: l, b :: m => a :: b :: interleave l m
  | l, [] => l
  | [], m => m

/-- Every other byte, from the first on. -/
def everyOther : List Byte → List Byte
  | a :: _ :: l => a :: everyOther l
  | l => l

/-- The 320 bytes that a flit is sent as. -/
def wireBytes (f : Flit) : List Byte :=
  let bs := flitBytes f
  interleave (codeword (everyOther bs)) (codeword (everyOther (bs.drop 1)))

/-- Lanes that are not good. -/
def badLanes (v : BitVec 17) : Nat := ((List.range 17).filter fun k => !v.getLsbD k).length

/-- The active lanes of a direction (R271): the first 16 good ones, 15 when two have failed, none when more have. -/
def activeLanes (v : BitVec 17) : List Nat :=
  if 3 ≤ badLanes v then [] else ((List.range 17).filter fun k => v.getLsbD k).take 16

/-- The bytes of each active lane, from the lane `at_` on in ascending order. -/
def laneBytes (lanes : List Nat) (at_ : Nat) (bs : List Byte) : List (Nat × List Byte) :=
  let n := lanes.length
  (List.range n).map fun j => (lanes.getD j 0, ((List.range bs.length).filter fun i => (at_ + i) % n == j).map fun i => bs.getD i 0)

end Sys2Proof.Machine
end

