-- ==== Sys2Proof/Machine/Announce.lean ====
section
/-!
DEFINITION. Announcements: coordinated pause and stop (11 R296–R300), the stopping causes of a tile and of a part, and single-fault
recovery up to its pause (14 R381, R386).
-/

namespace Sys2Proof.Machine

/-! ### Pause and stop announcements (11 R297, R299, R300) -/

/-- Of two announcements of one kind, the earlier count, then the lower coordinator. -/
def earlier (a b : Nat × Nat) : Nat × Nat := if a.1 < b.1 ∨ (a.1 = b.1 ∧ a.2 ≤ b.2) then a else b

/-- A pause announcement is taken up. -/
def State.takePause (s : State) (p coord : Nat) : State :=
  let a := match s.ag.pause with | none => (p, coord) | some b => earlier (p, coord) b
  { s with ag := { s.ag with pause := some a } }

/-- This part coordinates a pause: it announces P at once. -/
def State.announcePause (s : State) : State :=
  let p := s.announceCount
  (s.takePause p s.partNo).announce (.pause p) [3, p]

/-- A stop announcement is taken up; a stop that ends the program replaces one that pre-empts it. -/
def State.takeStop (s : State) (n : Stop) : State :=
  let a := match s.ag.stop with
    | none => n
    | some b =>
      if b.pre && !n.pre then n
      else if n.pre && !b.pre then b
      else if n.c < b.c ∨ (n.c = b.c ∧ n.coord ≤ b.coord) then n else b
  { s with ag := { s.ag with stop := some a } }

/-- This part coordinates a stop of the domain. -/
def State.announceStop (s : State) (st : BitVec 8) (pre : Bool) : State :=
  let c := s.announceCount
  (s.takeStop { c := c, coord := s.partNo, status := st, pre := pre }).announce (.stop c (stCode st) pre)
    [5, c, (stCode st).toNat, b2n pre]

/-- A tile that has not ended its section. -/
def TileRun.live : TileRun → Bool
  | .running => true | .waiting => true | .stalled => true | .atSafe _ => true | .replayEnd => true | .reserve => true
  | .idle => false | .halted => false | .stopped => false

/-- The tile stops at the start of program cycle c (or earlier, when a stop already holds). -/
def Tile.stopBy (x : Tile) (c : Nat) : Tile :=
  if x.seq.run.live then
    { x with stopAt := some (match x.stopAt with | none => c | some b => Nat.min b c) }
  else x

/-- A stop that falls due takes effect: at the start of its cycle, or at once when the sequencer waits rather than issues. -/
def Tile.settle (x : Tile) : Tile :=
  match x.stopAt with
  | none => x
  | some c =>
    if x.seq.run.live then
      if c ≤ x.seq.cycle ∨ x.seq.run ≠ .running then { x with seq := { x.seq with run := .stopped }, stopAt := none } else x
    else { x with stopAt := none }

/-- A stopping cause at a tile's program cycle `cyc` (03 R93, 04 R135): that tile stops at the end of the cycle, every other
tile of the part at the end of the cycle 32 cycles later (a tile whose program cycle is not past this one's has this cycle still
before it), the domain stops under R300, the operation completes with the status, and the record
carries the details. -/
def State.stopTile (s : State) (t cyc : Nat) (st : BitVec 8) (detail : List Nat) : State :=
  let s := s.logCause { status := st, sev := 2, src := srcTile, unit := t, tag := s.prog.tag, detail := detail }
  let here := (s.tile t).seq.cycle
  let late := 32 + (cyc - here)
  let each (u : Nat) (x : Tile) : Tile :=
    if u = t then x.stopBy (cyc + 1) else (x.stopBy (x.seq.cycle + late + b2n (decide (x.seq.cycle ≤ here)))).settle
  let s := { s with tiles := Sparse.mapVals Tile.reset each s.tiles }
  (s.addStatus st).announceStop st false

/-- A stopping cause found by the router, the step sequencer or a host: every tile of this part stops at once (11 R300;
log entry 10), the domain at the announced count. -/
def State.stopPart (s : State) (c : Cause) : State :=
  let s := s.logCause c
  let each (_ : Nat) (x : Tile) : Tile :=
    if x.seq.run.live then { x with seq := { x.seq with run := .stopped }, stopAt := none } else x
  let s := { s with tiles := Sparse.mapVals Tile.reset each s.tiles }
  (s.addStatus c.status).announceStop c.status false

/-! ### Single-fault recovery (14 R381, R386, R388) -/

/-- A single in-part fault at program cycle `cyc`: the record (SEV 1), the status as Done with condition, and the
announcement of the pause. A second fault before Q returns the recovery to its re-map term (R388). With no program running
only the record is written (log entry 11). -/
def State.recoverFault (s : State) (c : Cause) (cyc : Nat) : State :=
  let s := s.logCause c
  match s.prog.tag with
  | none => s
  | some _ =>
    let s := s.addStatus c.status
    match s.recov.stage with
    | .none =>
      ({ s with recov := { s.recov with stage := .announced, cause := some (c.status, c.src, c.unit),
                                        faultCycle := cyc } }).announcePause
    | .announced => { s with recov := { s.recov with faultCycle := Nat.max s.recov.faultCycle cyc } }
    | _ => { s with recov := { s.recov with stage := .paused, cause := some (c.status, c.src, c.unit),
                                            faultCycle := Nat.max s.recov.faultCycle cyc } }

/-- A double-bit error of a tile's memory (02 R59, 03 R94, 14 R381): recovery with ECC_UNCORRECTABLE; the row is retested
and repaired in the re-map term. `row` is a scratchpad region (13 R370), or 4,096 + row group for an accumulator. -/
def State.eccFault (s : State) (t row : Nat) : State :=
  let s := s.recoverFault { status := stEcc, sev := 1, src := srcTile, unit := t, tag := s.prog.tag, detail := [t, row] }
    (s.tile t).seq.cycle
  match s.prog.tag with
  | none => s
  | some _ => { s with recov := { s.recov with rows := (t, row) :: s.recov.rows } }

end Sys2Proof.Machine
end

