-- ==== Sys2Proof/Machine/Arith.lean ====
section
/-!
DEFINITION. Element arithmetic of the vector engine (01 R27–R33, R41–R45; 03 R86–R88): each operation takes a format, the
mode and operand bits, and gives the result bits and the flags it raises. `st` is STRICT.
-/

namespace Sys2Proof.Machine

/-- Result bits and flags of one element operation. -/
abbrev Res := Nat × Nat

/-! ### Inputs -/

/-- A subnormal element: exponent field 0, mantissa not 0. -/
def isSubnormal (f x : Nat) : Bool := decide ((magBits f x) / 2 ^ manBits f = 0) && decide (x % 2 ^ manBits f ≠ 0)

/-- FAST replaces a subnormal input by zero of its sign and raises FZ (01 R30 row 2, R44). -/
def flushIn (st : Bool) (f x : Nat) : Nat × Nat :=
  if !st && isSubnormal f x then (zeroBits f (signBit f x), fFZ) else (x, 0)

/-- A NaN operand with its quiet bit set (01 R33). -/
def quiet (f x : Nat) : Nat := x ||| 2 ^ (manBits f - 1)

/-- The first NaN operand in operand order. -/
def firstNan (f : Nat) : List Nat → Option Nat
  | [] => none
  | x :: xs => if (decodeVal f x).isNan then some x else firstNan f xs

def anySignalling (f : Nat) (xs : List Nat) : Bool :=
  xs.any fun x => match decodeVal f x with | .nan sig => sig | _ => false

/-- The NaN result of an operation with a NaN operand: R33 in STRICT mode with IV for a signalling operand; the canonical
quiet NaN and no flag in FAST mode (01 R30 row 3). -/
def nanResult (st : Bool) (f : Nat) (xs : List Nat) : Res :=
  if st then (quiet f ((firstNan f xs).getD 0), flagIf (anySignalling f xs) fIV) else (canonNan f, 0)

/-- A NaN made from operands that are no NaN (01 R33). -/
def invalid (f : Nat) : Res := (canonNan f, fIV)

/-! ### One rounding -/

/-- (−1)^s × m × 2^e, a little more with sticky, rounded RNE into f with the mode's flushing and flags (01 R29, R30, R45). -/
def roundArith (st : Bool) (f : Nat) (s : Bool) (m : Nat) (e : Int) (sticky : Bool) : Res :=
  let r := roundFloat f .rne s m e sticky 0
  if r.ovf then (overflowBits f .rne s, overflowFlags)
  else if st then (r.bits, roundFlags r.inexact r.tiny)
  else
    let flushed := r.subnormal || decide (magBits f r.bits = 0)
    (if flushed then zeroBits f s else r.bits, fastFlags r.inexact flushed)

/-! ### Addition, multiplication, fused multiply-add -/

/-- Sum of two finite numbers with their signs: exact, or signed zero (01 R41), or rounded. -/
def addFin (st : Bool) (f : Nat) (sa : Bool) (ma : Nat) (ea : Int) (sb : Bool) (mb : Nat) (eb : Int) : Res :=
  let t := dyAdd (sgnNat sa ma) ea (sgnNat sb mb) eb
  if t.1 = 0 then (zeroBits f (ma == 0 && mb == 0 && sa && sb), 0)
  else roundArith st f (decide (t.1 < 0)) t.1.natAbs t.2 false

/-- Addition of two operands already flushed. -/
def addCore (st : Bool) (f a b : Nat) : Res :=
  match decodeVal f a, decodeVal f b with
  | .nan _, _ => nanResult st f [a, b]
  | _, .nan _ => nanResult st f [a, b]
  | .inf x, .inf y => if x = y then (infBits f x, 0) else invalid f
  | .inf x, .fin _ _ _ => (infBits f x, 0)
  | .fin _ _ _, .inf y => (infBits f y, 0)
  | .fin sa ma ea, .fin sb mb eb => addFin st f sa ma ea sb mb eb

def fpAdd (st : Bool) (f a b : Nat) : Res :=
  let x := flushIn st f a
  let y := flushIn st f b
  let r := addCore st f x.1 y.1
  (r.1, r.2 ||| x.2 ||| y.2)

/-- The sign bit inverted. -/
def negBits (f x : Nat) : Nat := x ^^^ 2 ^ (fmtBits f - 1)

/-- a − b: a NaN operand b keeps its own bits (01 R33). -/
def fpSub (st : Bool) (f a b : Nat) : Res :=
  if (decodeVal f a).isNan || (decodeVal f b).isNan then nanResultIn st f a b else fpAdd st f a (negBits f b)
where
  nanResultIn (st : Bool) (f a b : Nat) : Res :=
    let r := nanResult st f [a, b]
    (r.1, r.2 ||| (flushIn st f a).2 ||| (flushIn st f b).2)

def mulCore (st : Bool) (f a b : Nat) : Res :=
  match decodeVal f a, decodeVal f b with
  | .nan _, _ => nanResult st f [a, b]
  | _, .nan _ => nanResult st f [a, b]
  | .inf x, .inf y => (infBits f (x != y), 0)
  | .inf x, .fin y m _ => if m = 0 then invalid f else (infBits f (x != y), 0)
  | .fin x m _, .inf y => if m = 0 then invalid f else (infBits f (x != y), 0)
  | .fin sa ma ea, .fin sb mb eb =>
    if ma = 0 ∨ mb = 0 then (zeroBits f (sa != sb), 0) else roundArith st f (sa != sb) (ma * mb) (ea + eb) false

def fpMul (st : Bool) (f a b : Nat) : Res :=
  let x := flushIn st f a
  let y := flushIn st f b
  let r := mulCore st f x.1 y.1
  (r.1, r.2 ||| x.2 ||| y.2)

/-- Whether a × b is 0 × Inf. -/
def zeroTimesInf (f a b : Nat) : Bool :=
  ((decodeVal f a).isZero && (decodeVal f b).isInf) || ((decodeVal f a).isInf && (decodeVal f b).isZero)

def fmaCore (st : Bool) (f a b c : Nat) : Res :=
  match decodeVal f a, decodeVal f b, decodeVal f c with
  | .fin sa ma ea, .fin sb mb eb, .fin sc mc ec => addFin st f (sa != sb) (ma * mb) (ea + eb) sc mc ec
  | va, vb, vc =>
    if va.isNan || vb.isNan then nanResult st f [a, b, c]
    else if vc.isNan then
      let r := nanResult st f [a, b, c]
      (r.1, r.2 ||| flagIf (zeroTimesInf f a b) fIV)
    else if zeroTimesInf f a b then invalid f
    else if va.isInf || vb.isInf then
      let s := va.sign != vb.sign
      if vc.isInf && vc.sign != s then invalid f else (infBits f s, 0)
    else (infBits f vc.sign, 0)

/-- a × b + c with one rounding; 0 × Inf with a quiet NaN addend raises IV (01 R45). -/
def fpFma (st : Bool) (f a b c : Nat) : Res :=
  let x := flushIn st f a
  let y := flushIn st f b
  let z := flushIn st f c
  let r := fmaCore st f x.1 y.1 z.1
  (r.1, r.2 ||| x.2 ||| y.2 ||| z.2)

/-! ### Division, square root, reciprocals -/

/-- Quotient ma × 2^ea ÷ mb × 2^eb as significand, exponent and sticky, with at least 66 bits. -/
def quotient (ma : Nat) (ea : Int) (mb : Nat) (eb : Int) : Nat × Int × Bool :=
  let k := 66 + bitLen mb
  (ma * 2 ^ k / mb, ea - eb - k, decide (ma * 2 ^ k % mb ≠ 0))

/-- Largest r below 2^n with r * r ≤ m, starting from r. -/
def isqrtAux (m : Nat) : Nat → Nat → Nat
  | 0, r => r
  | n + 1, r => let t := r + 2 ^ n; isqrtAux m n (if t * t ≤ m then t else r)

/-- floor of the square root. -/
def isqrt (m : Nat) : Nat := isqrtAux m (bitLen m / 2 + 1) 0

/-- Square root of m × 2^e with at least 66 bits. -/
def rootOf (m : Nat) (e : Int) : Nat × Int × Bool :=
  let odd : Int := e % 2
  let m' := m * 2 ^ odd.toNat * 2 ^ 134
  let r := isqrt m'
  (r, (e - odd - 134) / 2, decide (r * r ≠ m'))

/-- Unit in the last place of a value of magnitude m × 2^e, as an exponent: the spacing of f there. -/
def ulpExp (f m : Nat) (e : Int) : Int :=
  let q := quantumU (manBits f + 1) m e
  if q < minExp f then minExp f else q

/-- Magnitude as significand and exponent of positive normal bits. -/
def magOf (f x : Nat) : Nat × Int := match decodeVal f (magBits f x) with | .fin _ m e => (m, e) | _ => (0, 0)

/-- The bits `o` places from r in magnitude, kept when they are a normal finite number the test accepts, else r: which of
the results within a FAST bound the part takes is open (01 R30 row 5). -/
def nearby (f r : Nat) (o : Int) (acc : Nat → Bool) : Nat :=
  let c := ((magBits f r : Nat) : Int) + o
  let cn := c.toNat
  let ex := cn / 2 ^ manBits f
  if 0 < c ∧ 0 < ex ∧ ex < 2 ^ expBits f - 1 ∧ acc cn then cn + (r - magBits f r) else r

/-- |c − n/d| ≤ k ulp of n/d, for candidate bits c and a quotient n × 2^en ÷ d × 2^ed. -/
def withinQuot (f k n : Nat) (en : Int) (d : Nat) (ed : Int) (c : Nat) : Bool :=
  let q := quotient n en d ed
  let u := ulpExp f q.1 q.2.1
  let m := magOf f c
  let diff := dyAdd ((m.1 * d : Nat) : Int) (m.2 + ed) (-(n : Int)) en
  dyLe (diff.1.natAbs : Int) diff.2 ((k * d : Nat) : Int) (u + ed)

/-- Division of finite non-zero magnitudes. STRICT rounds correctly. FAST takes a result within `k` ulp when the quotient is
normal, raises NX in every case and flushes (01 R30 row 5, R45). -/
def divFin (st : Bool) (f k : Nat) (o : Int) (s : Bool) (ma : Nat) (ea : Int) (mb : Nat) (eb : Int) : Res :=
  let q := quotient ma ea mb eb
  if st then roundArith true f s q.1 q.2.1 q.2.2
  else
    let r := roundArith false f s q.1 q.2.1 q.2.2
    let normal := !dyLt q.1 q.2.1 1 (1 - (fpBias f : Int))
    let finite := match decodeVal f r.1 with | .fin _ m _ => decide (m ≠ 0) | _ => false
    (if normal && finite then nearby f r.1 o (withinQuot f k ma ea mb eb) else r.1, r.2 ||| fNX)

/-- Division of flushed operands; k and o say which FAST result is taken. NX is raised by every FAST division (01 R45). -/
def divCore (st : Bool) (f k : Nat) (o : Int) (a b : Nat) : Res :=
  let nx := flagIf (!st) fNX
  match decodeVal f a, decodeVal f b with
  | .nan _, _ => withNx nx (nanResult st f [a, b])
  | _, .nan _ => withNx nx (nanResult st f [a, b])
  | .inf _, .inf _ => withNx nx (invalid f)
  | .inf x, .fin y _ _ => (infBits f (x != y), nx)
  | .fin x _ _, .inf y => (zeroBits f (x != y), nx)
  | .fin sa ma ea, .fin sb mb eb =>
    if mb = 0 then (if ma = 0 then withNx nx (invalid f) else (infBits f (sa != sb), fDZ ||| nx))
    else if ma = 0 then (zeroBits f (sa != sb), nx)
    else divFin st f k o (sa != sb) ma ea mb eb
where
  withNx (nx : Nat) (r : Res) : Res := (r.1, r.2 ||| nx)

def fpDiv (st : Bool) (f a b : Nat) : Res :=
  let x := flushIn st f a
  let y := flushIn st f b
  let r := divCore st f 2 (Config.fastDiv f x.1 y.1) x.1 y.1
  (r.1, r.2 ||| x.2 ||| y.2)

/-- 1.0 of a format. -/
def oneBits (f : Nat) : Nat := fpBias f * 2 ^ manBits f

/-- The reciprocal: 1 ÷ a; FAST within 1 ulp. -/
def fpRcp (st : Bool) (f a : Nat) : Res :=
  let x := flushIn st f a
  let r := divCore st f 1 (Config.fastRcp f x.1) (oneBits f) x.1
  (r.1, r.2 ||| x.2)

def sqrtCore (st : Bool) (f a : Nat) : Res :=
  match decodeVal f a with
  | .nan _ => nanResult st f [a]
  | .inf s => if s then invalid f else (infBits f false, 0)
  | .fin s m e =>
    if m = 0 then (zeroBits f s, 0)
    else if s then invalid f
    else
      let r := rootOf m e
      roundArith st f false r.1 r.2.1 r.2.2

def fpSqrt (st : Bool) (f a : Nat) : Res :=
  let x := flushIn st f a
  let r := sqrtCore st f x.1
  (r.1, r.2 ||| x.2)

/-- |c − 1/√(m 2^e)| ≤ 2^u: (c − 2^u)² x ≤ 1 ≤ (c + 2^u)² x. 01 R30 row 5 says only 'within 1 ulp'; the model takes the ulp at
the exact result, as for RCP (DESIGN CHOICE, log entry 7). -/
def withinRsq (f m : Nat) (e u : Int) (c : Nat) : Bool :=
  let g := magOf f c
  let lo := dyAdd (g.1 : Int) g.2 (-1) u
  let hi := dyAdd (g.1 : Int) g.2 1 u
  (decide (lo.1 ≤ 0) || dyLe (lo.1 * lo.1 * m) (2 * lo.2 + e) 1 0) && dyLe 1 0 (hi.1 * hi.1 * m) (2 * hi.2 + e)

/-- The reciprocal square root; rsq(±0) is ±Inf with DZ, of a negative number NaN with IV (IEEE 754-2019 9.2). -/
def rsqCore (st : Bool) (f : Nat) (o : Int) (a : Nat) : Res :=
  let nx := flagIf (!st) fNX
  match decodeVal f a with
  | .nan _ => let r := nanResult st f [a]; (r.1, r.2 ||| nx)
  | .inf s => if s then (canonNan f, fIV ||| nx) else (zeroBits f false, nx)
  | .fin s m e =>
    if m = 0 then (infBits f s, fDZ ||| nx)
    else if s then (canonNan f, fIV ||| nx)
    else
      let odd : Int := e % 2
      let m' := m * 2 ^ odd.toNat
      let r := rootOf (2 ^ 400 / m') (-400 - (e - odd))
      let inexact := r.2.2 || decide (2 ^ 400 % m' ≠ 0)
      let y := roundArith st f false r.1 r.2.1 inexact
      if st then y else (nearby f y.1 o (withinRsq f m e (ulpExp f r.1 r.2.1)), y.2 ||| nx)

def fpRsq (st : Bool) (f a : Nat) : Res :=
  let x := flushIn st f a
  let r := rsqCore st f (Config.fastRsq f x.1) x.1
  (r.1, r.2 ||| x.2)

/-! ### EXP2 and LOG2 (03 R88: within 2 ulp; outside IEEE 754) -/

/-- 2^(2^−i) for i = 1 to n as multiples of 2^−160, by repeated square roots. -/
def exp2Steps : Nat → Nat → List Nat
  | 0, _ => []
  | n + 1, c => let r := isqrt (c * 2 ^ 160); r :: exp2Steps n r

/-- 2^x for x = v × 2^−100, 0 ≤ v < 2^100, as a multiple of 2^−160. -/
def exp2Frac (v : Nat) : Nat :=
  let cs := exp2Steps 100 (2 ^ 161)
  ((List.range 100).zip cs).foldl (fun acc ic => if v.testBit (99 - ic.1) then acc * ic.2 / 2 ^ 160 else acc) (2 ^ 160)

/-- Bits of log2 of y × 2^−200 (1 ≤ it < 2), most significant first, by repeated squaring. -/
def log2Frac : Nat → Nat → Nat → Nat
  | 0, _, acc => acc
  | n + 1, y, acc =>
    let z := y * y / 2 ^ 200
    if 2 ^ 201 ≤ z then log2Frac n (z / 2) (2 * acc + 1) else log2Frac n z (2 * acc)

/-- A result within 2 ulp of an approximation v × 2^e (error far below an ulp): the open candidate when it qualifies, else
the approximation rounded. 03 R88 bounds the error and no more. The model's own choices (DESIGN CHOICE, log entry 7): the ulp is
that of the exact result; an exactly representable result is given exactly and raises no NX; a subnormal result is the correctly
rounded one. -/
def within2 (st : Bool) (f : Nat) (cand : Nat) (s : Bool) (v : Nat) (e : Int) (exact : Bool) : Res :=
  let r := roundArith st f s v e (!exact)
  let u := ulpExp f v e
  let acc (c : Nat) : Bool :=
    let g := magOf f c
    let d := dyAdd (g.1 : Int) g.2 (-(v : Int)) e
    dyLe (d.1.natAbs : Int) d.2 2 u
  let normal := !dyLt v e 1 (1 - (fpBias f : Int))
  let fin := match decodeVal f r.1 with | .fin _ m _ => decide (m ≠ 0) | _ => false
  (if !exact && normal && fin then nearby f r.1 ((magBits f cand : Nat) - (magBits f r.1 : Nat)) acc else r.1, r.2)

/-- Result and IV and DZ flags that the manual does not state, as functions of the operand (log entry 7). -/
def openResult (bits flags : Nat) (f : Nat) : Res := (bits % 2 ^ fmtBits f, flags % 4)

def exp2Core (st : Bool) (f x : Nat) : Res :=
  match decodeVal f x with
  | .nan _ => nanResult st f [x]
  | .inf _ => openResult (Config.exp2 f x) (Config.exp2 (f + 32) x) f
  | .fin s m e =>
    if m = 0 then (oneBits f, 0)
    else
      -- |x| ≥ 2^14 overflows or underflows every format of R88
      let big := dyLe (2 ^ 14) 0 m e
      let v := if big then sgnNat s 1 * 2 ^ 114 else dyFloor (sgnNat s m) (e + 100)
      let n := v / 2 ^ 100
      let fr := (v % 2 ^ 100).toNat
      let exact := !big && dyExact (sgnNat s m) e
      within2 st f (Config.exp2 f x) false (exp2Frac fr) (n - 160) exact

/-- EXP2 of an element. -/
def fpExp2 (st : Bool) (f a : Nat) : Res :=
  let x := flushIn st f a
  let r := exp2Core st f x.1
  (r.1, r.2 ||| x.2)

def log2Core (st : Bool) (f x : Nat) : Res :=
  match decodeVal f x with
  | .nan _ => nanResult st f [x]
  | .inf _ => openResult (Config.log2 f x) (Config.log2 (f + 32) x) f
  | .fin s m e =>
    if m = 0 || s then openResult (Config.log2 f x) (Config.log2 (f + 32) x) f
    else
      let n : Int := e + bitLen m - 1
      let y := m * 2 ^ (201 - bitLen m)
      let fr := log2Frac 120 y 0
      let t : Int := n * 2 ^ 120 + fr
      let exact := decide (m = 2 ^ (bitLen m - 1))
      if t = 0 then (zeroBits f false, 0)
      else within2 st f (Config.log2 f x) (decide (t < 0)) t.natAbs (-120) exact

/-- LOG2 of an element. -/
def fpLog2 (st : Bool) (f a : Nat) : Res :=
  let x := flushIn st f a
  let r := log2Core st f x.1
  (r.1, r.2 ||| x.2)

/-! ### Maximum, minimum, comparison, sign and integer operations -/

/-- Order of two finite or infinite values, −0 below +0 (01 R42). -/
def valLt (a b : FVal) : Bool :=
  match a, b with
  | .inf s, .inf t => s && !t
  | .inf s, _ => s
  | _, .inf t => !t
  | .fin s m e, .fin t n g => if m = 0 ∧ n = 0 then s && !t else dyLt (sgnNat s m) e (sgnNat t n) g
  | _, _ => false

/-- MAX and MIN (01 R42), integers included (03 R88). -/
def fpMaxMin (mx st : Bool) (f a b : Nat) : Res :=
  if isInt f then (if decide (intVal f a < intVal f b) = mx then b else a, 0)
  else if (decodeVal f a).isNan || (decodeVal f b).isNan then nanResult st f [a, b]
  else (if valLt (decodeVal f a) (decodeVal f b) = mx then b else a, 0)

/-- The six relations of R43. -/
inductive CmpRel where
  | eq | ne | lt | le | gt | ge
  deriving DecidableEq, Repr, Inhabited

/-- A relation on the three-way order of two numbers. -/
def CmpRel.holds (r : CmpRel) (lt eq : Bool) : Bool :=
  match r with
  | .eq => eq | .ne => !eq | .lt => lt | .le => lt || eq | .gt => !lt && !eq | .ge => !lt

/-- Numeric order: −0 equals +0. -/
def valCmp (a b : FVal) : Bool × Bool :=
  match a, b with
  | .fin s m e, .fin t n g =>
    let lt := dyLt (sgnNat s m) e (sgnNat t n) g
    (lt, !lt && !dyLt (sgnNat t n) g (sgnNat s m) e)
  | a, b => (valLt a b, decide (a = b))

/-- A comparison: all ones or zero, and IV (01 R43). In FAST mode a signalling NaN counts as a quiet one. -/
def fpCmp (r : CmpRel) (st : Bool) (f a b : Nat) : Res :=
  let ones := 2 ^ fmtBits f - 1
  if isInt f then
    (if r.holds (decide (intVal f a < intVal f b)) (decide (intVal f a = intVal f b)) then ones else 0, 0)
  else if (decodeVal f a).isNan || (decodeVal f b).isNan then
    let sig := (st && anySignalling f [a, b]) || !(r == .eq || r == .ne)
    (if r = .ne then ones else 0, flagIf sig fIV)
  else
    let c := valCmp (decodeVal f a) (decodeVal f b)
    (if r.holds c.1 c.2 then ones else 0, 0)

def fpAbs (f a : Nat) : Res := (magBits f a, 0)

def fpNeg (f a : Nat) : Res := (negBits f a, 0)

/-- The magnitude of a with the sign of b. -/
def fpCpysgn (f a b : Nat) : Res := (magBits f a + (b - magBits f b), 0)

/-- d = mask ≠ 0 ? a : b. -/
def selBits (a b c : Nat) : Res := (if c ≠ 0 then a else b, 0)

def intAdd (f a b : Nat) : Res := ((a + b) % 2 ^ fmtBits f, 0)
def intSub (f a b : Nat) : Res := ((a + 2 ^ fmtBits f - b) % 2 ^ fmtBits f, 0)
def intMul (f a b : Nat) : Res := (a * b % 2 ^ fmtBits f, 0)
def intAnd (a b : Nat) : Res := (a &&& b, 0)
def intOr (a b : Nat) : Res := (a ||| b, 0)
def intXor (a b : Nat) : Res := (a ^^^ b, 0)
def intShl (f a b : Nat) : Res := (a * 2 ^ (b % fmtBits f) % 2 ^ fmtBits f, 0)
def intShr (f a b : Nat) : Res := (a / 2 ^ (b % fmtBits f), 0)
/-- Arithmetic shift right. -/
def intSar (f a b : Nat) : Res := (wrap (fmtBits f) (intVal f a / (2 ^ (b % fmtBits f) : Int)), 0)

/-! ### Reductions (03 R86, R87) -/

/-- One level of the pairwise tree. -/
def treeLevel (op : Nat → Nat → Res) : List Nat → List Nat × Nat
  | [] => ([], 0)
  | [x] => ([x], 0)
  | x :: y :: l =>
    let r := op x y
    let t := treeLevel op l
    (r.1 :: t.1, r.2 ||| t.2)

/-- The fixed tree: levels until one element is left; n bounds their number. -/
def treeReduce (op : Nat → Nat → Res) : Nat → List Nat → Res
  | 0, l => (l.headD 0, 0)
  | n + 1, l =>
    match l with
    | [] => (0, 0)
    | [x] => (x, 0)
    | _ =>
      let t := treeLevel op l
      let r := treeReduce op n t.1
      (r.1, r.2 ||| t.2)

/-- One element at a time in ascending index. -/
def seqReduce (op : Nat → Nat → Res) (acc : Nat) : List Nat → Res
  | [] => (acc, 0)
  | x :: l =>
    let r := op acc x
    let t := seqReduce op r.1 l
    (t.1, t.2 ||| r.2)

/-- Tree in FAST mode, sequence in STRICT mode. -/
def reduceBy (st : Bool) (op : Nat → Nat → Res) (l : List Nat) : Res :=
  if st then seqReduce op (l.headD 0) l.tail else treeReduce op 13 l

/-- A reduction of one element combines nothing (03 R86, R87), yet it is an operation on that element: a NaN is the NaN of R30
row 3 or R33, and FAST RED.ADD flushes a subnormal input (01 R30 row 2; log entry 84). -/
def redAlone (flush st : Bool) (f x : Nat) : Res :=
  if !isInt f && (decodeVal f x).isNan then nanResult st f [x] else if flush then flushIn st f x else (x, 0)

/-- A reduction of elements that stand alone when there is one, and combine otherwise. -/
def reduceOf (flush st : Bool) (f : Nat) (op : Nat → Nat → Res) : List Nat → Res
  | [x] => redAlone flush st f x
  | l => reduceBy st op l

def redAddOf (st : Bool) (f : Nat) (l : List Nat) : Res := reduceOf true st f (fpAdd st f) l

/-- Sum of squares: FAST squares, then the tree; STRICT fma(x, x, acc) from +0. -/
def redSsqOf (st : Bool) (f : Nat) (l : List Nat) : Res :=
  if st then seqReduce (fun acc x => fpFma true f x x acc) 0 l
  else
    let sq := l.map fun x => fpMul false f x x
    let r := treeReduce (fpAdd false f) 13 (sq.map (·.1))
    (r.1, sq.foldl (fun a b => a ||| b.2) r.2)

def redMaxMinOf (mx st : Bool) (f : Nat) (l : List Nat) : Res := reduceOf false st f (fpMaxMin mx st f) l

end Sys2Proof.Machine
end

