-- ==== Sys2Proof/Machine/Operands.lean ====
section
/-!
DEFINITION. Operands of tile instructions: descriptors (04 R132), addresses and logical indices (R133, R134), extents (R135),
predicates (R112, R126), packed elements (01 R15), scratchpad reads and writes with ECC (03 R91, R94), port cycles (R92, R93),
vector buffers (R81–R83), atomics at the bank (R95, R96), links between tiles (05 R146, R147), and the issue and end of a bundle (04 R109, R110, R121–R125, R127, 13 R368).
-/

namespace Sys2Proof.Machine

/-! ### Descriptors (04 R132) -/

/-- A tensor descriptor's fields. -/
structure Desc where
  fmt : Nat
  space : Nat
  valid : Bool
  res : Bool
  dchk : Bool
  bw : Nat
  tid : Nat
  scale : Nat
  rtile : Nat
  link : Nat
  base : Nat
  lrow : Nat
  stride : List Int
  lstride : List Int
  loff : Nat
  extent : Nat
  owner : Nat
  deriving DecidableEq, Repr, Inhabited

/-- The descriptor that 512 bits hold; `bw` is BWM1 + 1. -/
def descOf (x : BitVec 512) : Desc :=
  let n := x.toNat
  { fmt := field n 4 0, space := field n 8 5, valid := bitAt n 9, res := bitAt n 10, dchk := bitAt n 11,
    bw := field n 23 12 + 1, tid := field n 39 24, scale := field n 48 40, rtile := field n 58 49, link := field n 61 59,
    base := field n 103 64, lrow := field n 127 104,
    stride := (List.range 4).map fun k => signed 32 (field n (159 + 32 * k) (128 + 32 * k)),
    lstride := (List.range 4).map fun k => signed 32 (field n (287 + 32 * k) (256 + 32 * k)),
    loff := field n 423 384, extent := field n 447 424, owner := field n 511 448 }

/-- The descriptor at a handle of a tile; handle 0x1FF never holds one (04 R113). -/
def Tile.desc (x : Tile) (h : BitVec 9) : Desc :=
  if h = 0x1FF then descOf 0 else descOf (Sparse.get 0 x.dstore h.toNat)

/-! ### Loop indices, addresses, logical indices -/

/-- LI[0..3]: outermost first, 0 where no loop is active and in a replay loop (04 R122, R123, R125). -/
def TileSeq.li (q : TileSeq) : List Nat := q.loops.map fun l => if l.rpl then 0 else l.iter

def TileSeq.liAt (q : TileSeq) (k : Nat) : Nat := q.li.getD k 0

/-- Σ stride[k] × LI[k]. -/
def strideSum (stride : List Int) (li : List Nat) : Int :=
  (stride.zip li).foldl (fun a p => a + p.1 * (p.2 : Int)) 0

/-- A = BASE + Σ STRIDE[k] × LI[k] (04 R133). -/
def Desc.addr (d : Desc) (li : List Nat) : Int := (d.base : Int) + strideSum d.stride li

/-- The logical index of element e (04 R134). -/
def Desc.index (d : Desc) (li : List Nat) (e : Nat) : Int :=
  (d.loff : Int) + strideSum d.lstride li + ((e / d.bw * d.lrow + e % d.bw : Nat) : Int)

/-- The n bytes at address a lie within the EXTENT lines from BASE (04 R135). -/
def Desc.covers (d : Desc) (a : Int) (n : Nat) : Bool :=
  decide ((d.base : Int) ≤ a) && decide (a + n ≤ (d.base : Int) + 128 * d.extent)

/-! ### Predicates (04 R112, R126) -/

/-- P[j]: the comparison configured in CMP[j], false while unconfigured. -/
def TileSeq.p (q : TileSeq) (j : Nat) : Bool :=
  let c := Sparse.get { conf := false, imm := 0, rel := 0, src := false, idx := 0 } q.cmp j
  let v := if c.src then q.liAt c.idx.toNat else (Sparse.get 0 q.cnt c.idx.toNat).toNat
  let i := c.imm.toNat
  c.conf &&
    (match c.rel.toNat with
     | 0 => decide (v = i) | 1 => decide (v ≠ i) | 2 => decide (v < i) | 3 => decide (v ≤ i) | 4 => decide (i < v)
     | 5 => decide (i ≤ v) | _ => false)

/-- The predicate fields let the instruction run. -/
def TileSeq.pass (q : TileSeq) (p : Pred) : Bool := !p.pen || (q.p p.psel.toNat != p.pinv)

/-- Tile issue is held by a pause (11 R299); the restore section of a recovery runs all the same (14 R383, R386). -/
def State.issueHeld (s : State) : Bool := s.gbl.paused && !decide (s.recov.stage = .restoring)

/-- The neighbour a link leads to and the neighbour's input: north, east, south, west on the die, the die bridge to the tile of
the same place on the other die (log entry 16). -/
def linkPeer (t link : Nat) : Option (Nat × Nat) :=
  let r := t / 32
  let c := t % 32
  match link with
  | 0 => if r % 16 = 0 then none else some (t - 32, 2)
  | 1 => if c = 31 then none else some (t + 1, 3)
  | 2 => if r % 16 = 15 then none else some (t + 32, 0)
  | 3 => if c = 0 then none else some (t - 1, 1)
  | 4 => some ((t + 512) % 1024, 4)
  | _ => none

/-- An output link's buffer, at the neighbour's input, holds four entries (05 R146, R147): lines that have arrived both in the
sender's time and, while the neighbour runs, in the neighbour's own (log entry 104). -/
def State.linkFull (s : State) (t link : Nat) : Bool :=
  match linkPeer t link with
  | none => false
  | some p =>
    let y := s.tile p.1
    let here (e : LinkLine) : Bool := decide (e.arr ≤ (s.tile t).now) && (!y.seq.run.live || decide (e.arr ≤ y.now))
    decide (4 ≤ ((Sparse.get [] y.links p.2).filter here).length)

/-- Some output link's buffer is full. -/
def State.outFull (s : State) (t : Nat) : Bool := (List.range 5).any (s.linkFull t)

/-- The tile issues bundles: it exists, its part is not paused, its sequencer runs and no output link is full (04 R130, 05 R147). -/
def State.issues (s : State) (t : Nat) : Bool :=
  decide (t < 1024) && !s.issueHeld && decide ((s.tile t).seq.run = .running) && !s.outFull t

/-- The instruction runs: neither skipped nor suppressed by its predicate (04 R112, R127). -/
def State.runs (s : State) (t : Nat) (p : Pred) : Bool :=
  decide ((s.tile t).seq.skip = 0) && (s.tile t).seq.pass p

/-! ### Packed elements (01 R15) -/

/-- Bytes n elements of a format take. -/
def packedBytes (f n : Nat) : Nat := ceilDiv (n * fmtBits f) 8

/-- n elements of a run of bytes: element i at bits [b i + b − 1 : b i] of the little-endian run. -/
def unpackElems (f n : Nat) (bs : List Byte) : List Nat :=
  let v := leNat bs
  (List.range n).map fun i => (v >>> (i * fmtBits f)) % 2 ^ fmtBits f

/-- The number whose bits are the elements in order. -/
def packNat (f : Nat) : List Nat → Nat
  | [] => 0
  | x :: l => x % 2 ^ fmtBits f + packNat f l * 2 ^ fmtBits f

/-- The bytes of elements; `old` supplies the bits past the last element of its last byte. -/
def packElems (f : Nat) (xs : List Nat) (old : List Byte) : List Byte :=
  let bits := xs.length * fmtBits f
  let v := packNat f xs
  leBytes (packedBytes f xs.length) (v + leNat old / 2 ^ bits * 2 ^ bits)

/-! ### Scratchpad access (03 R90–R94, 13 R365) -/

/-- What a scratchpad read gives. -/
structure SpRead where
  data : List Byte
  /-- granules corrected -/
  fixed : Nat
  /-- region of a granule with a double-bit error -/
  bad : Option Nat
  deriving DecidableEq, Repr, Inhabited

/-- The 16-byte granules that n bytes at a touch. -/
def granules (a n : Nat) : List Nat := if n = 0 then [] else (List.range ((a + n - 1) / 16 - a / 16 + 1)).map (a / 16 + ·)

/-- A read through ECC: single-bit errors are corrected in the data delivered and counted, a double-bit error is found
(03 R94). A bank that is not ON answers nothing of its own: the caller's free bytes stand in (13 R365; log entry 13). -/
def Tile.spRead (x : Tile) (a n free : Nat) : SpRead :=
  if x.bankSp.state = .on then
    let gs := granules a n
    { data := Bytes.readN x.sp a n, fixed := (gs.filter fun g => Sparse.get 0 x.spErr g == 1).length,
      bad := (gs.find? fun g => Sparse.get 0 x.spErr g == 2).map (· / 32) }
  else { data := (List.range n).map fun i => (Config.freeValue (free + i)).setWidth 8, fixed := 0, bad := none }

/-- Counts corrected errors (03 R94: 32 bits, saturating). -/
def Tile.countSpEcc (x : Tile) (n : Nat) : Tile :=
  { x with ctr := { x.ctr with spEcc := satAdd 32 x.ctr.spEcc n } }

/-- Writes bytes with fresh ECC; a bank that is not ON keeps what it has (13 R365). -/
def Tile.spWrite (x : Tile) (a : Nat) (bs : List Byte) : Tile :=
  if x.bankSp.state = .on then
    { x with sp := Bytes.writeN x.sp a bs, spErr := (granules a bs.length).foldl (fun m g => Sparse.set 0 m g 0) x.spErr }
  else x

/-- Whether a store mask covers only whole 16-byte granules (03 R91). -/
def wholeGranules (mask : W32) : Bool :=
  (List.range 8).all fun g => let n := mask.toNat >>> (4 * g) % 16; n == 0 || n == 15

/-- The line after a masked store: bit k of the mask covers word k. -/
def maskLine (mask : W32) (new old : List Byte) : List Byte :=
  (List.range 128).map fun i => if mask.getLsbD (i / 4) then new.getD i 0 else old.getD i 0

/-! ### The scratchpad port (03 R92, R93) -/

/-- The user of a program cycle's port: one already taken, or the background test's slot (13 R370). -/
def Tile.portUser (x : Tile) (c : Nat) : Option Nat :=
  match x.port.find? fun e => e.1 == c with
  | some e => some e.2
  | none => if 32768 ≤ c % 65536 ∧ c % 65536 < 32832 then some 9 else none

/-- The first of the cycles that is taken: its position, the cycle and its user. -/
def Tile.portClash (x : Tile) : Nat → List Nat → Option (Nat × Nat × Nat)
  | _, [] => none
  | i, c :: cs => match x.portUser c with | some u => some (i, c, u) | none => x.portClash (i + 1) cs

/-- Takes port cycles for a user. -/
def Tile.portTake (x : Tile) (u : Nat) (cs : List Nat) : Tile := { x with port := cs.map (fun c => (c, u)) ++ x.port }

/-- Two accesses met in one port cycle of a tile (03 R93): PORT_CONFLICT, lower user code first. -/
def State.portConflict (s : State) (t c u v : Nat) : State := s.stopTile t c stPort [t, c, Nat.min u v, Nat.max u v]

/-! ### Run-time stops (04 R135, 03 R82, 02 R480, 13 R479) -/

/-- The stop of R135 at program cycle `cyc`: tile, cycle, bundle and slot, and the handle in the continuation record. -/
def State.badAccess (s : State) (t cyc slot : Nat) (h : BitVec 9) : State :=
  s.stopTile t cyc stInvalid [t, cyc, (s.tile t).seq.bundle, slot, h.toNat]

/-! ### Vector buffers (03 R81–R83) -/

/-- Byte address in Tile.vb of offset a in buffer b. -/
def vbAt (b a : Nat) : Nat := b * 16384 + a

/-- A VB operand: buffer, offset and descriptor, resolved with the loop indices. -/
structure VbOpnd where
  vb : Nat
  off : Int
  d : Desc
  deriving DecidableEq, Repr, Inhabited

/-- The buffer a descriptor names (SPACE 0x1–0x4). -/
def Desc.vb? (d : Desc) : Option Nat := if 1 ≤ d.space ∧ d.space ≤ 4 then some (d.space - 1) else none

def vbOpnd (x : Tile) (h : BitVec 9) : Option VbOpnd :=
  let d := x.desc h
  if d.valid then d.vb?.map fun b => { vb := b, off := d.addr x.seq.li, d := d } else none

/-- n bytes at the operand lie in its extent and in the buffer (04 R135, 03 R82). -/
def VbOpnd.fits (o : VbOpnd) (n : Nat) : Bool :=
  o.d.covers o.off n && decide (0 ≤ o.off) && decide (o.off + n ≤ 16384)

def VbOpnd.read (x : Tile) (o : VbOpnd) (n : Nat) : List Byte := Bytes.readN x.vb (vbAt o.vb o.off.toNat) n

def VbOpnd.write (x : Tile) (o : VbOpnd) (bs : List Byte) : Tile :=
  { x with vb := Bytes.writeN x.vb (vbAt o.vb o.off.toNat) bs }

/-- n elements of an operand in its own format. -/
def VbOpnd.elems (x : Tile) (o : VbOpnd) (n : Nat) : List Nat :=
  unpackElems o.d.fmt n (o.read x (packedBytes o.d.fmt n))

/-- Writes elements at the start of an operand; elements past them keep their contents (03 R85). -/
def VbOpnd.setElems (x : Tile) (o : VbOpnd) (xs : List Nat) : Tile :=
  o.write x (packElems o.d.fmt xs (o.read x (packedBytes o.d.fmt xs.length)))

/-! ### Loops and the end of a bundle -/

/-- Clears a replay loop that is over and steps the loop stack past a bundle at address b: the address of the next bundle
and the remaining frames (04 R122). A replay loop's end is not stepped here (02 R66). -/
def stepLoops (b : Nat) : List LoopFrame → Nat × List LoopFrame
  | [] => (b + 1, [])
  | f :: fs =>
    -- innermost first: `f` is the innermost frame
    if b = f.last then
      if f.rpl then (b, f :: fs)
      else if f.iter + 1 < f.count then (f.first, { f with iter := f.iter + 1 } :: fs)
      else stepLoops b fs
    else (b + 1, f :: fs)

/-- The innermost loop ends at bundle b and is a replay loop, inner counted loops being at their last iteration. -/
def atReplayEnd (b : Nat) : List LoopFrame → Bool
  | [] => false
  | f :: fs => if b = f.last then (if f.rpl then true else if f.iter + 1 < f.count then false else atReplayEnd b fs) else false

/-- Frames inside the replay loop that ends at b. -/
def dropInner (b : Nat) : List LoopFrame → List LoopFrame
  | [] => []
  | f :: fs => if f.rpl ∧ b = f.last then f :: fs else dropInner b fs

/-- The bundle count NB of the tile's loaded image (04 R108); 4,096, the size of the store, when none is loaded. -/
def State.nb (s : State) (t : Nat) : Nat := Sparse.get 4096 s.prog.nb t

/-- A bank on its way to a target state (13 R366, R368): target code 3 changes nothing. -/
def Bank.trigger (b : Bank) (code : Nat) : Bank :=
  let go (x : BankState) : Bank := if b.state = x ∧ b.target = none then b else { b with target := some x }
  match code with | 0 => go .on | 1 => go .retain | 2 => go .off | _ => b

/-- The power-plan entries that bundle b of section q triggers, applied in order (13 R368). -/
def planTrigger (header : Bytes) (q b : Nat) (x : Tile) : Tile :=
  (List.range 16).foldl
    (fun x i =>
      let e := Bytes.readLe header (0x060 + 4 * i) 4
      if bitAt e 31 && field e 30 28 == q && field e 27 16 == b then
        { x with bankSp := x.bankSp.trigger (field e 15 14), bank0 := x.bank0.trigger (field e 13 12),
                 bank1 := x.bank1.trigger (field e 11 10) }
      else x) x

/-- An LDC value lands at the end of the cycle after its own, before that bundle's own write (04 R121). -/
def TileSeq.landLdc (q : TileSeq) : TileSeq :=
  match q.ldc with
  | none => q
  | some c => { q with cnt := Sparse.set 0 q.cnt c.1 c.2, ldc := none }

/-- The end of a cycle of a tile: the program cycle advances, past port cycles are forgotten, a stop that falls due takes
effect. -/
def Tile.endCycle (x : Tile) : Tile :=
  let c := x.seq.cycle + 1
  { x with seq := { x.seq with cycle := c }, port := x.port.filter fun e => decide (c ≤ e.1) }

/-- The sequencer after its bundle has issued: next bundle, loops, replay-loop end (04 R122, R125; 02 R66), section end past
the last bundle (R109). -/
def TileSeq.advance (q : TileSeq) (nb : Nat) : TileSeq :=
  let b := q.bundle
  let inner := q.loops.reverse
  if atReplayEnd b inner then { q with run := .replayEnd, loops := (dropInner b inner).reverse }
  else
    let r := stepLoops b inner
    { q with bundle := r.1, loops := r.2.reverse, run := if nb ≤ r.1 then .halted else q.run }

/-! ### HBM accesses that the issue has passed (13 R479) -/

/-- The position of the next bundle in the issue sequence: for each enclosing loop its first bundle and iteration, then the
bundle. -/
def TileSeq.pos (q : TileSeq) : List Nat := (q.loops.flatMap fun l => [l.first, l.iter]) ++ [q.bundle]

/-- Lexicographic order of positions. -/
def posLt : List Nat → List Nat → Bool
  | [], _ => false
  | _ :: _, [] => false
  | a :: as, b :: bs => decide (a < b) || (decide (a = b) && posLt as bs)

/-- Accesses of tile t's section that its issue has passed without issuing them are withdrawn: all that are left when the
section has ended. -/
def withdrawPassed (t : Nat) (q : TileSeq) (plan : List Access) : List Access :=
  plan.map fun a =>
    if a.tile = t ∧ a.sect = q.sect.toNat ∧ a.state = .assigned ∧ (q.run = .halted ∨ posLt a.pos q.pos = true) then
      { a with state := .withdrawn } else a

/-! ### Atomics at the bank (03 R95, R96) -/

/-- An FP32 atomic addition: RNE, subnormals kept, canonical NaN, flags of IEEE clause 7 in both modes. -/
def atomFp32 (a b : Nat) : Res :=
  if (decodeVal fmtFP32 a).isNan || (decodeVal fmtFP32 b).isNan then
    (canonNan fmtFP32, flagIf (anySignalling fmtFP32 [a, b]) fIV)
  else addCore true fmtFP32 a b

/-- One element of an atomic: the new value and flags. -/
def atomElem (swap : Bool) (f old val : Nat) : Res :=
  if swap then (val, 0) else if f = fmtFP32 then atomFp32 old val else intAdd f old val

/-- An atomic on one line of a bank: masked elements change; the new line, and flags. -/
def atomLine (swap : Bool) (f : Nat) (mask : W32) (old vals : List Nat) : List Nat × Nat :=
  let rs := (List.range old.length).map fun k =>
    if mask.getLsbD k then atomElem swap f (old.getD k 0) (vals.getD k 0) else (old.getD k 0, 0)
  (rs.map (·.1), rs.foldl (fun a r => a ||| r.2) 0)

/-- The return operand after the masked old values are written. -/
def atomReturn (mask : W32) (old prev : List Nat) : List Nat :=
  (List.range prev.length).map fun k => if mask.getLsbD k then old.getD k 0 else prev.getD k 0

/-- Elements of an atomic's line and the integer format of their size. -/
def atomShape (f : Nat) : Nat × Nat := if fmtBits f = 64 then (16, fmtINT64) else (32, fmtINT32)

/-- Free values used by reads of a bank that is not ON. -/
def State.spFree (s : State) (t n : Nat) : State := if (s.tile t).bankSp.state = .on then s else s.useFree n

/-- An atomic acts on the bank of tile u: read, the masked elements changed and written with fresh ECC, flags in that tile's flag
word, and the masked old values returned. A double-bit error ends it (03 R94). -/
def State.performAtom (s : State) (u : Nat) (o : RemoteAtom) : State :=
  let n := (atomShape o.fmt).1
  let bits := (atomShape o.fmt).2
  let y := s.tile u
  let r := y.spRead o.addr 128 s.free
  match r.bad with
  | some row => s.eccFault u row
  | none =>
    let old := unpackElems bits n r.data
    let res := atomLine o.swap o.fmt o.mask old o.vals
    let y := (y.countSpEcc r.fixed).spWrite o.addr (packElems bits res.1 [])
    let s' := (s.setTile u { y with flags := raise y.flags res.2 }).spFree u 128
    match o.ret with
    | none => s'
    | some p =>
      let z := s'.tile p.1
      let prev := unpackElems bits n (Bytes.readN z.vb p.2 128)
      s'.setTile p.1 { z with vb := Bytes.writeN z.vb p.2 (packElems bits (atomReturn o.mask old prev) []) }

/-- An atomic on its way stands behind those of earlier port cycles. -/
def insertAtom (a : RemoteAtom) : List RemoteAtom → List RemoteAtom
  | [] => [a]
  | b :: l => if a.cycle < b.cycle then a :: b :: l else b :: insertAtom a l

/-- The atomics of other tiles whose port cycles are past, all of them once the tile has stopped, act in the order of their port
cycles (03 R96). -/
def State.landAtoms (s : State) (t : Nat) : State :=
  match (s.tile t).atoms with
  | [] => s
  | as =>
    let x := s.tile t
    let due (a : RemoteAtom) : Bool := !x.seq.run.live || decide (a.cycle < x.seq.cycle)
    let s := s.setTile t { x with atoms := as.filter fun a => !due a }
    (as.filter due).foldl (fun s a => s.performAtom t a) s

/-- A tile leaves its bundle: the bundle's cycle ends with the C slot's write `f`, the power plan's triggers start, and the
sequencer moves on (04 R110, R121). An LDC value whose next cycle belongs to no bundle has landed when the sequencer next acts. -/
def State.leaveBundle (s : State) (t : Nat) (f : TileSeq → TileSeq) : State :=
  let x := s.tile t
  let x := planTrigger s.prog.header x.seq.sect.toNat x.seq.bundle x
  let q := x.seq.landLdc
  let q := f { q with skip := q.skip - 1 }
  let q := if q.run = .running then q.advance (s.nb t) else q
  let q := if q.run = .running then q else q.landLdc
  let s := s.setTile t ({ x with seq := q }.endCycle.settle)
  { s with hbm := { s.hbm with plan := withdrawPassed t q s.hbm.plan } }

/-- The end of a bundle: the tile leaves it, and atomics of other tiles whose port cycle is past have acted. -/
def State.endBundle (s : State) (t : Nat) (f : TileSeq → TileSeq) : State := (s.leaveBundle t f).landAtoms t

end Sys2Proof.Machine
end

