-- ==== Sys2Proof/Machine/CSlot.lean ====
section
/-!
DEFINITION. The C slot (04 R120–R131), the commands that let a held tile go on (WAIT_SATISFIED, REPLAY_LOOP_END,
REPLAY_RESERVE_END), elastic stalls (05 R147) and bank transitions (13 R365, R366). The C slot's command comes last in its
bundle and ends it; a WAIT comes first and holds it (log entry 14).
-/

namespace Sys2Proof.Machine

/-- A C-slot instruction: its write applies at the end of the bundle's cycle, reading the values the bundle sees (04 R121);
a suppressed one only ends the bundle. -/
def State.cSlot (s : State) (t : Nat) (p : Pred) (f : TileSeq → TileSeq → TileSeq) : State :=
  if s.issues t then s.endBundle t (fun q => if s.runs t p then f (s.tile t).seq q else q) else s

/-- Predicate fields that are clear. -/
def Pred.always : Pred := { pen := false, pinv := false, psel := 0 }

/-- NOP: in the C slot it ends the bundle (04 R111). -/
def execNop (t : Nat) (slot : Slot) (s : State) : Host.Outcome State Fault Refusal :=
  match slot with
  | .c => ok (s.cSlot t Pred.always fun _ q => q)
  | .m => ok s
  | .v => ok s
  | .x => ok s

/-- The loop a LOOP bundle starts (04 R122–R125). A count of zero continues after the body. A replay loop has no accumulator update
yet to wait for (02 R66). -/
def loopStart (o : LoopOp) (old q : TileSeq) : TileSeq :=
  let len := o.lenm1.toNat + 1
  let n := (Sparse.get 0 old.cnt o.csel.toNat).toNat
  if !o.rpl && n == 0 then { q with bundle := q.bundle + len }
  else
    let f : LoopFrame := { first := q.bundle + 1, last := q.bundle + len, count := n, iter := 0, rpl := o.rpl,
                           execs := b2n o.rpl, start := q.cycle + 1, len := 0 }
    { q with loops := q.loops ++ [f], vl := if o.vlset then o.vlm1.toNat + 1 else q.vl,
             land := if o.rpl then 0 else q.land }

def execLoop (t : Nat) (o : LoopOp) (s : State) : Host.Outcome State Fault Refusal :=
  ok (s.cSlot t Pred.always (loopStart o))

def execSetc (t : Nat) (p : Pred) (csel : BitVec 4) (imm : BitVec 32) (s : State) : Host.Outcome State Fault Refusal :=
  ok (s.cSlot t p fun _ q => { q with cnt := Sparse.set 0 q.cnt csel.toNat imm })

def execAddc (t : Nat) (p : Pred) (csel : BitVec 4) (imm : BitVec 32) (s : State) : Host.Outcome State Fault Refusal :=
  ok (s.cSlot t p fun old q => { q with cnt := Sparse.set 0 q.cnt csel.toNat (Sparse.get 0 old.cnt csel.toNat + imm) })

/-- The word an LDC reads: its scratchpad access with its stops (slot 3), and the value when it is performed. -/
def State.ldcRead (s : State) (t : Nat) (h : BitVec 9) : State × Option W32 :=
  let x := s.tile t
  let d := x.desc h
  let a := d.addr x.seq.li
  let c := x.seq.cycle
  if !(d.valid && d.space == 0 && d.covers a 4 && decide (0 ≤ a ∧ a + 4 ≤ 0x100000)) then (s.badAccess t c 3 h, none)
  else match x.portUser c with
    | some u => (s.portConflict t c u 1, none)
    | none =>
      let r := x.spRead a.toNat 4 s.free
      match r.bad with
      | some row => (s.eccFault t row, none)
      | none => (s.setTile t ((x.portTake 1 [c]).countSpEcc r.fixed), some (BitVec.ofNat 32 (leNat r.data)))

/-- LDC: the value lands at the end of the next cycle (04 R121). -/
def execLdc (t : Nat) (p : Pred) (csel : BitVec 4) (handle : BitVec 9) (s : State) : Host.Outcome State Fault Refusal :=
  if s.issues t && s.runs t p then
    let r := s.ldcRead t handle
    ok (r.1.endBundle t fun q => { q with ldc := r.2.map fun v => (csel.toNat, v) })
  else ok (s.cSlot t p fun _ q => q)

def execSetcmp (t : Nat) (o : CmpOp) (s : State) : Host.Outcome State Fault Refusal :=
  let c : Comparator := { conf := true, imm := o.imm, rel := o.rel, src := o.src, idx := o.idx }
  let d : Comparator := { conf := false, imm := 0, rel := 0, src := false, idx := 0 }
  ok (s.cSlot t o.pred fun _ q => { q with cmp := Sparse.set d q.cmp o.j.toNat c })

/-- SKIP: the predicate is its condition; the next NM1 + 1 bundles are suppressed (04 R127). -/
def execSkip (t : Nat) (p : Pred) (nm1 : BitVec 12) (s : State) : Host.Outcome State Fault Refusal :=
  ok (s.cSlot t p fun _ q => { q with skip := nm1.toNat + 1 })

/-- The threshold of a WAIT: a count register zero-extended, or IMM (04 R129). -/
def waitThreshold (o : WaitOp) (q : TileSeq) : BitVec 64 :=
  (if o.ths then Sparse.get 0 q.cnt o.csel.toNat else o.imm).setWidth 64

/-- The count whose flags a tile observes now: 24 cycles ago on die 0, 28 on die 1 (04 R129). -/
def State.observedAt (s : State) (t : Nat) : Nat := s.tb.count - s.countsOf (if t < 512 then 24 else 28)

/-- The value of a flag that a tile observes now. -/
def State.observed (s : State) (t f : Nat) : BitVec 64 := s.flagAsOf f (s.observedAt t)

/-- WAIT (04 R129): its cycle observes the flag; while the condition fails the tile is held. In a taken skip region it is
suppressed: its cycle passes without an observation and without a count (R127; log entry 15). The bundle's other slots issue
after it, and the bundle ends with NOP in the C slot. -/
def execWait (t : Nat) (o : WaitOp) (s : State) : Host.Outcome State Fault Refusal :=
  if s.issues t then
    let x := s.tile t
    let q := x.seq.landLdc
    if s.runs t Pred.always then
      let met := decide (waitThreshold o x.seq ≤ s.observed t o.flag.toNat)
      let q := if met then q else { q with run := .waiting, wait := some (o.flag.toNat, waitThreshold o q, s.tb.count) }
      let y := { x with seq := q, ctr := { x.ctr with wait := satAdd 32 x.ctr.wait 1 } }
      ok ((s.setTile t (y.endCycle.settle)).landAtoms t)
    else ok ((s.setTile t ({ x with seq := q }.endCycle.settle)).landAtoms t)
  else ok s

/-- The condition of a held WAIT is observed: the tile goes on. The cycles since the first observation are counted and delay its
issue (04 R129, R130; log entry 15). -/
def execWaitSatisfied (t : Nat) (s : State) : Host.Outcome State Fault Refusal :=
  let x := s.tile t
  match x.seq.wait with
  | none => ok s
  | some w =>
    if t < 1024 ∧ s.issueHeld = false ∧ x.seq.run = .waiting ∧ w.2.1 ≤ s.observed t w.1 then
      let held := Nat.max 1 (s.cyclesOf (s.tb.count - w.2.2))
      ok (s.setTile t { x with seq := { x.seq with run := .running, wait := none, shift := x.seq.shift + held },
                               ctr := { x.ctr with wait := satAdd 32 x.ctr.wait held } })
    else ok s

/-- The recovering part re-executes up to what the tile had issued before the pause (14 R384). -/
def State.reexecuting (s : State) (t : Nat) : Bool :=
  decide (s.recov.stage = .none) && decide ((s.tile t).seq.cycle < Sparse.get 0 s.recov.upTo t)

/-- SIGNAL: the update starts for die 0 (04 R128). One applied before a recovery's pause is not sent again (14 R384). -/
def execSignal (t : Nat) (p : Pred) (flag : BitVec 8) (add : Bool) (imm : BitVec 32) (s : State) :
    Host.Outcome State Fault Refusal :=
  if s.issues t && s.runs t p && !s.reexecuting t then
    ok ({ s with q := { s.q with landing := s.q.landing ++ [(t, flag.toNat, add, imm)] } }.endBundle t id)
  else ok (s.cSlot t p fun _ q => q)

def execSetvl (t : Nat) (p : Pred) (vlm1 : BitVec 12) (s : State) : Host.Outcome State Fault Refusal :=
  ok (s.cSlot t p fun _ q => { q with vl := vlm1.toNat + 1 })

def execSetmsk (t : Nat) (p : Pred) (msel : BitVec 3) (imm : BitVec 32) (s : State) : Host.Outcome State Fault Refusal :=
  ok (s.cSlot t p fun _ q => { q with msk := Sparse.set 0 q.msk msel.toNat imm })

def execSetrsp (t : Nat) (p : Pred) (vb : BitVec 2) (slot : BitVec 11) (s : State) : Host.Outcome State Fault Refusal :=
  ok (s.cSlot t p fun _ q => { q with rsp := Sparse.set 0 q.rsp vb.toNat (slot.toNat * 8) })

/-- DG.CLR clears a digest accumulator at the end of its cycle. -/
def execDgClr (t : Nat) (p : Pred) (da : BitVec 2) (s : State) : Host.Outcome State Fault Refusal :=
  if s.issues t && s.runs t p then
    ok ((s.setTile t { s.tile t with da := Sparse.set 0 (s.tile t).da da.toNat 0 }).endBundle t id)
  else ok (s.cSlot t p fun _ q => q)

/-- A pre-emption stop takes effect at a safe point whose scheduled count is at or after the stop count (11 R301). -/
def State.safeStops (s : State) (t : Nat) : Bool :=
  match s.ag.stop with
  | none => false
  | some n => n.pre && decide (n.c * s.cyc5 ≤ s.prog.launch * s.cyc5 + (s.tile t).seq.cycle * 5)

/-- A SNAPSHOT holds tiles at the first safe point whose scheduled count is at or after its count (12 R350; log entry 45). -/
def State.safeHolds (s : State) (t : Nat) : Bool :=
  match s.ag.snapAt with
  | none => false
  | some n => decide (n * s.cyc5 ≤ s.prog.launch * s.cyc5 + (s.tile t).seq.cycle * 5)

/-- A tile that goes on is held at its safe point. -/
def State.holdSafe (s : State) (t : Nat) : State :=
  if (s.tile t).seq.run = .running then s.setSeq t { (s.tile t).seq with run := .atSafe s.tb.count } else s

/-- SAFE marks a safe point. -/
def execSafe (t : Nat) (s : State) : Host.Outcome State Fault Refusal :=
  if s.issues t && s.runs t Pred.always && s.safeStops t then
    ok ((s.setTile t ((s.tile t).stopBy ((s.tile t).seq.cycle + 1))).endBundle t id)
  else if s.issues t && s.runs t Pred.always && s.safeHolds t then ok (((s.leaveBundle t id).holdSafe t).landAtoms t)
  else ok (s.cSlot t Pred.always fun _ q => q)

/-- HALT ends the section (04 R109). -/
def execHalt (t : Nat) (s : State) : Host.Outcome State Fault Refusal :=
  ok (s.cSlot t Pred.always fun _ q => { q with run := .halted })

/-! ### Replay loops (02 R66, R68) -/

/-- A LOOP-class block of the tile awaits replay. -/
def Tile.loopPending (x : Tile) : Bool :=
  (List.range 256).any fun g => let w := (Sparse.get 0 x.rgw g).toNat; bitAt w 3 && !bitAt w 2

/-- The wait for the last accumulator update, counted as a replay stall (05 R150). -/
def Tile.replayWait (x : Tile) : Tile :=
  let n := x.seq.land + 1 - x.seq.cycle
  { x with seq := { x.seq with cycle := x.seq.cycle + n }, ctr := { x.ctr with replay := satAdd 32 x.ctr.replay n } }

/-- The end of an execution of a replay loop: the wait, then the body again (at most four executions) or the reserve. -/
def execReplayLoopEnd (t : Nat) (s : State) : Host.Outcome State Fault Refusal :=
  let x := s.tile t
  if t < 1024 ∧ s.issueHeld = false ∧ x.seq.run = .replayEnd then
    let y := x.replayWait
    match y.seq.loops.reverse with
    | [] => ok s
    | f :: fs =>
      let f := if f.execs = 1 then { f with len := y.seq.cycle - f.start } else f
      if y.loopPending && decide (f.execs < 4) then
        let q := { y.seq with run := .running, bundle := f.first, land := 0,
                              loops := ({ f with execs := f.execs + 1 } :: fs).reverse }
        ok ((s.setTile t { y with seq := q }.settle).landAtoms t)
      else ok ((s.setTile t { y with seq := { y.seq with run := .reserve, loops := (f :: fs).reverse } }.settle).landAtoms t)
  else ok s

/-- The number of a replay loop in Prog.bodies: section, tile, first bundle of the body. -/
def bodyKey (q t b : Nat) : Nat := (q * 1024 + t) * 4096 + b

/-- The length B of one execution of a replay loop: as the load validator computed it, for a loop that no validator has seen that
of its first execution (02 R68; log entry 83). -/
def State.bodyLen (s : State) (t : Nat) (q : TileSeq) (f : LoopFrame) : Nat :=
  match Sparse.get 0 s.prog.bodies (bodyKey q.sect.toNat t f.first) with
  | 0 => f.len
  | b => b

/-- The replay reserve factor F of the loaded program (04 R107). -/
def State.rrf (s : State) : Nat := field (Bytes.readLe s.prog.header 0x008 8) 6 5

/-- The reserve of a replay loop ends: idle cycles up to start + (1 + F) × B, or an overrun that shifts the tile (02 R68). -/
def execReplayReserveEnd (t : Nat) (s : State) : Host.Outcome State Fault Refusal :=
  let x := s.tile t
  if t < 1024 ∧ s.issueHeld = false ∧ x.seq.run = .reserve then
    match x.seq.loops.reverse with
    | [] => ok s
    | f :: fs =>
      let stop := f.start + (1 + s.rrf) * s.bodyLen t x.seq f
      let ovf := x.seq.cycle - stop
      let q := { x.seq with run := .running, cycle := stop, shift := x.seq.shift + ovf, loops := fs.reverse, bundle := f.last }
      let q := q.advance (s.nb t)
      let port := (x.port.filter fun e => decide (stop + ovf ≤ e.1)).map fun e => (e.1 - ovf, e.2)
      let ctr := { x.ctr with replay := satAdd 32 x.ctr.replay ovf, overrun := satAdd 32 x.ctr.overrun ovf }
      let y := { x with seq := q, port := port, ctr := ctr }
      let s := s.setTile t y.settle
      ok (({ s with hbm := { s.hbm with plan := withdrawPassed t q s.hbm.plan } }).landAtoms t)
  else ok s

/-! ### Stalls and bank transitions -/

/-- The lines on a link input that an instruction issuing now needs have all been sent, and each arrives by the cycle of its use. -/
def Tile.linkReady (x : Tile) (link : Nat) (offs : List Nat) : Bool :=
  let q := Sparse.get [] x.links link
  decide (offs.length ≤ q.length) && (q.zip offs).all fun e => decide (e.1.arr ≤ x.now + e.2)

/-- The tile stalls in this cycle: the instruction that issues lacks a network input, or an output link is full (05 R147). -/
def State.stalls (s : State) (t : Nat) : Bool :=
  let x := s.tile t
  decide (t < 1024) && !s.issueHeld &&
    match x.seq.run with
    | .stalled => (match x.seq.need with | none => true | some n => !x.linkReady n.1 n.2) || s.outFull t
    | .running => s.outFull t
    | _ => false

/-- Lines that tile t has yet to send leave one cycle later, and arrive so: while a tile stalls it does not send (05 R147). -/
def State.delaySends (s : State) (t : Nat) : State :=
  let now := (s.tile t).now
  let late (e : LinkLine) : LinkLine := if e.src = t ∧ now ≤ e.sent then { e with sent := e.sent + 1, arr := e.arr + 1 } else e
  let each (_ : Nat) (x : Tile) : Tile := { x with links := Sparse.mapVals [] (fun _ q => q.map late) x.links }
  { s with tiles := Sparse.mapVals Tile.reset each s.tiles }

/-- One cycle in which a tile stalls as a whole: it counts as late input, and all that the tile has yet to do comes a cycle later
(04 R130; 05 R147, R148, R150). -/
def State.stallCycle (s : State) (t : Nat) : State :=
  let s := s.delaySends t
  let x := s.tile t
  s.setTile t { x with seq := { x.seq with shift := x.seq.shift + 1, lag := x.seq.lag + 1 }, ctr := { x.ctr with late := satAdd 32 x.ctr.late 1 } }

/-- Up to n stalled cycles of a tile: it goes on as soon as it has nothing to stall on. -/
def State.stallFor (t : Nat) : Nat → State → State
  | 0, s => s
  | n + 1, s => if s.stalls t then State.stallFor t n (s.stallCycle t) else s

/-- A tile stalls for some cycles, or until what it waits for is there. -/
def execElasticStall (t cycles : Nat) (s : State) : Host.Outcome State Fault Refusal := ok (State.stallFor t cycles s)

/-- The scratchpad after its bank leaves or enters OFF: zero with good ECC (13 R366). -/
def Tile.zeroSp (x : Tile) : Tile := { x with sp := [], spErr := [] }

/-- An accumulator half after OFF: entries V = 0 with flags clear, status words of its row groups zero. -/
def Tile.zeroAcc (x : Tile) (half : Nat) : Tile :=
  let keepE (k : Nat) : Bool := k / 8192 != half
  { x with acc := x.acc.filter (fun c => keepE c.1), accErr := x.accErr.filter (fun c => keepE c.1),
           rgw := x.rgw.filter (fun c => c.1 / 128 != half), blkLen := x.blkLen.filter (fun c => c.1 / 128 != half) }

/-- A bank reaches its target state. -/
def Bank.finish (b : Bank) : Bank := match b.target with | none => b | some x => { state := x, target := none }

/-- Contents are lost when a bank passes through OFF. -/
def Bank.loses (b : Bank) : Bool :=
  match b.target with | none => false | some x => decide (x = .off) || decide (b.state = .off)

/-- A power-bank transition completes: bank 0 the scratchpad, 1 ACC0, 2 ACC1. -/
def execBankTransitionComplete (t : Nat) (bank : Fin 3) (s : State) : Host.Outcome State Fault Refusal :=
  let x := s.tile t
  if t < 1024 then
    match bank.val with
    | 0 => ok (s.setTile t { (if x.bankSp.loses then x.zeroSp else x) with bankSp := x.bankSp.finish })
    | 1 => ok (s.setTile t { (if x.bank0.loses then x.zeroAcc 0 else x) with bank0 := x.bank0.finish })
    | _ => ok (s.setTile t { (if x.bank1.loses then x.zeroAcc 1 else x) with bank1 := x.bank1.finish })
  else ok s

end Sys2Proof.Machine
end

