-- ==== Sys2Proof/Machine/Links.lean ====
section
/-!
DEFINITION. Zilio links (10): ports, sending, acceptance and retry, lanes, light, training, failure and failover.
-/

namespace Sys2Proof.Machine

/-! ### Failure and failover (10 R269, R283, R285) -/

/-- The notice of a failed port. -/
def noticeFlit (part port : Nat) : Flit := newFlit tyNotice 0 0 (leBytes 2 part ++ leBytes 1 port)

/-- Puts a notice on every working group and global port. -/
def State.spreadNotice (s : State) (part port : Nat) : State :=
  (List.range 31).foldl
    (fun s k => if (s.port k).state.works then s.setPort k ((s.port k).queue (noticeFlit part port)) else s) s

/-- Collectives whose legs use a link have lost it: they complete with LINK_FAILOVER (10 R269, 11 R318). -/
def State.linkLost (s : State) (part port : Nat) : State :=
  let runs := s.coll.runs.map fun r => if s.runUses r part port then { r with lost := true } else r
  { s with coll := { s.coll with runs := runs } }

/-- A link is known to have failed, from here on. -/
def State.knowFailed (s : State) (part port : Nat) : State :=
  let s := s.linkLost part port
  { s with lnk := { s.lnk with failed := if s.lnk.failed.contains (part, port) then s.lnk.failed else (part, port) :: s.lnk.failed } }

/-- A flit that a failed port had not had acknowledged, as tunnelled data for the far end of the link; one that is tunnelled already
goes on to the end of its own link (R283; log entry 22). -/
def State.tunnel (s : State) (n : Nat) (p : Port) (f : Flit) : Flit :=
  if f.type = tyTunnel then f
  else { f with type := tyTunnel, dest := p.peerPart, tseq := f.seq, tport := BitVec.ofNat 5 n
                inner := some { src := BitVec.ofNat 13 s.partNo, type := f.type, dest := f.dest } }

/-- A flit of the router, not of one link. -/
def flitRoutes (f : Flit) : Bool := f.type == tyData || f.type == tyControl || f.type == tyTunnel

/-- A port fails with a cause: its flits not yet acknowledged go out again as tunnelled data on the new route, those waiting
take the new route, the failure is announced, and a record is written (SEV 1). What waits for the standby port goes nowhere else
(R278). -/
def State.failPort (s : State) (n : Nat) (cause : BitVec 3) : State :=
  let p := s.port n
  if p.state = .failed then s
  else
    let dead := { p with state := PortState.failed, cause := cause, epi := none, remap := false, mapOut := false, retrain := false,
                         spare := false, waiting := [], replay := [], resend := [], owedNak := none }
    let s := (s.setPort n dead).logCause
      { status := stLink, sev := 1, src := srcPort, unit := n, tag := none, detail := [cause.toNat] }
    let s := s.knowFailed s.partNo n
    if 31 ≤ n then s
    else
      let s := s.spreadNotice s.partNo n
      (p.replay.map (s.tunnel n p) ++ p.waiting.filter flitRoutes).foldl (fun s f => s.sendTo f.dest.toNat f) s

/-! ### Sending (10 R264, R267, R268) -/

/-- A flit leaves a port: acknowledgement and CRC filled in. -/
def Port.stamp (p : Port) (f : Flit) : Flit :=
  let g := { f with ackSeq := p.lastAck.getD 0, ackV := p.lastAck.isSome }
  { g with crc := flitCrc g }

/-- The next flit of a port: an owed NAK, then a resend, then a new flit while the replay buffer has room, else an idle flit.
A NAK names the expected SEQ as ACKSEQ + 1 (log entry 22). -/
def Port.nextFlit (p : Port) : Flit × Port :=
  match p.owedNak with
  | some _ => (p.stamp { newFlit tyNak 0 0 [] with seq := p.txSeq }, { p with owedNak := none })
  | none =>
    match p.resend with
    | f :: l => (p.stamp f, { p with resend := l })
    | [] =>
      match p.waiting with
      | f :: l =>
        if p.replay.length < replaySize then
          let g := { f with seq := p.txSeq }
          (p.stamp g, { p with waiting := l, replay := p.replay ++ [g], txSeq := p.txSeq + 1 })
        else (p.stamp { newFlit tyIdle 0 0 [] with seq := p.txSeq }, p)
      | [] => (p.stamp { newFlit tyIdle 0 0 [] with seq := p.txSeq }, p)

/-- The port after a flit: the stream of bytes goes on at the next active lane, and no lane-map flit is left to leave when none
waits. -/
def Port.sent (p : Port) : Port :=
  { p with laneAt := (p.laneAt + 320) % Nat.max 1 (activeLanes p.txOk).length
           mapOut := p.mapOut && (p.waiting ++ p.resend).any fun f => f.type == tyLaneMap }

/-- A port sends one flit, as bytes on its active lanes; a lane remap holds it once its lane-map flit has left (10 R264, R271,
R272). -/
def execFlitTransmit (n : Nat) (s : State) : Host.Outcome State Fault Refusal :=
  let p := s.port n
  if n < 32 ∧ p.state.works = true ∧ (p.remap = false ∨ p.mapOut = true) then
    let r := p.nextFlit
    ok ((s.setPort n r.2.sent).emit (.flit n r.1 (laneBytes (activeLanes p.txOk) p.laneAt (wireBytes r.1))))
  else ok s

/-! ### Receiving (10 R266–R268) -/

/-- Counts of 10 ms in which 64 episodes may begin. -/
def episodeWindow : Nat := 10000000

/-- Acknowledged flits leave the replay buffer: everything up to ACKSEQ. -/
def Port.acknowledge (p : Port) (a : BitVec 12) : Port :=
  let gone (f : Flit) : Bool := decide ((a - f.seq).toNat < replaySize)
  { p with replay := p.replay.filter fun f => !gone f, resend := p.resend.filter fun f => !gone f }

/-- A NAK starts a retry: the expected SEQ is asked for again. -/
def Port.askAgain (p : Port) (now : Nat) : Port :=
  let e : Episode := match p.epi with
    | none => { seq := p.rxExp, retries := 1, start := now, left := 64, nak := now }
    | some e => { e with seq := p.rxExp, retries := e.retries + 1, left := 64, nak := now }
  { p with epi := some e, owedNak := some p.rxExp, retries := satAdd 32 p.retries 1 }

/-- A sequenced flit is rejected: an episode begins, or a further retry when the flit it waited for had been accepted
(10 R268, R269). -/
def State.rejectFlit (s : State) (n : Nat) : State :=
  let p := s.port n
  let now := s.tb.count
  match p.epi with
  | none =>
    let times := now :: p.epiTimes.filter fun t => decide (now < t + episodeWindow)
    let q := { (p.askAgain now) with episodes := satAdd 32 p.episodes 1, epiTimes := times }
    if 64 < times.length then (s.setPort n q).failPort n 1 else s.setPort n q
  | some e =>
    if e.left = 64 then s
    else if 8 ≤ e.retries then s.failPort n 1
    else s.setPort n (p.askAgain now)

/-- A sequenced flit is accepted: the next SEQ is expected, the episode comes nearer its end. -/
def Port.accept (p : Port) (f : Flit) (now : Nat) : Port :=
  let epi := match p.epi with
    | none => none
    | some e => if e.left ≤ 1 then none else some { e with left := e.left - 1 }
  { p with rxExp := p.rxExp + 1, lastAck := some f.seq, epi := epi
           busyTo := if p.epi.isSome && epi.isNone then some now else p.busyTo }

/-- What the FEC and the CRC found is counted (10 R285). -/
def Port.countErrors (p : Port) (f : Flit) : Port :=
  let p := { p with fecCorr := satAdd 48 p.fecCorr (flitFecBytes f), uncorr := satAdd 32 p.uncorr (flitFecBad f) }
  if flitFecOk f && f.crc != flitCrc f then { p with crcErr := satAdd 32 p.crcErr 1 } else p

/-- Both codewords decode and the CRC matches. -/
def flitIntact (f : Flit) : Bool := flitFecOk f && f.crc == flitCrc f

/-- Receives a sequenced flit; an accepted one goes on to `act`. -/
def State.receiveSeq (s : State) (n : Nat) (f : Flit) (act : State → State) : State :=
  let p := s.port n
  if 32 ≤ n ∨ p.state.works = false then s
  else
    let s := s.setPort n (p.countErrors f)
    if flitIntact f && f.seq == p.rxExp then
      let q := (s.port n).accept f s.tb.count
      act (s.setPort n (if f.ackV then q.acknowledge f.ackSeq else q))
    else s.rejectFlit n

/-- Receives an idle flit or a NAK: never buffered, and nothing follows from one that is not accepted. -/
def State.receiveIdle (s : State) (n : Nat) (f : Flit) (act : Port → Port) : State :=
  let p := s.port n
  if 32 ≤ n ∨ p.state.works = false then s
  else
    let q := p.countErrors f
    if flitIntact f then s.setPort n (act (if f.ackV then q.acknowledge f.ackSeq else q)) else s.setPort n q

/-- An accepted flit for this part goes to the router, once and in order (10 R270). -/
def State.toRouter (s : State) (n : Nat) (f : Flit) : State :=
  { s with lnk := { s.lnk with routed := s.lnk.routed ++ [(n, f)] } }

/-- An accepted flit: for this part, or on its way to another, to which the router forwards it (10 R282). What comes on the standby
port is for this part (R278). -/
def State.route (s : State) (n : Nat) (f : Flit) : State :=
  if n = 31 ∨ f.dest.toNat = s.partNo then s.toRouter n f else s.sendTo f.dest.toNat f

def execDataFlit (n : Nat) (f : Flit) (s : State) : Host.Outcome State Fault Refusal :=
  ok (s.receiveSeq n f fun s => s.route n f)

def execControlFlit (n : Nat) (f : Flit) (s : State) : Host.Outcome State Fault Refusal :=
  ok (s.receiveSeq n f fun s => s.route n f)

def execIdleFlit (n : Nat) (f : Flit) (s : State) : Host.Outcome State Fault Refusal :=
  ok (s.receiveIdle n f id)

/-- A NAK: what it acknowledges leaves the buffer, the rest is sent again in order. -/
def execNak (n : Nat) (f : Flit) (s : State) : Host.Outcome State Fault Refusal :=
  ok (s.receiveIdle n f fun p => { p with resend := p.replay })

/-- The port of this part on the link whose other end is a port of a part. -/
def State.portToward (s : State) (src : BitVec 13) (tport : BitVec 5) : Option Nat :=
  (List.range 32).find? fun k =>
    let p := s.port k
    p.peerV && p.peerPart == src && p.peerPort == tport

/-- A failure notice: routes avoid the link from now on, and the notice is passed on once. -/
def State.takeNotice (s : State) (part port : Nat) : State :=
  if s.lnk.failed.contains (part, port) then s else (s.knowFailed part port).spreadNotice part port

/-- What a tunnelled flit was, taken as if it had come on the failed link. -/
def State.takeInner (s : State) (k : Nat) (f : Flit) (i : Inner) : State :=
  let g := { f with type := i.type, dest := i.dest, seq := f.tseq, tseq := 0, tport := 0, inner := none }
  if i.type = tyNotice then s.takeNotice (leNat (f.payload.take 2)) (leNat ((f.payload.drop 2).take 1))
  else if flitRoutes g then s.route k g else s

/-- Tunnelled data: forwarded on the way; at the far end of the failed link it is taken by TSEQ and TPORT, in order, and discarded when
that link has delivered it already (R283; log entry 22). -/
def execTunnelledData (n : Nat) (f : Flit) (s : State) : Host.Outcome State Fault Refusal :=
  ok (s.receiveSeq n f fun s =>
    if f.dest.toNat ≠ s.partNo then s.sendTo f.dest.toNat f
    else match f.inner with
      | none => s
      | some i => match s.portToward i.src f.tport with
        | none => s
        | some k =>
          let p := s.port k
          if (f.tseq - p.rxExp).toNat < replaySize then (s.setPort k { p with rxExp := f.tseq + 1 }).takeInner k f i else s)

def execFailureNotice (n : Nat) (f : Flit) (part port : Nat) (s : State) : Host.Outcome State Fault Refusal :=
  ok (s.receiveSeq n f fun s => s.takeNotice part port)

/-! ### Retry timers (10 R268, R269, R272) -/

/-- The 5 µs timer: a new NAK, or failure when the eighth retry fails. A remap suspends it. -/
def execRetryTimerExpiry (n : Nat) (s : State) : Host.Outcome State Fault Refusal :=
  let p := s.port n
  match p.epi with
  | none => ok s
  | some e =>
    if 32 ≤ n ∨ p.remap = true ∨ p.state.works = false ∨ e.left < 64 then ok s
    else if 8 ≤ e.retries then ok (s.failPort n 1)
    else ok (s.setPort n (p.askAgain s.tb.count))

/-- The budget of 40 µs runs out. -/
def execRetryBudgetExpiry (n : Nat) (s : State) : Host.Outcome State Fault Refusal :=
  let p := s.port n
  if n < 32 ∧ p.epi ≠ none ∧ p.remap = false ∧ p.state.works = true then ok (s.failPort n 1) else ok s

/-! ### Lanes (10 R271, R272) -/

/-- A lane of a direction stops being good; 17 names every lane (log entry 22). -/
def dropLane (v : BitVec 17) (lane : Nat) : BitVec 17 := if lane < 17 then v &&& ~~~(1#17 <<< lane) else 0

/-- State after lane failures: up with the spare in use, degraded, or to fail. -/
def Port.laneState (p : Port) : Port :=
  let worst := Nat.max (badLanes p.rxOk) (badLanes p.txOk)
  let used (v : BitVec 17) : Bool := (activeLanes v).contains 16
  { p with state := if worst = 2 then .degraded else p.state, spare := used p.rxOk || used p.txOk }

/-- A lane-map flit goes ahead of what waits. -/
def Port.queueMap (p : Port) (lane : Nat) : Port :=
  { p with waiting := newFlit tyLaneMap 0 0 (leBytes 1 lane) :: p.waiting, mapOut := true }

/-- A lane fails in a direction: the remap starts, or a third failure fails the port with cause 2; a loss of every lane at
once with cause 7 (10 R271, R275, R286). The receiver's lane-map flit leaves before the port is held; the sender switches when it has
accepted it, which is the agreed boundary (log entry 126). -/
def State.laneFails (s : State) (n lane : Nat) (rx : Bool) : State :=
  let p := s.port n
  let old := if rx then p.rxOk else p.txOk
  if 32 ≤ n ∨ p.state.works = false ∨ (lane < 17 ∧ old.getLsbD lane = false) then s
  else
    let v := dropLane old lane
    let q := if rx then { p with rxOk := v } else { p with txOk := v }
    let s := s.logCause { status := stOk, sev := 1, src := srcPort, unit := n, tag := none, detail := [lane] }
    if 17 ≤ lane then (s.setPort n q).failPort n 7
    else if 3 ≤ badLanes v then (s.setPort n q).failPort n 2
    else
      let q := { q.laneState with remap := true, remaps := satAdd 8 p.remaps 1, laneAt := if rx then p.laneAt else 0 }
      s.setPort n (if rx then q.queueMap lane else q)

def execLaneLossOfLock (n lane : Nat) (s : State) : Host.Outcome State Fault Refusal := ok (s.laneFails n lane true)

/-- A byte-error rate above 10^-5 over the window fails the lane. -/
def execLaneErrorWindow (n lane bad total : Nat) (s : State) : Host.Outcome State Fault Refusal :=
  if total < bad * 100000 then ok (s.laneFails n lane true) else ok s

/-- The peer's receiver names a failed transmit lane of this port; both ends switch. -/
def execLaneMap (n : Nat) (f : Flit) (lane : Nat) (s : State) : Host.Outcome State Fault Refusal :=
  ok (s.receiveSeq n f fun s => s.laneFails n lane false)

/-- A remap ends, once its lane-map flit has left. -/
def execLaneRemapComplete (n : Nat) (s : State) : Host.Outcome State Fault Refusal :=
  let p := s.port n
  if n < 32 ∧ p.remap = true ∧ p.mapOut = false then
    ok (s.setPort n { p with remap := false, busyTo := some s.tb.count })
  else ok s

/-! ### Light (10 R274, R275) -/

/-- Ports of an engine. -/
def enginePorts (e : Nat) : List Nat := (List.range 8).map (8 * e + ·)

def State.setLight (s : State) (e : Nat) (l : Light) : State :=
  { s with lnk := { s.lnk with light := Sparse.set Light.ok s.lnk.light e l } }

def State.mapPorts (s : State) (ns : List Nat) (f : Port → Port) : State :=
  ns.foldl (fun s n => s.setPort n (f (s.port n))) s

def execLightWarn (engine : Fin 4) (s : State) : Host.Outcome State Fault Refusal :=
  let s := (s.setLight engine.val .warn).mapPorts (enginePorts engine.val) fun p => { p with lightWarn := true }
  ok (s.logCause { status := stOk, sev := 0, src := srcPort, unit := 8 * engine.val, tag := none, detail := [engine.val] })

/-- Light below PFAIL: every port of the engine fails with cause 3. FAULT_N follows from the light (14 R380). -/
def execLightFail (engine : Fin 4) (s : State) : Host.Outcome State Fault Refusal :=
  ok ((enginePorts engine.val).foldl (fun s n => s.failPort n 3) (s.setLight engine.val .fail))

/-- Light above PWARN for 100 ms: reported; the ports stay failed until they are retrained. -/
def execLightRestored (engine : Fin 4) (s : State) : Host.Outcome State Fault Refusal :=
  let s := (s.setLight engine.val .restored).mapPorts (enginePorts engine.val) fun p => { p with lightWarn := false }
  ok (s.logCause { status := stOk, sev := 0, src := srcPort, unit := 8 * engine.val, tag := none, detail := [engine.val] })

/-! ### Training (10 R276, R277; 16 R437) -/

/-- Role of a port: group, global, standby (10 R278). -/
def portRole (n : Nat) : Nat := if n < 15 then 0 else if n < 31 then 1 else 2

/-- This part's position is set: GBL_PARTID.POSV. -/
def State.posv (s : State) : Bool := s.gbl.partId.getLsbD 16

/-- The peer's identity does not fit: another role, or not the part and port of R279 and R280. -/
def State.miswired (s : State) (n : Nat) (peerPart : BitVec 13) (peerPort : BitVec 5) (peerPosv : Bool) : Bool :=
  portRole n != portRole peerPort.toNat
    || (s.posv && peerPosv && (match wiredPeer s.partNo n with
        | none => false
        | some p => decide (p ≠ (peerPart.toNat, peerPort.toNat))))

/-- A port with its link state fresh: sequence numbers at 0, buffers empty. -/
def Port.fresh (p : Port) : Port :=
  { p with txSeq := 0, waiting := [], replay := [], resend := [], rxExp := 0, lastAck := none, owedNak := none, epi := none,
           epiTimes := [], remap := false, mapOut := false, retrain := false, cause := 0, spare := false, parked := false, laneAt := 0 }

/-- A port whose training ends well leaves the known failures, under either end of its link. -/
def State.clearFailed (s : State) (n : Nat) : State :=
  let far := ((s.port n).peerPart.toNat, (s.port n).peerPort.toNat)
  { s with lnk := { s.lnk with failed := s.lnk.failed.filter fun x => decide (x ≠ (s.partNo, n) ∧ x ≠ far) } }

/-- Training ends. A failure in it is announced like any other (R283); an identity is sent before the peer's is judged; a port that
is retrained while a program runs carries scheduled traffic only from the next start (10 R276, R277). -/
def execLinkTrainingComplete (n : Nat) (r : TrainResult) (s : State) : Host.Outcome State Fault Refusal :=
  let p := (s.port n).fresh
  if 32 ≤ n ∨ (s.port n).state ≠ .training then ok s
  else match r with
    | .noLight => ok ((s.setPort n p).failPort n 3)
    | .noLock => ok (s.setPort n { p with state := .dark, rxOk := 0, txOk := 0 })
    | .done rxBad txBad peerPart peerPort peerPosv =>
      let q := { p with rxOk := ~~~rxBad, txOk := ~~~txBad }
      if 3 ≤ badLanes q.rxOk ∨ 3 ≤ badLanes q.txOk then ok ((s.setPort n q).failPort n 4)
      else
        let q := { q with peerPart := peerPart, peerPort := peerPort, peerV := true }
        let s := s.emit (.identity n s.partNo s.posv)
        if s.miswired n peerPart peerPort peerPosv then ok (s.setPort n { q with state := .miswired, cause := 5 })
        else if s.gbl.prog.toNat < 2 then ok ((s.setPort n { q with state := .up }.laneState).clearFailed n)
        else ok (s.setPort n { { q with state := .up }.laneState with parked := true })

/-- LNK_CTRL.DISABLE written 1: the port fails with cause 6 at once. -/
def execLnkDisable (n : Nat) (s : State) : Host.Outcome State Fault Refusal :=
  if s.ready = true ∧ n < 32 then ok ((s.setPort n { s.port n with disable := true }).failPort n 6) else ok s

/-- LNK_CTRL.RETRAIN written 1: ignored while DISABLE is 1 or training runs. -/
def execLnkRetrain (n : Nat) (s : State) : Host.Outcome State Fault Refusal :=
  let p := s.port n
  if s.ready = true ∧ n < 32 ∧ p.disable = false ∧ (p.state = .failed ∨ p.state = .dark ∨ p.state = .miswired) then
    ok (s.setPort n { p with state := .training, retrain := true })
  else ok s

end Sys2Proof.Machine
end

