-- ==== Sys2Proof/Machine/Collect.lean ====
section
/-!
DEFINITION. Collectives (11 R303–R318): linear addresses, partial formats, chunks and legs, and what the router does for a
running collective. Readings of the leg protocol that the manual leaves to the router are log entries 26 and 27.
-/

namespace Sys2Proof.Machine

/-! ### Linear addresses (11 R305) -/

/-- HBM bytes; addresses at or above 512 GiB read 0 (12 R325). -/
def hbmTop : Nat := 2 ^ 39

def State.hbmRead (s : State) (a n : Nat) : List Byte :=
  (List.range n).map fun i => if a + i < hbmTop then Bytes.read s.hbm.mem (a + i) else 0

/-- Writes HBM bytes; those at or above 512 GiB are dropped. -/
def State.hbmWrite (s : State) (a : Nat) (bs : List Byte) : State :=
  { s with hbm := { s.hbm with mem := Bytes.writeN s.hbm.mem a (bs.take (hbmTop - a)) } }

/-- A tile-linear address: bit 63 set (11 R305). -/
def isTileLinear (a : Nat) : Bool := a.testBit 63

/-- The pieces of a tile-linear run: tile, offset, bytes. -/
def tilePieces (a n : Nat) : List (Nat × Nat × Nat) :=
  if n = 0 then []
  else
    let b := a % 2 ^ 63
    (List.range ((b + n - 1) / 2 ^ 20 - b / 2 ^ 20 + 1)).map fun i =>
      let t := b / 2 ^ 20 + i
      let lo := Nat.max b (t * 2 ^ 20)
      let hi := Nat.min (b + n) ((t + 1) * 2 ^ 20)
      (t, lo - t * 2 ^ 20, hi - lo)

/-- Bytes at an HBM or tile-linear address; tiles past 1,023 read 0. -/
def State.linRead (s : State) (a n : Nat) : List Byte :=
  if isTileLinear a then
    (tilePieces a n).flatMap fun p =>
      if p.1 < 1024 then ((s.tile p.1).spRead p.2.1 p.2.2 s.free).data else List.replicate p.2.2 0
  else s.hbmRead a n

/-- Writes the pieces of a tile-linear run. -/
def State.tileWrites (s : State) : List (Nat × Nat × Nat) → List Byte → State
  | [], _ => s
  | p :: ps, bs =>
    let s := if p.1 < 1024 then s.setTile p.1 ((s.tile p.1).spWrite p.2.1 (bs.take p.2.2)) else s
    s.tileWrites ps (bs.drop p.2.2)

/-- Writes bytes at an HBM or tile-linear address. -/
def State.linWrite (s : State) (a : Nat) (bs : List Byte) : State :=
  if isTileLinear a then s.tileWrites (tilePieces a bs.length) bs else s.hbmWrite a bs

/-- Tile-linear deliveries the receive log holds: 448 MiB (14 R384). -/
def receiveLogSize : Nat := 448 * 2 ^ 20

def State.receiveLogBytes (s : State) : Nat := s.recov.log.foldl (fun n e => n + e.2.length) 0

/-- A router delivery: written, and logged when it is tile-linear while a program has a replay point (14 R384). -/
def State.deliver (s : State) (a : Nat) (bs : List Byte) : State :=
  let s := s.linWrite a bs
  if isTileLinear a && s.prog.tag.isSome && !s.recov.active && !s.recov.logFull then
    if s.receiveLogBytes + bs.length ≤ receiveLogSize then { s with recov := { s.recov with log := s.recov.log ++ [(a, bs)] } }
    else { s with recov := { s.recov with logFull := true } }
  else s

/-- n elements of a format from element `first` of a packed run. -/
def State.linElems (s : State) (f a first n : Nat) : List Nat :=
  let b := fmtBits f
  let lo := first * b / 8
  let v := leNat (s.linRead (a + lo) (ceilDiv ((first + n) * b) 8 - lo)) >>> (first * b % 8)
  (List.range n).map fun i => (v >>> (i * b)) % 2 ^ b

/-- Bytes of elements written from element `first` of a packed run, with the address they go to: bits around them stay. -/
def State.packAt (s : State) (f a first : Nat) (xs : List Nat) : Nat × List Byte :=
  let b := fmtBits f
  let lo := first * b / 8
  let n := ceilDiv ((first + xs.length) * b) 8 - lo
  let old := leNat (s.linRead (a + lo) n)
  let sh := first * b % 8
  let v := old % 2 ^ sh + packNat f xs * 2 ^ sh
  (a + lo, leBytes n (v + old / 2 ^ (sh + xs.length * b) * 2 ^ (sh + xs.length * b)))

/-! ### Partials (11 R308) -/

/-- The partial format of a reduction: operation and input format. -/
def partialFmt (op ifmt : Nat) : Nat :=
  if op = 3 then fmtFP64
  else if ifmt = fmtFP64 then fmtFP64
  else if ifmt = fmtINT8 ∨ ifmt = fmtINT32 then fmtINT32
  else if ifmt = fmtINT64 then fmtINT64
  else if op = 0 then fmtFP32
  else if ifmt = fmtBF16 ∨ ifmt = fmtFP16 then ifmt
  else fmtFP32

/-- A value in a floating format with RNE; beyond its range it is ±Inf with OF. -/
def toFloat (f : Nat) : FVal → Res
  | .nan _ => (canonNan f, 0)
  | .inf s => (infBits f s, 0)
  | .fin s m e =>
    let r := roundFloat f .rne s m e false 0
    if r.ovf then (infBits f s, fOF) else (r.bits, 0)

/-- The exact square of a value. -/
def FVal.square : FVal → FVal
  | .nan b => .nan b
  | .inf _ => .inf false
  | .fin _ m e => .fin false (m * m) (e + e)

/-- An input element in its partial format: scale exponent of its block where it has one. -/
def toPartial (op ifmt : Nat) (scale : Option (Option Int)) (x : Nat) : Res :=
  let p := partialFmt op ifmt
  if isInt p then (wrap (fmtBits p) (intVal ifmt x), 0)
  else
    let v := match scale with | none => decodeVal (elemFmt ifmt) x | some e => scaleVal e (decodeVal (elemFmt ifmt) x)
    if op = 3 then toFloat p v.square
    else if p = ifmt then (x, 0)
    else toFloat p v

/-- The combination of two partials, lower member first. -/
def combine2 (op p a b : Nat) : Nat :=
  if isInt p then
    match op with
    | 1 => if intVal p a < intVal p b then b else a
    | 2 => if intVal p b < intVal p a then b else a
    | _ => (a + b) % 2 ^ fmtBits p
  else
    let r := match op with
      | 1 => (fpMaxMin true true p a b).1
      | 2 => (fpMaxMin false true p a b).1
      | _ => (fpAdd true p a b).1
    if (decodeVal p r).isNan then canonNan p else r

/-- The combination of two chunks. -/
def combineVals (op p : Nat) (a b : List Nat) : List Nat := List.zipWith (combine2 op p) a b

/-- One level of the tree over member values. -/
def pairLevel (op p : Nat) : List (List Nat) → List (List Nat)
  | a :: b :: l => combineVals op p a b :: pairLevel op p l
  | l => l

def pairReduce (op p : Nat) : Nat → List (List Nat) → List Nat
  | _, [] => []
  | _, [a] => a
  | 0, a :: _ => a
  | n + 1, l => pairReduce op p n (pairLevel op p l)

/-- The reduction of all members' values in the order of SHAPE (11 R312). -/
def reduceAll (chain : Bool) (op p : Nat) : List (List Nat) → List Nat
  | [] => []
  | a :: l => if chain then l.foldl (combineVals op p) a else pairReduce op p (l.length + 1) (a :: l)

/-! ### Chunks (11 R307, R309) -/

def CollEntry.reduces (e : CollEntry) : Bool := decide (e.type ≤ 1)

/-- Output and leg format: partials for a reducing type, else the input format. -/
def CollEntry.ofmt (e : CollEntry) : Nat := if e.reduces then partialFmt e.op e.ifmt else e.ifmt

/-- Elements a chunk covers; for GATHER_BY_INDEX positions (log entry 26). -/
def CollEntry.chunkElems (e : CollEntry) : Nat :=
  if e.type = 5 then Nat.max 1 (e.csz * 4096 / Nat.max 1 e.rowb)
  else if e.reduces then e.csz * 4096 * 8 / fmtBits e.ofmt
  else if fmtBits e.ifmt < 8 then e.csz * 4096
  else e.csz * 4096 * 8 / fmtBits e.ifmt

/-- Shards that are chunked on their own. -/
def CollEntry.shards (e : CollEntry) (n : Nat) : Nat := if e.type = 1 ∨ e.type = 4 then n else 1

/-- Chunks of a shard; a barrier has one chunk without data. -/
def CollEntry.perShard (e : CollEntry) (n : Nat) : Nat :=
  if e.type = 6 then 1 else ceilDiv (e.elems / e.shards n) e.chunkElems

def CollEntry.chunkCount (e : CollEntry) (n : Nat) : Nat := e.shards n * e.perShard n

/-- A chunk's shard, its first element in the shard and its element count. -/
def CollEntry.range (e : CollEntry) (n k : Nat) : Nat × Nat × Nat :=
  if e.type = 6 then (0, 0, 0)
  else
    let c := e.perShard n
    let first := (k % c) * e.chunkElems
    (k / c, first, Nat.min e.chunkElems (e.elems / e.shards n - first))

/-- First byte of the scale array behind n elements (11 R309). -/
def scaleAt (f a n : Nat) : Nat := a + alignUp (packedBytes f n) 128

/-- This member's input of chunk k: elements and scale codes. -/
def State.chunkInput (s : State) (e : CollEntry) (n k : Nat) : List Nat × List Nat :=
  let r := e.range n k
  let first := r.1 * (e.elems / e.shards n) + r.2.1
  if e.type = 6 then ([], [])
  else if e.type = 5 then (s.linElems fmtINT64 e.idx.toNat r.2.1 r.2.2, [])
  else
    let xs := s.linElems e.ifmt e.src.toNat first r.2.2
    let sc := if isBlock e.ifmt then
        (s.linRead (scaleAt e.ifmt e.src.toNat e.elems + first / 32) (ceilDiv r.2.2 32)).map (·.toNat) else []
    (xs, sc)

/-- The input of a chunk as it travels: partials of a reducing type; elements then scale codes of a moving type. -/
def State.chunkOwn (s : State) (e : CollEntry) (n k : Nat) : List Nat × Nat :=
  let i := s.chunkInput e n k
  if e.reduces then
    let rs := (List.range i.1.length).map fun j =>
      toPartial e.op e.ifmt (if isBlock e.ifmt then some (scaleExp (i.2.getD (j / 32) 0)) else none) (i.1.getD j 0)
    (rs.map (·.1), rs.foldl (fun f r => f ||| r.2) 0)
  else (i.1 ++ i.2, 0)

/-- The data bytes of a leg with m elements. -/
def CollEntry.legBytes (e : CollEntry) (m : Nat) (xs : List Nat) : List Byte :=
  packElems e.ofmt (xs.take m) [] ++ (xs.drop m).map fun x => BitVec.ofNat 8 x

/-- The values of a leg's data bytes. -/
def CollEntry.legVals (e : CollEntry) (m : Nat) (bs : List Byte) : List Nat :=
  let n := packedBytes e.ofmt m
  unpackElems e.ofmt m (bs.take n) ++ (bs.drop n).map (·.toNat)

/-! ### Legs (11 R315, R316) -/

/-- The header fields of a leg as bytes, in the order of R315, least significant first (log entry 27). -/
def legHeader (l : Leg) : List Byte :=
  leBytes 18 (l.epoch.toNat + l.entry.toNat * 2 ^ 64 + l.chunk.toNat * 2 ^ 76 + l.level.toNat * 2 ^ 96
    + l.member.toNat * 2 ^ 104 + (l.data.length % 2 ^ 24) * 2 ^ 117)

/-- The CRC-64 of header fields and data bytes. -/
def legCrc (l : Leg) : BitVec 64 := crc64 (legHeader l ++ l.data)

def newLeg (epoch : W64) (entry chunk level member : Nat) (data : List Byte) (down : Bool) : Leg :=
  let l : Leg := { epoch := epoch, entry := BitVec.ofNat 12 entry, chunk := BitVec.ofNat 20 chunk, level := BitVec.ofNat 8 level,
                   member := BitVec.ofNat 13 member, data := data, crc := 0, down := down }
  { l with crc := legCrc l }

def lvFinal : Nat := 254
def lvDown : Nat := 255

/-! ### Levels -/

/-- Level of a member's upward leg. -/
def upLevel (c : Comm) (m : Nat) : Nat := if c.chain || c.placeRoot then 0 else trailing 13 m

/-! ### A chunk at this part -/

/-- Values received at a level from a member. -/
def Chunk.from_ (k : Chunk) (level member : Nat) : Option (List Nat) :=
  (k.got.find? fun g => g.1 == level && g.2.1 == member).map (·.2.2)

/-- The level that holds this part's own input. -/
def lvOwn : Nat := 256

/-- Where a leg goes. -/
structure Send where
  dest : Nat
  level : Nat
  vals : List Nat
  down : Bool
  deriving DecidableEq, Repr, Inhabited

/-- What one chunk does next: legs to send, a result to deliver (with the output it belongs to), the chunk after. -/
structure Advance where
  chunk : Chunk
  sends : List Send
  result : Option (List Nat)
  deriving DecidableEq, Repr, Inhabited

/-- The reduction value at a member once all it combines has come; none while something is missing. -/
def upValue (c : Comm) (op p root me : Nat) (k : Chunk) : Option (List Nat) :=
  match k.from_ lvOwn me with
  | none => none
  | some own =>
    if c.placeRoot then
      if me ≠ root then some own
      else
        let vs := (List.range c.n).map fun m => if m = me then some own else k.from_ 0 m
        if vs.all (·.isSome) then some (reduceAll c.chain op p (vs.filterMap id)) else none
    else
      let vs := (treeChildren c.chain c.n me).map fun m => k.from_ (upLevel c m) m
      if vs.all (·.isSome) then
        some (if c.chain then (vs.filterMap id).foldl (fun a v => combineVals op p v a) own
              else (vs.filterMap id).foldl (combineVals op p) own)
      else none

/-- A reducing chunk (ALL_REDUCE, REDUCE_SCATTER) or a barrier: up the tree, to the root, and for ALL_REDUCE down again. -/
def advanceReduce (c : Comm) (op p root me : Nat) (scatter : Bool) (k : Chunk) : Advance :=
  let n := c.n
  let holder := if c.placeRoot then root else treeHolder c.chain n
  let up := if k.level = 1 then upValue c op p root me k else none
  let sends : List Send := match up with
    | none => []
    | some v =>
      if me = holder then (if holder = root then [] else [{ dest := root, level := lvFinal, vals := v, down := false }])
      else if c.placeRoot then [{ dest := root, level := 0, vals := v, down := false }]
      else match treeParent c.chain n me with
        | none => []
        | some d => [{ dest := d, level := upLevel c me, vals := v, down := false }]
  let k := if up.isSome then { k with level := 2 } else k
  let final : Option (List Nat) :=
    if me = root ∧ holder = root then up
    else if me = root then k.from_ lvFinal holder
    else if scatter then none
    else (k.got.find? fun g => g.1 == lvDown).map (·.2.2)
  match final with
  | some v =>
    let down : List Send := if scatter then [] else (downChildren c.chain n me).map fun d =>
      { dest := d, level := lvDown, vals := v, down := true }
    { chunk := { k with value := v, done := decide (k.level = 2) }, sends := sends ++ down, result := some v }
  | none => { chunk := { k with done := scatter && decide (me ≠ root) && decide (k.level = 2) }, sends := sends, result := none }

/-! ### What a run does (11 R306) -/

/-- Output elements of a moving type, for the place of its scale array. -/
def CollEntry.outElems (e : CollEntry) (n : Nat) : Nat := if e.type = 2 then n * e.elems else e.elems

/-- Writes moved data of a member's chunk at its place in the output: element offset, values. -/
def State.deliverMoved (s : State) (e : CollEntry) (n first m : Nat) (xs : List Nat) : State :=
  let w := s.packAt e.ifmt e.dst.toNat first (xs.take m)
  let s := s.deliver w.1 w.2
  if isBlock e.ifmt then
    s.deliver (scaleAt e.ifmt e.dst.toNat (e.outElems n) + first / 32) ((xs.drop m).map fun x => BitVec.ofNat 8 x)
  else s

/-- The slot of a chunk in its entry's buffer region (11 R315). -/
def State.bufWrite (s : State) (e : CollEntry) (k : Nat) (bs : List Byte) : State :=
  let a := e.bufOff + (k % Nat.max 1 e.infl) * e.csz * 4096
  { s with coll := { s.coll with buf := Bytes.writeN s.coll.buf a (bs.take (e.csz * 4096)) } }

/-- A leg leaves for a member's part and is kept until confirmed. -/
def State.sendLeg (s : State) (c : Comm) (me : Nat) (e : CollEntry) (m : Nat) (r : CollRun) (k : Nat) (x : Send) :
    State × CollRun :=
  let l := newLeg r.epoch r.entry k x.level me (e.legBytes m x.vals) x.down
  let r := { r with kept := r.kept ++ [(x.dest, l)] }
  match s.memberPart c x.dest with
  | none => (s, r)
  | some p => (if (s.routePort p).isSome then s.emit (.leg p l) else s, r)

/-- The FP64 sum of the squares of a chunk's FP32 results in ascending order (09 R245). -/
def squareSum (xs : List Nat) : Nat :=
  xs.foldl (fun a x => (fpAdd true fmtFP64 a (toFloat fmtFP64 (decodeVal fmtFP32 x).square).1).1) 0

/-- The rows of GATHER_BY_INDEX a holder sends for the indices asked of it (11 R306). -/
def State.gatherRows (s : State) (e : CollEntry) (me : Nat) (idx : List Nat) : List Nat :=
  idx.flatMap fun i => (s.linRead (e.src.toNat + (i - me * e.rpm) * e.rowb) e.rowb).map (·.toNat)

/-- Positions of a chunk whose row a member holds. -/
def heldBy (rpm m : Nat) (idx : List Nat) : List Nat :=
  (List.range idx.length).filter fun j =>
    let i := intVal fmtINT64 (idx.getD j 0)
    decide (((m * rpm : Nat) : Int) ≤ i) && decide (i < (((m + 1) * rpm : Nat) : Int))

/-- A leg's level for row requests of GATHER_BY_INDEX. -/
def lvAsk : Nat := 1

/-- The legs of a moving chunk sent by this member: the data and the members they go to. -/
def moveSends (e : CollEntry) (n me shard : Nat) (own : List Nat) : List Send :=
  let others := (List.range n).filter (· != me)
  let toAll (ds : List Nat) : List Send := ds.map fun d => { dest := d, level := 0, vals := own, down := false }
  match e.type with
  | 2 => toAll others
  | 3 => if me = e.rootm then toAll others else []
  | 4 => if shard = me then [] else toAll [shard]
  | 5 => others.map fun d => { dest := d, level := lvAsk, vals := (heldBy e.rpm d own).map (own.getD · 0), down := false }
  | _ => []

/-- Members whose data a moving chunk waits for. -/
def moveSources (e : CollEntry) (n me shard : Nat) : List Nat :=
  let others := (List.range n).filter (· != me)
  match e.type with
  | 2 => others
  | 3 => if me = e.rootm then [] else [e.rootm]
  | 4 => if shard = me then others else []
  | 5 => others
  | _ => []

/-- Bytes of rows as elements: rows travel as UINT8 values. -/
def rowsEntry (e : CollEntry) : CollEntry := { e with ifmt := fmtUINT8, type := 3 }

/-- Requests travel as INT64 values. -/
def asksEntry (e : CollEntry) : CollEntry := { e with ifmt := fmtINT64, type := 3 }

/-- A chunk starts: its own input is read and takes the chunk's slot of the buffer. -/
def State.startChunk (s : State) (e : CollEntry) (n me : Nat) (k : Chunk) : State × Chunk :=
  let own := s.chunkOwn e n k.idx
  let s := { s with coll := { s.coll with flags := s.coll.flags ||| BitVec.ofNat 32 own.2 } }
  ((if e.type = 6 then s else s.bufWrite e k.idx ((if e.type = 5 then asksEntry e else e).legBytes (e.range n k.idx).2.2 own.1)),
    { k with level := 1, got := (lvOwn, me, own.1) :: k.got })

/-- Sends a list of legs of one chunk. -/
def State.sendLegs (s : State) (c : Comm) (me : Nat) (e : CollEntry) (m : Nat) (k : Nat) :
    List Send → CollRun → State × CollRun
  | [], r => (s, r)
  | x :: xs, r =>
    let y := s.sendLeg c me e m r k x
    y.1.sendLegs c me e m k xs y.2

/-- The rows of a chunk's positions, from this part and from the answers. -/
def State.gatherOut (s : State) (e : CollEntry) (n me : Nat) (k : Chunk) (idx : List Nat) : List Nat :=
  (List.range idx.length).flatMap fun j =>
    match (List.range n).find? fun m => (heldBy e.rpm m idx).contains j with
    | none => List.replicate e.rowb 0
    | some m =>
      if m = me then s.gatherRows e me [idx.getD j 0]
      else
        let at_ := ((heldBy e.rpm m idx).findIdx (· == j)) * e.rowb
        (((k.from_ 0 m).getD []).drop at_).take e.rowb

/-- Answers the requests of GATHER_BY_INDEX that have come for a chunk, each once. -/
def State.answerAsks (s : State) (c : Comm) (me : Nat) (e : CollEntry) (k : Chunk) (r : CollRun) : State × CollRun :=
  k.got.foldl
    (fun a g =>
      if g.1 = lvAsk ∧ (k.from_ 2 g.2.1).isNone then
        let rows := a.1.gatherRows e me g.2.2
        a.1.sendLeg c me (rowsEntry e) rows.length a.2 k.idx { dest := g.2.1, level := 0, vals := rows, down := false }
      else a) (s, r)

/-! ### Records of a training step (08 R214, R231; 09 R240, R241) -/

/-- The update records of an optimiser record, in ascending TID. -/
def State.urecs (s : State) (opt : Nat) : List Nat :=
  (List.range (s.recField opt 0x78 31 0)).map fun i => s.mem64 (opt + 0x70) + 128 * i

/-- The data-parallel position (08 R214). -/
def State.dataPos (s : State) : Nat :=
  let f := s.recField s.prog.plan 0
  s.recField s.prog.plan 8 31 16 / (f 20 16 * f 25 21 * f 7 0)

/-- Position of this part in the tensor cut (08 R214). -/
def State.tensorPos (s : State) : Nat := s.recField s.prog.plan 8 31 16 % s.recField s.prog.plan 0 20 16

/-! ### Weight shards (05 R158, R159; log entry 51) -/

/-- The update record whose compute copy lies at an address, while a step run is in progress. -/
def State.ccRecord (s : State) (base : Nat) : Option Nat :=
  if s.seqr.tag.isNone then none else (s.urecs s.seqr.optRec).find? fun r => s.mem64 (r + 0x30) == base

/-- Compute-copy format and owned elements of an update record. -/
def State.ccFmt (s : State) (r : Nat) : Nat := field (Bytes.readLe s.hbm.mem r 8) 22 18
def State.nown (s : State) (r : Nat) : Nat := Bytes.readLe s.hbm.mem (r + 0x08) 5

/-- Where a compute copy's Glint partial lies: behind its scale array, at the next multiple of 128. -/
def partialAt (f base n : Nat) : Nat := scaleAt f base n + (if isBlock f then alignUp (ceilDiv n 32) 128 else 0)

/-- The stored partial of the shard an entry sends, where it is a weight shard. -/
def State.shardPartial (s : State) (e : CollEntry) : Option (Nat × Nat) :=
  if e.type = 2 then
    (s.ccRecord e.src.toNat).map fun r =>
      (Bytes.readLe s.hbm.mem r 2, leNat (s.hbmRead (partialAt (s.ccFmt r) e.src.toNat (s.nown r)) 8))
  else none

/-- The bytes that carry the stored partial behind the last chunk of a gathered weight shard. -/
def State.carriedVals (s : State) (e : CollEntry) (n k : Nat) : List Nat :=
  if k + 1 = e.chunkCount n then
    match s.shardPartial e with
    | none => []
    | some p => (leBytes 8 p.2).map (·.toNat)
  else []

/-- A partial of a shard joins the carried sum of its tensor. -/
def State.addCarried (s : State) (tid part : Nat) : State :=
  let add (m : Sparse Nat) : Sparse Nat := Sparse.set 0 m tid ((Sparse.get 0 m tid + part) % ldP)
  { s with seqr := { s.seqr with carried := add s.seqr.carried }, recov := { s.recov with carried := add s.recov.carried } }

/-- One chunk of a moving type goes on. -/
def State.moveChunk (s : State) (c : Comm) (me : Nat) (e : CollEntry) (r : CollRun) (k : Chunk) : State × CollRun × Chunk :=
  let n := c.n
  let g := e.range n k.idx
  let own := (k.from_ lvOwn me).getD []
  let part := e.elems / e.shards n
  let m := g.2.2
  let s1 : State × CollRun :=
    if k.level = 1 then
      if e.type = 5 then
        (moveSends e n me g.1 own).foldl (fun a x => a.1.sendLeg c me (asksEntry e) x.vals.length a.2 k.idx x) (s, r)
      else s.sendLegs c me e m k.idx (moveSends e n me g.1 (own ++ s.carriedVals e n k.idx)) r
    else (s, r)
  let k1 := { k with level := 2 }
  let s2 := if e.type = 5 then s1.1.answerAsks c me e k1 s1.2 else s1
  let answered := k1.got.filterMap fun x => if x.1 = lvAsk ∧ (k1.from_ 2 x.2.1).isNone then some (2, x.2.1, []) else none
  let k2 := { k1 with got := k1.got ++ answered }
  let srcs := moveSources e n me g.1
  let here := srcs.all fun x => (k2.from_ 0 x).isSome && (e.type != 5 || (k2.from_ 2 x).isSome)
  if here && !k2.done then
    let s3 := s2.1
    let s3 := match e.type with
      | 2 =>
        let s := s3.deliverMoved e n (me * e.elems + g.2.1) m own
        srcs.foldl (fun s x => s.deliverMoved e n (x * e.elems + g.2.1) m ((k2.from_ 0 x).getD [])) s
      | 3 => if me = e.rootm then s3.deliverMoved e n g.2.1 m own
             else s3.deliverMoved e n g.2.1 m ((k2.from_ 0 e.rootm).getD [])
      | 4 =>
        if g.1 = me then
          let s := s3.deliverMoved e n (me * part + g.2.1) m own
          srcs.foldl (fun s x => s.deliverMoved e n (x * part + g.2.1) m ((k2.from_ 0 x).getD [])) s
        else s3
      | 5 => s3.deliver (e.dst.toNat + g.2.1 * e.rowb) ((s3.gatherOut e n me k2 own).map fun x => BitVec.ofNat 8 x)
      | _ => s3
    (s3, s2.2, { k2 with done := true })
  else (s2.1, s2.2, k2)

/-- One chunk of a reducing type or a barrier goes on. -/
def State.reduceChunk (s : State) (c : Comm) (me : Nat) (e : CollEntry) (r : CollRun) (k : Chunk) : State × CollRun × Chunk :=
  let g := e.range c.n k.idx
  let scatter := decide (e.type = 1)
  let root := if scatter then g.1 else 0
  let a := advanceReduce c e.op e.ofmt root me scatter k
  let x := s.sendLegs c me e g.2.2 k.idx a.sends r
  match a.result with
  | none => (x.1, x.2, a.chunk)
  | some v =>
    if k.done then (x.1, x.2, a.chunk)
    else
      let w := x.1.packAt e.ofmt e.dst.toNat g.2.1 v
      let s := if e.type = 6 then x.1 else (x.1.bufWrite e k.idx (e.legBytes g.2.2 v)).deliver w.1 w.2
      (s, x.2, a.chunk)

/-- Every tile of the part is stopped or has ended. -/
def State.tilesQuiet (s : State) : Bool := s.tiles.all fun c => !c.2.seq.run.live

/-- Routers finish what is in progress and start no new leg once a stop is in force (11 R300, R302). -/
def State.routerHeld (s : State) : Bool :=
  s.ag.drain || s.prog.stopped || (match s.ag.stop with | none => false | some n => n.pre && s.tilesQuiet)

/-- A chunk that is started goes on; one that is done does nothing. -/
def State.pumpChunk (s : State) (c : Comm) (me : Nat) (e : CollEntry) (r : CollRun) (k : Chunk) : State × CollRun × Chunk :=
  if k.done ∨ k.level = 0 then (s, r, k)
  else if e.reduces || e.type == 6 then s.reduceChunk c me e r k
  else s.moveChunk c me e r k

/-- A chunk is in flight from its start until it is done here and every leg of it that this part sent is confirmed (11 R315). -/
def CollRun.inFlight (r : CollRun) (k : Chunk) : Bool :=
  k.level != 0 && (!k.done || r.kept.any fun x => x.2.chunk.toNat == k.idx)

/-- All chunks of a run in ascending index: those started go on, and new ones start while fewer than INFL are in flight. -/
def State.pumpChunks (s : State) (c : Comm) (me : Nat) (e : CollEntry) : Nat → CollRun → List Chunk → State × CollRun × List Chunk
  | _, r, [] => (s, r, [])
  | fly, r, k :: ks =>
    let start := decide (k.level = 0) && decide (fly < e.infl)
    let s1 := if start then s.startChunk e c.n me k else (s, k)
    let s2 := s1.1.pumpChunk c me e r s1.2
    let fly := if s2.2.1.inFlight s2.2.2 then fly + 1 else fly
    let s3 := s2.1.pumpChunks c me e fly s2.2.1 ks
    (s3.1, s3.2.1, s2.2.2 :: s3.2.2)

/-- A run goes on as far as it can now; one that a third CRC mismatch has ended waits for the recovery (11 R316). -/
def State.pumpRun (s : State) (r : CollRun) : State × CollRun :=
  if r.again.isEmpty = false then (s, r)
  else match s.coll.entries[r.entry]? with
  | none => (s, r)
  | some e =>
    match s.coll.comms[e.comm]? with
    | none => (s, r)
    | some c =>
      match s.memberIndex c with
      | none => (s, { r with chunks := r.chunks.map fun k => { k with done := true } })
      | some me =>
        let x := s.pumpChunks c me e 0 r r.chunks
        (x.1, { x.2.1 with chunks := x.2.2 })

/-! ### Epochs and order (11 R310, R311) -/

/-- Element k of the order table: entry and DORD. -/
def State.orderAt (s : State) (k : Nat) : Option (Nat × Nat) :=
  (s.coll.order[k]?).map fun w => (field w.toNat 11 0, field w.toNat 31 12)

/-- The collective epoch of an order position in the current round. -/
def State.epochOf (s : State) (dord : Nat) : W64 := s.coll.round * 2 ^ 20 + BitVec.ofNat 64 dord

/-- The order position a leg's epoch belongs to: the router expects it in the current round. -/
def State.orderOf (s : State) (entry : Nat) (epoch : W64) : Option Nat :=
  (List.range s.coll.order.length).find? fun k =>
    match s.orderAt k with
    | none => false
    | some o => o.1 == entry && s.epochOf o.2 == epoch

/-- A run has been launched on this part. -/
def State.launched (s : State) (r : CollRun) : Bool :=
  match s.orderOf r.entry r.epoch with
  | none => false
  | some k => decide (k < s.coll.pos)

/-- A new run, its chunks not started. -/
def State.newRun (s : State) (entry : Nat) (epoch : W64) : CollRun :=
  let n := match s.coll.entries[entry]? with
    | none => 0
    | some e => match s.coll.comms[e.comm]? with | none => 0 | some c => e.chunkCount c.n
  { entry := entry, epoch := epoch, chunks := (List.range n).map fun i => { idx := i, level := 0, value := [], got := [], done := false },
    kept := [], clock := 0, mism := [], lost := false, again := [] }

/-- The run of an entry and epoch, made when it is not there yet. -/
def State.runOf (s : State) (entry : Nat) (epoch : W64) : CollRun :=
  (s.coll.runs.find? fun r => r.entry == entry && r.epoch == epoch).getD (s.newRun entry epoch)

/-- Puts a run in place. -/
def State.setRun (s : State) (r : CollRun) : State :=
  let same (x : CollRun) : Bool := x.entry == r.entry && x.epoch == r.epoch
  let runs := if s.coll.runs.any same then s.coll.runs.map fun x => if same x then r else x else s.coll.runs ++ [r]
  { s with coll := { s.coll with runs := runs } }

/-- This member's part is complete: every chunk done and every leg confirmed. -/
def CollRun.complete (r : CollRun) : Bool := r.chunks.all (·.done) && r.kept.isEmpty && r.again.isEmpty

end Sys2Proof.Machine
end

