-- ==== Sys2Proof/Machine/Signals.lean ====
section
/-!
DEFINITION. Signal flags (04 R128, 12 R339): an update lands, the step advance it makes (08 R238), the collectives it triggers
(11 R310, R311) and what the router then does, up to the DFLAGs of the parts of collectives that complete.
-/

namespace Sys2Proof.Machine

/-! ### Running programs -/

/-- A program runs: from the launch count to its final completion, not while pre-empted (16 R431). -/
def State.programRuns (s : State) : Bool := decide (s.gbl.prog = 2)

/-- STEPCTL of the loaded program (04 R106). -/
def State.stepctl (s : State) : Nat := Bytes.readLe s.prog.header 0x0A0 2

/-- The four purpose-0x01 words of block 0 of the data-order tensor ID for a token's sampling (05 R163; which words a token takes is its
program's: log entry 129). -/
def State.tokenDraws (s : State) (step : W64) : List Nat := (List.range 4).map fun (n : Nat) => crgWord s.prog.seed step 0xFFFF 1 n

/-- The step counter follows the step flag of a program started by LAUNCH_AT, and the step sequencer draws the words of the token's sampling (08 R238). -/
def State.stepAdvance (s : State) (i : Nat) : State :=
  if s.programRuns && bitAt s.stepctl 15 && decide (i = field s.stepctl 7 0) then
    let step := s.prog.s0 + (s.flag i - s.prog.f0)
    { s with gbl := { s.gbl with step := step }, seqr := { s.seqr with draws := s.tokenDraws step } }
  else s

/-- The changes of flags that a tile may not have observed yet: those of the last 32 counts, which is more than 28 cycles at
either clock (04 R129). -/
def State.flagHistory (s : State) (i : Nat) : List (Nat × Nat × W64) :=
  (s.tb.count, i, s.flag i) :: s.q.flagLog.filter fun e => decide (s.tb.count < e.1 + 32)

/-- Attempts that the order table leaves room for: one past its end is refused and ends the program. -/
def State.dueLimit (s : State) : Nat := s.coll.order.length + 1 - s.coll.due.length

/-- How often an entry's threshold has been reached beyond the attempts that wait, at most n times. -/
def reachedTimes (n thr tinc pend v : Nat) : Nat :=
  if v < thr + tinc * pend then 0 else Nat.min n ((v - (thr + tinc * pend)) / Nat.max 1 tinc + 1)

/-- The entry that a flag triggers waits for an attempt for every threshold that the flag has reached (11 R310; log entry 21). -/
def State.noteDue (s : State) (i : Nat) : State :=
  match (List.range s.coll.entries.length).find? fun e => (s.coll.entries[e]?.map fun (x : CollEntry) => x.tflag) == some i with
  | none => s
  | some e =>
    let tinc := match s.coll.entries[e]? with | none => 1 | some x => x.tinc
    let n := reachedTimes s.dueLimit (Sparse.get 0 s.coll.thr e) tinc (s.coll.due.filter (· == e)).length (s.flag i).toNat
    { s with coll := { s.coll with due := s.coll.due ++ List.replicate n e } }

/-- A flag takes a value, the entry that it triggers is noted, and the step counter follows it where it does. -/
def State.putFlag (s : State) (i : Nat) (v : W64) : State :=
  (({ s with q := { s.q with flag := Sparse.set 0 s.q.flag i v, flagLog := s.flagHistory i } }).noteDue i).stepAdvance i

/-! ### Triggers (11 R310, R311; log entry 21) -/

/-- Launches are attempted: a program runs, no pause holds it (11 R319), and no stop that ends it is announced. -/
def State.mayLaunch (s : State) : Bool :=
  s.programRuns && !s.gbl.paused && !s.prog.stopped && (match s.ag.stop with | none => true | some n => n.pre)

/-- Layers with a STEP-class block that is reported or under replay (08 R235). -/
def State.pendingLayers (s : State) : List Nat :=
  s.seqr.reports.map (·.layer)
    ++ (match s.seqr.replaying with | none => [] | some l => if s.seqr.sectRun == some 1 && !s.tilesQuiet then [l] else [])

/-- A layer's quantisation, reduce-scatters and preconditioning wait for its last pending block (08 R235). -/
def State.layerHeld (s : State) (l : Nat) : Bool := s.pendingLayers.contains l

/-- The layer of a reduce-scatter: that of the quantised gradient or of the local statistics that it reduces (09 R241, 06 R184). -/
def State.entryLayer (s : State) (x : CollEntry) : Option Nat :=
  if x.type = 1 then
    match (s.urecs s.seqr.optRec).find? fun r => s.mem64 (r + 0x48) == x.src.toNat with
    | some r => some (s.layerOf (s.recField r 0 15 0))
    | none => (s.seqr.names.curv.find? fun r => s.mem64 (r + 0x30) == x.src.toNat).map fun r => s.recField r 0 15 0
  else none

/-- An entry is a reduce-scatter of a layer with a pending block. -/
def State.entryHeld (s : State) (e : Nat) : Bool :=
  match s.coll.entries[e]? with
  | none => false
  | some x => match s.entryLayer x with | none => false | some l => s.layerHeld l

/-- Entries of the order table from the position on, up to and with the first that names e. -/
def upToEntry (e : Nat) : List (BitVec 32) → List Nat
  | [] => []
  | w :: l => field w.toNat 11 0 :: (if field w.toNat 11 0 = e then [] else upToEntry e l)

/-- A pending block holds its layer's reduce-scatters and every later collective of the order table (08 R235; log entry 54). -/
def State.mayAttempt (s : State) (e : Nat) : Bool :=
  s.pendingLayers.isEmpty || (upToEntry e (s.coll.order.drop s.coll.pos)).all fun k => !s.entryHeld k

/-- The next attempt: of the entries whose flags have reached their thresholds, the first in that order that may be attempted. -/
def State.triggered (s : State) : Option Nat :=
  if s.mayLaunch then
    s.coll.due.find? fun e =>
      match s.coll.entries[e]? with
      | none => false
      | some _ => s.mayAttempt e
  else none

/-- An attempt to launch an entry: the threshold rises; it is accepted only when it is next in the order table, and refused
with ORDER_FAULT otherwise (details: entry, position, entry expected; log entry 28). -/
def State.attempt (s : State) (e : Nat) : State :=
  let tinc := match s.coll.entries[e]? with | none => 1 | some x => x.tinc
  let s := { s with coll := { s.coll with thr := Sparse.set 0 s.coll.thr e (Sparse.get 0 s.coll.thr e + tinc), due := s.coll.due.erase e } }
  let refuse (want : Nat) : State :=
    { s with coll := { s.coll with refused := true } }.stopPart { status := stOrder, sev := 2, src := srcRouter, unit := 0, tag := s.prog.tag, detail := [e, s.coll.pos, want] }
  match s.orderAt s.coll.pos with
  | none => refuse 0xFFFFFFFF
  | some o =>
    if o.1 = e then
      let r := s.runOf e (s.epochOf o.2)
      let s := { s with coll := { s.coll with pos := s.coll.pos + 1 } }
      s.setRun { r with clock := 0 }
    else refuse o.1

/-! ### The router goes on -/

/-- Every launched run goes on as far as it can. -/
def State.pumpRuns (s : State) : List CollRun → State
  | [] => s
  | r :: rs =>
    let s := if s.launched r then
        let x := s.pumpRun r
        x.1.setRun x.2
      else s
    s.pumpRuns rs

/-- Runs whose part here is complete. -/
def State.completeRuns (s : State) : List CollRun := s.coll.runs.filter fun r => s.launched r && r.complete

/-! ### The squared norm and the digests of results (05 R156, 09 R244–R246) -/

/-- Squared norm of the tensor of an update record: of the reduce-scatter that delivers at GRAD_BASE. -/
def State.tensorNorm (s : State) (r : Nat) : Nat :=
  let grad := s.mem64 (r + 0x20)
  match (List.range s.coll.entries.length).find? fun i =>
      (match s.coll.entries[i]? with | none => false | some e => e.type == 1 && e.dst.toNat == grad) with
  | none => 0
  | some i => Sparse.get 0 s.seqr.sqn i

/-- The part's squared norm, ascending TID; a replicated tensor counts on tensor position 0 only. -/
def State.partNorm (s : State) : Nat :=
  (s.urecs s.seqr.optRec).foldl
    (fun a r => if s.recField r 0 17 17 = 1 ∧ s.tensorPos ≠ 0 then a else (fpAdd true fmtFP64 a (s.tensorNorm r)).1) 0

/-- An entry of the order table is a reduce-scatter. -/
def State.scatters (s : State) (w : BitVec 32) : Bool :=
  match s.coll.entries[field w.toNat 11 0]? with | none => false | some e => e.type == 1

/-- Every reduce-scatter of the step has completed here. -/
def State.scattersDone (s : State) : Bool :=
  (s.coll.order.drop s.coll.pos).all (fun w => !s.scatters w)
    && s.coll.runs.all fun r => match s.coll.entries[r.entry]? with | none => true | some e => e.type != 1

/-- The single result that a collective with FP32 partials delivers here, in ascending chunk order: its Glint partial at the indices it
has in the whole result, a shard's from its first element on, and its words (05 R156, R157). -/
def State.runResult (s : State) (r : CollRun) (e : CollEntry) : Nat × Nat :=
  let vals := (List.range r.chunks.length).flatMap fun i => (r.chunks.filter fun k => k.idx == i).flatMap (·.value)
  let me := ((s.coll.comms[e.comm]?).bind fun c => s.memberIndex c).getD 0
  (ldPartial (if e.type = 1 then me * vals.length else 0) vals, vals.length)

/-- In a step run a completed reduction leaves its result's digest, and a reduce-scatter its squared norm; the last of the step's
reduce-scatters gives the part's squared norm to the all-reduce of R246. -/
def State.noteResult (s : State) (r : CollRun) (e : CollEntry) : State :=
  if s.seqr.tag.isSome ∧ e.reduces ∧ e.ofmt = fmtFP32 then
    let d := s.runResult r e
    let at_ := e.dst.toNat
    let s := { s with seqr := { s.seqr with results := s.seqr.results.filter (·.1 != at_) ++ [(at_, d.1, d.2)] } }
    if e.type = 1 then
      let sq := r.chunks.foldl (fun a k => (fpAdd true fmtFP64 a (squareSum k.value)).1) 0
      let s := { s with seqr := { s.seqr with sqn := Sparse.set 0 s.seqr.sqn r.entry sq } }
      if s.scattersDone then s.emit (.norm s.partNorm) else s
    else s
  else s

/-- A run completes: what its results leave is kept, and the carried partial of an own shard, one that had lost a link carries
LINK_FAILOVER (11 R318), DFLAG rises by 1, and it leaves. -/
def State.finishRun (s : State) (r : CollRun) : State :=
  let same (x : CollRun) : Bool := x.entry == r.entry && x.epoch == r.epoch
  let s := { s with coll := { s.coll with runs := s.coll.runs.filter fun x => !same x } }
  match s.coll.entries[r.entry]? with
  | none => s
  | some e =>
    let s := s.noteResult r e
    let s := match s.shardPartial e with
      | none => s
      | some p => s.addCarried p.1 p.2
    let s := if r.lost then s.addStatus stLink else s
    s.putFlag e.dflag (s.flag e.dflag + 1)

/-- Launches, legs and completions until nothing more follows. -/
def State.router : Nat → State → State
  | 0, s => s
  | n + 1, s =>
    match s.triggered with
    | some e => State.router n (s.attempt e)
    | none =>
      let s := if s.routerHeld then s else s.pumpRuns s.coll.runs
      match s.completeRuns with
      | [] => s
      | rs => State.router n (rs.foldl State.finishRun s)

/-- Steps the router can take: each launch moves on in the order table, each completion ends a run. -/
def State.routerFuel (s : State) : Nat := 2 * s.coll.order.length + s.coll.runs.length + 2

/-- The router takes up what has changed. -/
def State.settleRouter (s : State) : State := State.router s.routerFuel s

/-- An update of a flag lands. -/
def State.landFlag (s : State) (i : Nat) (v : W64) : State := (s.putFlag i v).settleRouter

/-! ### Commands -/

/-- The oldest update of a tile on its way to die 0. -/
def State.landTile (s : State) (t : Nat) : State :=
  match s.q.landing.find? fun x => x.1 == t with
  | none => s
  | some x =>
    let s := { s with q := { s.q with landing := s.q.landing.eraseP fun y => y.1 == t } }
    let imm : W64 := x.2.2.2.setWidth 64
    s.landFlag x.2.1 (if x.2.2.1 then s.flag x.2.1 + imm else imm)

/-- The tile updates of one cycle land in ascending tile order (04 R128). -/
def execSignalLanding (ts : List Nat) (s : State) : Host.Outcome State Fault Refusal :=
  ok (((List.range 1024).filter fun t => ts.contains t).foldl State.landTile s)

/-- A host write of Q_FLAG[i] sets the flag (12 R339). -/
def execQFlagWrite (i : Nat) (v : W64) (s : State) : Host.Outcome State Fault Refusal :=
  if s.ready = true ∧ i < 256 then ok (s.landFlag i v) else ok s

/-- A write of Q_FLAG_ADD[i] adds to the flag modulo 2^64. -/
def execQFlagAdd (i : Nat) (v : W64) (s : State) : Host.Outcome State Fault Refusal :=
  if s.ready = true ∧ i < 256 then ok (s.landFlag i (s.flag i + v)) else ok s

end Sys2Proof.Machine
end

