-- ==== Sys2Proof/Machine/Router.lean ====
section
/-!
DEFINITION. Router deliveries (05 R148, R149), late-arrival records (R150, R151), and the record rings in HBM that they, the
digest log and the provenance records use (16 R440).
-/

namespace Sys2Proof.Machine

/-- Appends an entry of n bytes to a ring in HBM: when it is full the oldest entry is overwritten and counted. -/
def State.appendRing (s : State) (r : LogRing) (n : Nat) (bs : List Byte) : State × LogRing :=
  (s.hbmWrite (r.base.toNat + n * (r.head % r.size)) bs,
   { r with head := r.head + 1, lost := if r.size ≤ r.head then satAdd 32 r.lost 1 else r.lost })

/-- Counts a lateness takes in a record: 32 bits, saturating (05 R151). -/
def lateDelay (n : Nat) : Nat := Nat.min n (2 ^ 32 - 1)

/-- Writes a late-arrival record: scheduled count, counts late, epoch, source, retries, chunk, tile. -/
def State.lateRecord (s : State) (sched delay epoch src retry chunk tile : Nat) : State :=
  let bs := leBytes 8 s.gbl.step.toNat ++ leBytes 8 sched ++ leBytes 4 (lateDelay delay) ++ leBytes 4 epoch ++ leBytes 1 src
    ++ leBytes 1 (Nat.min retry 255) ++ leBytes 2 chunk ++ leBytes 2 tile ++ leBytes 2 0
  let r := s.appendRing s.dg.late 32 bs
  { r.1 with dg := { r.1.dg with late := r.2 } }

/-- The tile a router delivery reaches first: the lowest one. -/
def Delivery.tile (d : Delivery) : Nat := if isTileLinear d.addr then d.addr % 2 ^ 63 / 2 ^ 20 else 0

/-- The tile a late record names when no tile stalls: for an index engine's delivery the one that issued its command (05 R151). -/
def State.deliveryTile (s : State) (d : Delivery) : Nat :=
  let src := d.src.toNat
  if 0x40 ≤ src ∧ src < 0x60 then (s.ixe (src - 0x40)).tile else Delivery.tile d

/-- A range without the n bytes at a. -/
def subRange (a n : Nat) (w : Nat × Nat) : List (Nat × Nat) :=
  let hi := Nat.max w.1 (a + n)
  [(w.1, Nat.min (w.1 + w.2) a - w.1), (hi, w.1 + w.2 - hi)].filter fun r => decide (0 < r.2)

/-- Bytes that a recovery fetch waits for have come (14 R383). -/
def State.fetched (s : State) (a n : Nat) : State :=
  { s with recov := { s.recov with want := s.recov.want.flatMap (subRange a n) } }

/-- A delivery of the router: the data are written, and a late one is recorded, unless the part re-executes what it had
recorded before (14 R384). -/
def execRouterDelivery (d : Delivery) (s : State) : Host.Outcome State Fault Refusal :=
  let s1 := (s.deliver d.addr d.data).fetched d.addr d.data.length
  if d.at_ ≤ d.sched ∨ s.reexecuting (s.deliveryTile d) then ok s1
  else
    ok (s1.lateRecord d.sched (d.at_ - d.sched) (d.epoch.toNat % 2 ^ 32) d.src.toNat d.retry d.chunk
      (d.stallTile.getD (s.deliveryTile d)))

end Sys2Proof.Machine
end

