-- ==== Sys2Proof/Machine/TimeBase.lean ====
section
/-!
DEFINITION. The global counter and its synchronisation (11 R288–R295, R320, R321; 16 R435): counts, time transfer, holdover,
PPS and TIME_10M discipline, and the writes of TB_CTRL, TB_LEAD and TB_COLL_TMO.
-/

namespace Sys2Proof.Machine

/-! ### Registers of the time base -/

def State.tbRootv (s : State) : Bool := s.tb.ctrl.getLsbD 17
def State.tbRoot (s : State) : Nat := field s.tb.ctrl.toNat 12 0
def State.tbDisc (s : State) : Bool := s.tb.ctrl.getLsbD 18

/-- This part is the time root. -/
def State.isRoot (s : State) : Bool := s.tbRootv && s.tbRoot == s.partNo

/-- The root is disciplined to TIME_10M and TIME_PPS (11 R295). -/
def State.disciplined (s : State) : Bool := s.isRoot && s.tbDisc

/-! ### The counter (11 R288) -/

/-- A class waits for a tag: a ring has pending descriptors that only want of a tag keeps from being fetched (12 R338). -/
def State.tagsUsed (s : State) : Nat := s.q.ops.length

/-- Reserved tags 0–63 in use. -/
def State.reservedUsed (s : State) : Nat := (s.q.ops.filter fun o => decide (o.1 < 64)).length

def WorkRing.enabled (w : WorkRing) : Bool := w.cfg.getLsbD 0
def WorkRing.cls (w : WorkRing) : Nat := field w.cfg.toNat 17 16
def WorkRing.snoop (w : WorkRing) : Bool := w.cfg.getLsbD 34
def WorkRing.entries (w : WorkRing) : Nat := 2 ^ field w.cfg.toNat 27 24
def WorkRing.cring (w : WorkRing) : Nat := field w.cfg.toNat 47 41

/-- HALTED, the ring fetches nothing: CFGERR while ENABLE is 0, DBERR, WCYC, XFAULT (16 R434; log entry 113). -/
def WorkRing.halted (w : WorkRing) : Bool := (w.cfgErr && !w.enabled) || w.dbErr || w.wcyc || w.xfault

/-- Descriptors wait in an enabled ring that is not halted (12 R337). One that a WAIT holds fetches on: R340 keeps its later
descriptors from starting. One whose page request is out waits for the answer (R342). -/
def WorkRing.ready (w : WorkRing) : Bool := w.enabled && !w.halted && w.faultAt.isNone && decide (w.head < w.prod)

/-- The class can obtain a tag (12 R338). -/
def State.tagFor (s : State) (cls : Nat) : Option Nat :=
  let free (lo n : Nat) : Option Nat := ((List.range n).map (lo + ·)).find? fun k => decide (s.op k = none)
  if cls = 0 then (match free 0 64 with | some k => some k | none => free 64 4032) else free 64 4032

def State.tagWaits (s : State) : Bool :=
  (List.range 4).any fun c =>
    (s.q.work.any fun w => w.2.ready && w.2.cls == c) && decide (s.tagFor c = none)

/-- A port whose retry episode or lane remap suspends the progress clocks of collectives that use it (11 R317). -/
def Port.busy (p : Port) : Bool := p.epi.isSome || p.remap

/-- The progress clock of a collective runs: no recovery before its catch-up point, and no port it uses is busy
(11 R317, 14 R386). -/
def State.clockRuns (s : State) (r : CollRun) : Bool :=
  !s.recov.active && !((List.range 32).any fun n => (s.port n).busy && s.runUses r s.partNo n)

/-- One count: TB_COUNT, unless it is held for a root that lies behind (R293); Q_TAGSTALL; progress clocks. -/
def execCountTick (s : State) : Host.Outcome State Fault Refusal :=
  if s.pwr.sysclk = false then ok s
  else
    let runs := s.coll.runs.map fun r => if s.clockRuns r then { r with clock := r.clock + 1 } else r
    let tag := if s.tagWaits then (s.q.tagStall + 1) % 2 ^ 64 else s.q.tagStall
    let s := { s with coll := { s.coll with runs := runs }, q := { s.q with tagStall := tag } }
    match s.tb.holdTo with
    | some (n + 1) => ok { s with tb := { s.tb with holdTo := if n = 0 then none else some n } }
    | _ => ok { s with tb := { s.tb with count := s.tb.count + 1, holdTo := none } }

/-! ### Time transfer (11 R290, R292, R293) -/

/-- The port toward the parent: the part before this one on the route from the root, failed links avoided. -/
def State.parentPort (s : State) : Option Nat :=
  if s.tbRootv && s.tbRoot != s.partNo then
    match (s.routeOf s.tbRoot s.partNo).getLast? with
    | none => none
    | some h => (wiredPeer h.1 h.2).map (·.2)
  else none

/-- The child sends its stamped flit. -/
def execTimeTransferExchange (t1 : Int) (s : State) : Host.Outcome State Fault Refusal :=
  match s.parentPort with
  | none => ok s
  | some n =>
    if (s.port n).state.works then
      let s := s.setPort n ((s.port n).queue (controlFlit (s.port n).peerPart.toNat [7]))
      ok ({ s with tb := { s.tb with xch := some (n, t1) } }.emit (.timeReq n t1))
    else ok s

/-- A parent that is LOCKED or in HOLDOVER answers, unless its own port has a retry episode or a remap in progress: that exchange is
discarded (R290). -/
def execTimeTransferRequest (port : Nat) (t2 t3 : Int) (s : State) : Host.Outcome State Fault Refusal :=
  if port < 32 ∧ (s.port port).state.works = true ∧ (s.tb.state = .locked ∨ s.tb.state = .holdover) ∧ (s.port port).busy = false then
    ok ((s.setPort port ((s.port port).queue (controlFlit (s.port port).peerPart.toNat [8]))).emit (.timeRep port t2 t3))
  else ok s

/-- An episode or remap was in progress during the exchange that left at t1 (in 2^−8 counts): one is now, or the last one ended
since. -/
def Port.disturbed (p : Port) (t1 : Int) : Bool :=
  p.busy || (match p.busyTo with | none => false | some t => decide (t1 ≤ (t : Int) * 256))

/-- The most a servo removes per exchange: 2 counts. -/
def slewLimit : Int := 512

/-- The steering after an offset: the offset, at most 2 counts either way. -/
def clampSlew (o : Int) : Int := if o < -slewLimit then -slewLimit else if slewLimit < o then slewLimit else o

/-- Offset of an exchange (R290), halves rounded down (log entry 24). -/
def xchOffset (t1 t2 t3 t4 asym : Int) : Int := ((t2 - t1) - (t4 - t3)) / 2 + asym

/-- One-way delay of an exchange (R290), halves rounded down (log entry 24). -/
def xchDelay (t1 t2 t3 t4 : Int) : Int := ((t2 - t1) + (t4 - t3)) / 2

/-- The child's reply: offset, steering, the one step of the first accepted exchange, LOCKED after 16 exchanges within one
count. -/
def execTimeTransferReply (port : Nat) (t2 t3 t4 : Int) (rootCount : Nat) (s : State) : Host.Outcome State Fault Refusal :=
  match s.tb.xch with
  | none => ok s
  | some x =>
    let t := { s.tb with xch := none }
    if x.1 ≠ port ∨ (s.port port).disturbed x.2 = true then ok { s with tb := t }
    else
      let off := xchOffset x.2 t2 t3 t4 (Sparse.get 0 s.tb.asym port).toInt
      let t := { t with offset := off, delay := xchDelay x.2 t2 t3 t4, lastXch := t.count,
                        depth := (s.routeOf s.tbRoot s.partNo).length }
      match t.state with
      | .unlocked =>
        let t := if t.count ≤ rootCount then { t with count := rootCount }
          else { t with holdTo := some (t.count - rootCount) }
        ok { s with tb := { t with state := .locking, good := 0 } }
      | _ =>
        let good := if -256 ≤ off ∧ off ≤ 256 then t.good + 1 else 0
        let st := if 16 ≤ good then .locked else t.state
        ok { s with tb := { t with slew := clampSlew off, good := good, state := st } }

/-- No accepted exchange for tHOLD: HOLDOVER, with the last rate. -/
def execHoldoverEntry (s : State) : Host.Outcome State Fault Refusal :=
  if s.isRoot then ok s
  else match s.tb.state with
    | .locking => ok { s with tb := { s.tb with state := .holdover, good := 0 } }
    | .locked => ok { s with tb := { s.tb with state := .holdover, good := 0 } }
    | _ => ok s

/-! ### Discipline of the root (11 R295) -/

/-- Counts of one second. -/
def secondCounts : Nat := 1000000000

/-- A PPS edge: the alignment step of a root from boot, once; afterwards and on a later root, steering alone. -/
def execTimePpsEdge (s : State) : Host.Outcome State Fault Refusal :=
  if s.disciplined then
    if s.tb.bootRoot && !s.tb.aligned && decide (s.tb.state = .unlocked) then
      let c := alignUp s.tb.count secondCounts
      ok { s with tb := { s.tb with count := c, state := .locked, aligned := true, ppsLost := false, lastPps := c } }
    else
      let r := s.tb.count % secondCounts
      let err : Int := if 2 * r ≤ secondCounts then -(r : Int) else (secondCounts : Int) - r
      ok { s with tb := { s.tb with slew := clampSlew (256 * err), ppsLost := false, lastPps := s.tb.count } }
  else ok s

def execPpsLost (s : State) : Host.Outcome State Fault Refusal :=
  if s.disciplined then ok { s with tb := { s.tb with ppsLost := true } } else ok s

def execRefLost (s : State) : Host.Outcome State Fault Refusal :=
  if s.isRoot then ok { s with tb := { s.tb with refLost := true, refRate := false } } else ok s

/-- An edge on TIME_10M: a disciplined root steers its rate to it. -/
def execTime10mEdge (s : State) : Host.Outcome State Fault Refusal :=
  if s.disciplined then ok { s with tb := { s.tb with refRate := true, refLost := false } } else ok s

/-! ### Register writes -/

/-- GBL_STATUS.PROG is 0 or 1: registers of R428 accept writes. -/
def State.noProgram (s : State) : Bool := decide (s.gbl.prog.toNat < 2)

/-- A write that is ignored and logged with SEV 0, naming an offset (16 R425, R428; log entry 25). -/
def State.logIgnored (s : State) (offset : Nat) : State :=
  s.logCause { status := stOk, sev := 0, src := srcLantern, unit := 0, tag := none, detail := [offset] }

/-- TB_CTRL takes a value: ROOT, ROOTV and DISC. A part that becomes root is LOCKED at once and keeps its count; the root
from boot with discipline stays UNLOCKED until its first PPS edge, also when TB_CTRL is written again before it (11 R293–R295). -/
def State.setTbCtrl (s : State) (v : W64) (boot : Bool) : State :=
  let c : W64 := v &&& 0x0000000000061FFF#64
  let s' := { s with tb := { s.tb with ctrl := c, xch := none, good := 0 } }
  if s'.isRoot then
    let first := boot || s.tb.bootRoot
    let waits := first && s'.tbDisc && (boot || (s.isRoot && decide (s.tb.state = .unlocked)))
    { s' with tb := { s'.tb with bootRoot := first, state := if waits then .unlocked else .locked, depth := 0 } }
  else { s' with tb := { s'.tb with bootRoot := false } }

def execTbCtrlWrite (v : BitVec 64) (s : State) : Host.Outcome State Fault Refusal :=
  if s.ready = false then ok s
  else if s.noProgram then ok (s.setTbCtrl v false) else ok (s.logIgnored 0x040008)

/-- TB_LEAD: 1,000 to 100,000. -/
def clampLead (v : Nat) : Nat := if v < 1000 then 1000 else if 100000 < v then 100000 else v

def execTbLeadWrite (v : BitVec 64) (s : State) : Host.Outcome State Fault Refusal :=
  if s.ready = false then ok s else ok { s with tb := { s.tb with lead := clampLead v.toNat } }

/-- TB_COLL_TMO: at least 160,000 (11 R317). -/
def execTbCollTmoWrite (v : BitVec 64) (s : State) : Host.Outcome State Fault Refusal :=
  if s.ready = false then ok s else ok { s with tb := { s.tb with tmo := Nat.max 160000 v.toNat } }

end Sys2Proof.Machine
end

