-- ==== Sys2Proof/Machine/Agree.lean ====
section
/-!
DEFINITION. Agreed counts (11 R296–R302): READY, GO and CANCEL of a launch, coordinated pauses and stops, what happens when
each count falls, and the router's drain.
-/

namespace Sys2Proof.Machine

/-! ### Sections (04 R109, R139) -/

/-- Entry bundle of a section of the loaded program; 0xFFFF: unused. -/
def State.sectionEntry (s : State) (q : BitVec 3) : Nat := Bytes.readLe s.prog.header (0x050 + 2 * q.toNat) 2

/-- A tile runs code of the loaded program. -/
def State.hasImage (s : State) (t : Nat) : Bool := Bytes.readLe s.prog.header (0x100 + 8 * t) 8 != 0

/-- Tiles that run code. -/
def State.imageTiles (s : State) : List Nat := (List.range 1024).filter s.hasImage

/-- A sequencer starts a section: its bundle address is the entry, no loop runs. A launch sets the program cycle to 0. -/
def TileSeq.startAt (q : TileSeq) (sect : BitVec 3) (entry : Nat) (launch : Bool) : TileSeq :=
  { q with run := .running, sect := sect, bundle := entry, loops := [], skip := 0, wait := none, need := none,
           ldc := none, cycle := if launch then 0 else q.cycle, shift := 0, lag := if launch then 0 else q.lag, origin := if launch then 0 else q.cycle, land := 0 }

/-- Lines that an earlier section left on a tile's links are there. -/
def Tile.linesThere (x : Tile) : Tile :=
  { x with links := Sparse.mapVals [] (fun _ l => l.map fun e => { e with sent := 0, arr := 0 }) x.links }

/-- Starts a section on every tile that runs code; its accesses are assigned anew. -/
def State.startSection (s : State) (sect : BitVec 3) (launch : Bool) : State :=
  let entry := s.sectionEntry sect
  if entry = 0xFFFF then s
  else
    let go (s : State) (t : Nat) : State :=
      let x := (s.tile t).linesThere
      s.setTile t { x with seq := x.seq.startAt sect entry launch, port := if launch then [] else x.port, stopAt := none }
    let s := s.imageTiles.foldl go s
    let again (a : Access) : Access :=
      if a.sect = sect.toNat then { a with state := .assigned, data := [], fails := 0 } else a
    { s with hbm := { s.hbm with plan := s.hbm.plan.map again } }

/-! ### READY, GO and CANCEL (11 R298, 05 R144) -/

/-- The coordinator of a launch: the part of logical rank 0; this part alone when no rank map is loaded (log entry 29). -/
def State.launchCoordinator (s : State) : Nat := (s.partOf 0).getD s.partNo

def State.coordinates (s : State) : Bool := s.launchCoordinator == s.partNo

/-- Parts of the rank map; this part when it is empty. -/
def State.launchParts (s : State) : List Nat :=
  let ps := ((s.coll.rankMap.map (·.2)).filter (· != 0xFFFF)).eraseDups
  if ps.isEmpty then [s.partNo] else ps

/-- The lowest part at each clock, lower clock first. -/
def clocksFound (ready : List (Nat × Nat)) : List (Nat × Nat) :=
  let clks := (ready.map (·.2)).eraseDups
  let least (c : Nat) : Nat × Nat :=
    (((ready.filter fun r => r.2 == c).map (·.1)).foldl Nat.min 0xFFFF, c)
  let ins (x : Nat × Nat) (l : List (Nat × Nat)) : List (Nat × Nat) :=
    (l.filter fun y => decide (y.2 < x.2)) ++ [x] ++ (l.filter fun y => !decide (y.2 < x.2))
  (clks.map least).foldr ins []

/-- The waiting launch is cancelled: TIMEOUT, or PROGRAM_INVALID with a record of the lowest part at each clock. -/
def State.cancelLaunch (s : State) (clocks : List (Nat × Nat)) : State :=
  match s.ag.launch with
  | none => s
  | some l =>
    let s := { s with ag := { s.ag with launch := none, ready := [] } }
    if clocks.isEmpty then s.endEarly l.tag [stTimeout]
    else
      let s := s.logCause { status := stInvalid, sev := 2, src := srcRouter, unit := 0, tag := some l.tag,
                            detail := clocks.map (·.1) }
      s.endEarly l.tag [stInvalid]

/-- The coordinator announces GO at a count. -/
def State.announceGo (s : State) (c : Nat) : State :=
  let l := match s.ag.launch with | none => none | some l => some { l with go := some c }
  ({ s with ag := { s.ag with launch := l, ready := [] } }).announce (.go c) [1, c]

/-- CANCEL is announced, with the clocks found. -/
def State.announceCancel (s : State) (clocks : List (Nat × Nat)) : State :=
  s.announce (.cancel clocks) (2 :: clocks.flatMap fun c => [c.1, c.2])

/-- The coordinator decides once READY has come from every part: CANCEL when clocks differ or the count is too near, else GO. -/
def State.decideLaunch (s : State) : State :=
  match s.ag.launch with
  | none => s
  | some l =>
    if s.coordinates && l.go.isNone && s.launchParts.all (fun p => s.ag.ready.any fun r => r.1 == p) then
      let cs := clocksFound s.ag.ready
      if 1 < cs.length then (s.cancelLaunch cs).announceCancel cs
      else if l.c = 0 then s.announceGo s.announceCount
      else if s.tb.count + s.tb.lead ≤ l.c then s.announceGo l.c
      else (s.cancelLaunch []).announceCancel []
    else s

/-- This part is ready to launch: READY goes to the coordinator. -/
def State.sendReady (s : State) : State :=
  if s.coordinates then
    let s := { s with ag := { s.ag with ready := (s.partNo, s.gbl.clk) :: s.ag.ready } }
    (s.emit (.ready s.partNo s.gbl.clk)).decideLaunch
  else s.tell s.launchCoordinator (.ready s.partNo s.gbl.clk) [0, s.partNo, s.gbl.clk]

/-- READY of a part reaches the coordinator. -/
def execReadyMessage (part clk : Nat) (s : State) : Host.Outcome State Fault Refusal :=
  if s.coordinates then
    let rest := s.ag.ready.filter fun r => r.1 != part
    ok ({ s with ag := { s.ag with ready := rest ++ [(part, clk)] } }).decideLaunch
  else ok s

/-- C − TB_LEAD has passed without every READY: CANCEL. -/
def execLaunchDeadline (s : State) : Host.Outcome State Fault Refusal :=
  match s.ag.launch with
  | none => ok s
  | some l =>
    if s.coordinates = true ∧ l.go = none ∧ l.c ≠ 0 ∧ l.c < s.tb.count + s.tb.lead then
      ok ((s.cancelLaunch []).announceCancel [])
    else ok s

/-- An announcement that comes after its count: the part acts now, and the delay enters the late-input counters of its tiles
that run code (11 R297). -/
def State.lateBy (s : State) (c : Nat) : State :=
  if s.tb.count ≤ c then s
  else
    let n := s.cyclesOf (s.tb.count - c)
    s.imageTiles.foldl
      (fun s t =>
        let x := s.tile t
        s.setTile t { x with seq := { x.seq with lag := x.seq.lag + n }, ctr := { x.ctr with late := satAdd 32 x.ctr.late n } }) s

/-- GO(c) arrives from the coordinator. -/
def execGoAnnouncement (c coord : Nat) (s : State) : Host.Outcome State Fault Refusal :=
  match s.ag.launch with
  | none => ok s
  | some l =>
    if coord = s.launchCoordinator ∧ l.go = none then
      ok ({ s with ag := { s.ag with launch := some { l with go := some c } } }.lateBy c)
    else ok s

/-- CANCEL arrives from the coordinator. -/
def execCancelAnnouncement (coord : Nat) (clocks : List (Nat × Nat)) (s : State) : Host.Outcome State Fault Refusal :=
  if coord = s.launchCoordinator then ok (s.cancelLaunch clocks) else ok s

/-! ### The launch count (11 R298; 08 R232, R233, R238) -/

/-- One swap of the Fisher–Yates order: index n with floor(u × (n + 1) / 2^32). -/
def orderSwap (u n : Nat) (l : List Nat) : List Nat :=
  let j := u * (n + 1) / 2 ^ 32
  let a := l.getD n 0
  let b := l.getD j 0
  (l.set n b).set j a

/-- The swaps for n, n − 1, …, 1. -/
def orderSamples (u : Nat → Nat) : Nat → List Nat → List Nat
  | 0, l => l
  | n + 1, l => orderSamples u n (orderSwap (u (n + 1)) (n + 1) l)

/-- The data order of a step: sample positions permuted with purpose-0x01 words of tensor 0xFFFF (08 R233, 05 R163). -/
def State.dataOrder (s : State) (samples : Nat) : List Nat :=
  orderSamples (fun n => crgWord s.prog.seed s.gbl.step 0xFFFF 1 n) (samples - 1) (List.range samples)

/-- SAMPLES of the step plan (08 R231). -/
def State.planSamples (s : State) : Nat := Bytes.readLe s.hbm.mem (s.prog.plan + 0x68) 4

/-- Ports that were retrained while a program ran carry scheduled traffic again from a LAUNCH_AT or the start of a step run on (10
R277). -/
def State.clearRetrained (s : State) : State :=
  ((List.range 32).filter fun n => (s.port n).parked).foldl
    (fun (s : State) n => (s.setPort n { s.port n with parked := false }).clearFailed n) s

/-- This rank's part of a step's data order by micro-batch: its share of the positions, cut into M micro-batches (08 R233). -/
def State.rankBatches (s : State) (perm : List Nat) : List (List Nat) :=
  let share := s.planSamples / s.recField s.prog.plan 8 15 0
  chunksOf (Nat.max 1 (share / s.recField s.prog.plan 0 47 32)) ((perm.drop (s.dataPos * share)).take share)

/-! ### Schedule time (07 R192, R203; 11 R299) -/

/-- Schedule time but for late arrivals: the count less the counts by which coordinated pauses and pre-emptions have delayed the
program; during a pause it stands where the pause began. -/
def State.schedNow (s : State) : Nat :=
  let c := if s.gbl.paused then (match s.ag.pause with | none => s.tb.count | some a => Nat.min s.tb.count a.1) else s.tb.count
  c - s.prog.paused

/-- Counts by which late arrivals have delayed a group of tiles since the launch. -/
def State.lagOf (s : State) (tiles : List Nat) : Nat := s.countsOf (tiles.foldl (fun n t => Nat.max n (s.tile t).seq.lag) 0)

/-- A replay point with the sequencers as they stand (14 R382). -/
def State.replayPoint (s : State) (idx : Nat) : ReplayPoint :=
  { idx := idx, step := s.gbl.step, tiles := s.tiles.map fun c => (c.1, c.2.seq), seqr := s.seqr, pos := s.coll.pos, sched := s.schedNow,
    segs := s.ss.segs }

/-- The agreed launch count falls: the first bundle issues, TB_COLL_ROUND rises, TB_COLL_POS returns to 0. The start is the
program's first replay point (14 R396). -/
def execGoCountReached (s : State) : Host.Outcome State Fault Refusal :=
  match s.ag.launch with
  | none => ok s
  | some l =>
    match l.go with
    | none => ok s
    | some c =>
      if s.tb.count < c ∨ s.gbl.paused = true ∨ s.ag.stop ≠ none then ok s
      else
        let stepRun := decide (s.seqr.tag = some l.tag)
        let hold := if s.tb.state = .holdover then satAdd 32 s.tb.holdLaunches 1 else s.tb.holdLaunches
        let s := { s with
          ag := { s.ag with launch := none, ready := [], stop := none, drain := false }
          gbl := { s.gbl with prog := 2 }
          tb := { s.tb with holdLaunches := hold }
          coll := { s.coll with round := s.coll.round + 1, pos := 0, refused := false, runs := [] }
          prog := { s.prog with tag := some l.tag, launch := c, seed := s.dg.seed, paused := 0, s0 := s.gbl.step, f0 := s.flag (field s.stepctl 7 0),
                                stopped := false } }
        let s := (if stepRun ∧ s.seqr.done ≠ 0 then s else s.clearRetrained).startSection 0 true
        let s := if stepRun then
            let perm := s.dataOrder s.planSamples
            let d := c + s.countsOf (Bytes.readLe s.hbm.mem (s.prog.plan + 0x10) 8)
            { s with seqr := { s.seqr with phase := 4, deadline := d, perm := perm, batches := s.rankBatches perm, reports := [],
                                           replaying := none, frozenDig := [], skipped := false, stale := false, sat := false,
                                           sqn := [], results := [], jobs := [], spills := [], spilled := [], sweepAt := 0, unf := 0,
                                           decision := none } }
          else s
        let rec0 := { s.recov with current := some (s.replayPoint 0), previous := none, log := [], logFull := false, upTo := [],
                                   undo := [], carried := [], want := [] }
        let s := { s with recov := rec0 }
        let s := s.updOp l.tag fun o => if stepRun then o else { o with result := BitVec.ofNat 64 c }
        ok s.settleRouter

/-! ### Pause and resume (11 R299, R297) -/

/-- A pause announced elsewhere. -/
def execPauseAnnouncement (p coord : Nat) (s : State) : Host.Outcome State Fault Refusal := ok ((s.takePause p coord).lateBy p)

/-- A recovery that waits for its pause goes on: the cycle each tile has reached is kept (14 R384, R386). -/
def State.recoveryPaused (s : State) : State :=
  if s.recov.stage = .announced then
    let up := s.tiles.foldl
      (fun m c => Sparse.set 0 m c.1 (Nat.max c.2.seq.cycle (Sparse.get 0 s.recov.upTo c.1))) s.recov.upTo
    { s with recov := { s.recov with stage := .paused, active := true, upTo := up } }
  else s

/-- The pause count falls: tile issue stops. A stop takes precedence over a pause. A recovery whose part is paused already runs
inside that pause (14 R395). -/
def execPauseCountReached (s : State) : Host.Outcome State Fault Refusal :=
  match s.ag.pause with
  | none => ok s
  | some a =>
    if s.tb.count < a.1 ∨ s.ag.stop ≠ none then ok s
    else ok ({ s with gbl := { s.gbl with paused := true } }).recoveryPaused

/-- A resume count announced: of two, the later counts (14 R395). -/
def State.takeResume (s : State) (q : Nat) : State :=
  { s with ag := { s.ag with resume := some (match s.ag.resume with | none => q | some r => Nat.max q r) } }

/-- This part's causes of a pause have cleared: it announces Q. -/
def State.announceResume (s : State) : State :=
  let q := s.announceCount
  (s.takeResume q).announce (.resume q) [4, q]

/-- A resume announced elsewhere; one that comes after its count is late (R297). -/
def execResumeAnnouncement (q : Nat) (s : State) : Host.Outcome State Fault Refusal := ok ((s.takeResume q).lateBy q)

/-- A cause of this part still holds the pause: a thermal pause, or a recovery before the end of its restore. -/
def State.pauseHolds (s : State) : Bool :=
  s.pwr.thermPause || (match s.recov.stage with | .none => false | .restored => false | _ => true)

/-- A tile that a pause of n cycles (c counts) has held: it enters the pause counter, delays what is to come, and is no part of the
cycles that a WAIT holds (05 R150, 04 R130). -/
def Tile.afterPause (x : Tile) (n c : Nat) : Tile :=
  { x with seq := { x.seq with shift := x.seq.shift + n, wait := x.seq.wait.map fun w => (w.1, w.2.1, w.2.2 + c) }
           ctr := { x.ctr with pause := satAdd 32 x.ctr.pause n } }

/-- A tile that a SNAPSHOT holds at a safe point goes on at count q: it has been paused since it came there (12 R350). -/
def State.releaseTile (s : State) (q : Nat) (x : Tile) : Tile :=
  match x.seq.run with
  | .atSafe since => { x with seq := { x.seq with run := .running } }.afterPause (s.cyclesOf (q - since)) (q - since)
  | _ => x

/-- Every tile that a SNAPSHOT holds goes on now, and no tile is held any more. -/
def State.releaseAll (s : State) (q : Nat) : State :=
  { s with ag := { s.ag with snapAt := none }
           tiles := Sparse.mapVals Tile.reset (fun _ x => s.releaseTile q x) s.tiles }

/-- The resume count falls: tiles issue again, the paused cycles enter the pause counters (05 R150), and schedule time goes on: on a
part that recovered from its replay point's (07 R192, 14 R384). -/
def execResumeCountReached (s : State) : Host.Outcome State Fault Refusal :=
  match s.ag.resume with
  | none => ok s
  | some q =>
    if s.tb.count < q ∨ s.gbl.paused = false ∨ s.pauseHolds = true then ok s
    else
      let p := match s.ag.pause with | none => q | some a => a.1
      let n := s.cyclesOf (q - p)
      let each (_ : Nat) (x : Tile) : Tile :=
        match x.seq.run with
        | .atSafe _ => if s.ag.snapAt.isNone then s.releaseTile q x else x
        | _ => if x.seq.run.live then x.afterPause n (q - p) else x
      let st := if s.recov.stage = .restored then RecStage.none else s.recov.stage
      let from_ := match s.recov.stage, s.recov.current with | .restored, some r => r.sched | _, _ => s.schedNow
      let s1 : State := { s with
        gbl := { s.gbl with paused := false }
        ag := { s.ag with pause := none, resume := none }
        tiles := Sparse.mapVals Tile.reset each s.tiles
        prog := { s.prog with paused := q - from_ }
        recov := { s.recov with stage := st } }
      ok s1.settleRouter

/-! ### Stops (11 R300–R302) -/

/-- The class a stop's status has on the operation: the low code names Ended for the two codes with two classes. -/
def endedForm (st : BitVec 8) : BitVec 8 := if st = stDigest then stDigestEnded else if st = stEcc then stEccEnded else st

/-- A stop announced elsewhere. -/
def execStopAnnouncement (c coord : Nat) (status : BitVec 8) (pre : Bool) (s : State) : Host.Outcome State Fault Refusal :=
  ok ((s.takeStop { c := c, coord := coord, status := endedForm status, pre := pre }).lateBy c)

/-- Atomics on their way to tiles that have stopped act (03 R96). -/
def State.landAll (s : State) : State := (s.tiles.map (·.1)).foldl (fun s t => s.landAtoms t) s

/-- Every tile that has not ended stops. -/
def State.stopTiles (s : State) : State :=
  let each (_ : Nat) (x : Tile) : Tile :=
    if x.seq.run.live then { x with seq := { x.seq with run := .stopped }, stopAt := none } else x
  ({ s with tiles := Sparse.mapVals Tile.reset each s.tiles }).landAll

/-- The stop count falls. A stop that ends the program stops every tile and takes precedence over a pause; a part that did
not find the cause records the part that did and S. A pre-emption stop leaves each tile to its next safe point (R301). A
launch not yet made is given up. -/
def execStopCountReached (s : State) : Host.Outcome State Fault Refusal :=
  match s.ag.stop with
  | none => ok s
  | some n =>
    if s.tb.count < n.c ∨ s.prog.stopped = true then ok s
    else if s.programRuns = false then
      let s := { s with ag := { s.ag with stop := none } }
      match s.ag.launch with
      | none => ok s
      | some l => if n.pre then ok s else ok (({ s with ag := { s.ag with launch := none, ready := [] } }).endEarly l.tag [n.status])
    else if n.pre then
      ok ({ s with gbl := { s.gbl with paused := false }, ag := { s.ag with pause := none, resume := none } }.releaseAll s.tb.count)
    else
      let s := s.stopTiles
      let s := { s with gbl := { s.gbl with paused := false }
                        ag := { s.ag with pause := none, resume := none }
                        prog := { s.prog with stopped := true }
                        recov := { s.recov with active := false, stage := .none, cause := none } }
      if n.coord = s.partNo then ok s
      else
        let s := s.logCause { status := n.status, sev := 2, src := srcRemote, unit := n.coord, tag := s.prog.tag,
                              detail := [n.coord, n.c] }
        ok (s.addStatus n.status)

/-- The router's legs in progress are finished: nothing is left but what a stop keeps for readback or a save (R302). A recovery
whose pause a pre-emption stop has overtaken runs now, before the save (12 R352, 14 R395; log entry 122). -/
def execRouterDrainComplete (s : State) : Host.Outcome State Fault Refusal :=
  match s.ag.stop with
  | none => ok s
  | some n =>
    if s.tilesQuiet = true ∧ s.tb.count ≥ n.c then
      if n.pre then
        ok (if s.recov.stage = .announced then ({ s with gbl := { s.gbl with paused := true } }).recoveryPaused
            else { s with ag := { s.ag with drain := true } })
      else if s.prog.stopped then ok { s with ag := { s.ag with stop := none, drain := false } } else ok s
    else ok s

end Sys2Proof.Machine
end

