-- ==== Sys2Proof/Machine/TileMap.lean ====
section
/-!
DEFINITION. The tile map (05 R142, R143; 16 R439): half-rows, the physical place of a logical tile, and the retirement of a
tile (13 R374, R375).
-/

namespace Sys2Proof.Machine

/-- The spare column of a half-row, counted within it: column 16 of the left half, column 17 of the right (05 R142). -/
def sparePos (h : Nat) : Nat := if h % 2 = 0 then 16 else 0

/-- FAILED of a half-row: bit k marks its k-th column. -/
def State.halfFailed (s : State) (h : Nat) : BitVec 17 := Sparse.get 0 s.tm.failed h

/-- Failed positions of a half-row. -/
def failedCount (f : BitVec 17) : Nat := ((List.range 17).filter fun k => f.getLsbD k).length

/-- UNMAPPABLE: two positions have failed (13 R375). -/
def State.unmappable (s : State) (h : Nat) : Bool := decide (2 ≤ failedCount (s.halfFailed h))

/-- The 16 positions that hold logical tiles, in column order: all but the failed one, or all but the spare. -/
def workPositions (h : Nat) (f : BitVec 17) : List Nat :=
  (List.range 17).filter fun k => if f = 0 then k != sparePos h else !f.getLsbD k

/-- The half-row of a logical tile: 32 × die + 2 × row + half (05 R142; 16 R439; log entry 36). -/
def halfRowOf (t : Nat) : Nat := 32 * (t / 512) + 2 * (t % 512 / 32) + t % 32 / 16

/-- Physical number of position k of half-row h. -/
def physOfPos (h k : Nat) : Nat := 544 * (h / 32) + 34 * (h % 32 / 2) + 17 * (h % 2) + k

/-- PHYS of a logical tile (16 R439). -/
def State.physOf (s : State) (t : Nat) : Nat :=
  let h := halfRowOf t
  physOfPos h ((workPositions h (s.halfFailed h)).getD (t % 16) 0)

/-- The logical tile at a physical number, none for a spare not used or a retired tile. -/
def State.logicalOf (s : State) (q : Nat) : Option Nat := (List.range 1024).find? fun t => s.physOf t == q

/-- The half-row and position of a physical tile. -/
def posOfPhys (q : Nat) : Nat × Nat := (32 * (q / 544) + 2 * (q % 544 / 34) + q % 34 / 17, q % 34 % 17)

/-- Physical tiles retired (16 R439). -/
def State.retiredCount (s : State) : Nat := s.tm.failed.foldl (fun n c => n + failedCount c.2) 0

/-- Logical tile i of half-row h. -/
def tileOfHalf (h i : Nat) : Nat := 512 * (h / 32) + 32 * (h % 32 / 2) + 16 * (h % 2) + i

/-- A tile with the memories of another physical tile; sequencer, counters, flags and bank states stay with the logical one. -/
def Tile.withMemories (x y : Tile) : Tile :=
  { x with sp := y.sp, spErr := y.spErr, vb := y.vb, sets := y.sets, setFmt := y.setFmt, acc := y.acc, accErr := y.accErr,
           rgw := y.rgw, blkLen := y.blkLen, istore := y.istore, dstore := y.dstore, da := y.da, links := y.links,
           testPtr := y.testPtr }

/-- The memories stay where they are when a half-row shifts: each logical tile has those of its new place, a spare's being zero
(log entry 48). -/
def State.shiftRow (s : State) (h : Nat) (old new : List Nat) : State :=
  (List.range 16).foldl
    (fun r i =>
      let src := match (List.range 16).find? fun j => old.getD j 17 == new.getD i 18 with
        | some j => s.tile (tileOfHalf h j)
        | none => Tile.reset
      r.setTile (tileOfHalf h i) ((s.tile (tileOfHalf h i)).withMemories src)) s

/-- A physical position is marked failed and the half-row's map shifts; with a second failure the part's compute is retired
(13 R374, R375), which is a part-level cause (14 R477). -/
def State.retirePhys (s : State) (q : Nat) : State :=
  let p := posOfPhys q
  let old := workPositions p.1 (s.halfFailed p.1)
  let s := { s with tm := { s.tm with failed := Sparse.set 0 s.tm.failed p.1 (s.halfFailed p.1 ||| (1#17 <<< p.2)) } }
  if s.unmappable p.1 then
    if s.gbl.retired then s
    else
      let s := { s with gbl := { s.gbl with retired := true } }
      s.logCause { status := stRestricted, sev := 3, src := srcTest, unit := q, tag := none, detail := [q, p.1] }
  else s.shiftRow p.1 old (workPositions p.1 (s.halfFailed p.1))

end Sys2Proof.Machine
end

