-- ==== Sys2Proof/Machine/Cvt.lean ====
section
/-!
DEFINITION. Conversion (01 R34–R40): one element to an unscaled format, one block of 32 to a block-scaled format. `u` is the
element's random word, used by SR alone. Both arithmetic modes behave alike (01 R28).
-/

namespace Sys2Proof.Machine

/-- A value rounded to an integer for a destination with bounds lo and hi: R37's range test, SR treated as RNE in it, an
in-range SR result kept inside the bounds. Answers the integer and whether it was out of range. -/
def toIntRange (rm : Rm) (u : Nat) (lo hi : Int) (s : Bool) (m : Nat) (e : Int) : Int × Bool :=
  let t := roundInt (if rm = .sr then .rne else rm) s m e u
  if t < lo then (lo, true)
  else if hi < t then (hi, true)
  else
    let r := roundInt rm s m e u
    (if r < lo then lo else if hi < r then hi else r, false)

/-- Conversion to an integer format (01 R37, R45: no NX). -/
def cvtToInt (d : Nat) (rm : Rm) (u : Nat) (v : FVal) : Res :=
  match v with
  | .nan _ => (0, fIV)
  | .inf s => (wrap (fmtBits d) (if s then intMin d else intMax d), fIV)
  | .fin s m e =>
    let r := toIntRange rm u (intMin d) (intMax d) s m e
    (wrap (fmtBits d) r.1, flagIf r.2 fIV)

/-- Formats without infinity and NaN: E2M3, E3M2, E2M1. -/
def isSmallFloat (d : Nat) : Bool := !hasNan d

/-- Conversion to a floating-point format by the table of R37. -/
def cvtToFloat (d : Nat) (rm : Rm) (sat : Bool) (u : Nat) (v : FVal) : Res :=
  match v with
  | .nan sig => if isSmallFloat d then (0, fIV) else (canonNan d, flagIf sig fIV)
  | .inf s =>
    if isSmallFloat d then (maxBits d s, fOF)
    else if sat then (maxBits d s, 0)
    else if hasInf d then (infBits d s, 0) else (canonNan d, fIV)
  | .fin s m e =>
    let r := roundFloat d rm s m e false u
    if r.ovf then
      (if isSmallFloat d || sat then maxBits d s else if hasInf d then overflowBits d rm s else canonNan d, overflowFlags)
    else (r.bits, roundFlags r.inexact r.tiny)

/-- Conversion of one value to an unscaled destination. -/
def cvtVal (d : Nat) (rm : Rm) (sat : Bool) (u : Nat) (v : FVal) : Res :=
  if isInt d then cvtToInt d rm u v else cvtToFloat d rm sat u v

/-- emax of the element formats (01 R38). -/
def emaxElem (d : Nat) : Int :=
  match elemFmt d with | 0 => 6 | 1 => 8 | 2 => 15 | 3 => 2 | 4 => 4 | _ => 2

/-- floor(log2 |x|) of a finite non-zero value. -/
def floorLog2 (m : Nat) (e : Int) : Int := e + bitLen m - 1

/-- The largest floor(log2) of the finite non-zero values of a block, none when all are zero. -/
def blockTop : List FVal → Option Int
  | [] => none
  | .fin _ m e :: l =>
    if m = 0 then blockTop l
    else match blockTop l with | none => some (floorLog2 m e) | some t => some (max (floorLog2 m e) t)
  | _ :: l => blockTop l

/-- One element of a block with scale exponent x, saturating (01 R39). -/
def cvtBlockElem (d : Nat) (rm : Rm) (x : Int) (u : Nat) (v : FVal) : Res :=
  match v with
  | .fin s m e =>
    if isInt d then
      let r := toIntRange rm u (-127) 127 s m (e - x)
      let exact := dyExact (m : Int) (e - x)
      (wrap 8 r.1, if r.2 then overflowFlags else flagIf (!exact) fNX)
    else
      let r := roundFloat (elemFmt d) rm s m (e - x) false u
      if r.ovf then (maxBits (elemFmt d) s, overflowFlags) else (r.bits, roundFlags r.inexact r.tiny)
  | _ => (0, 0)

/-- A block: scale code, element bits, flags (01 R38–R40). -/
def cvtBlock (d : Nat) (rm : Rm) (us : List Nat) (vs : List FVal) : Nat × List Nat × Nat :=
  if vs.any fun v => v.isNan || v.isInf then (0xFF, vs.map fun _ => 0, fIV)
  else
    match blockTop vs with
    | none => (0, vs.map fun v => if isInt d then 0 else zeroBits (elemFmt d) v.sign, 0)
    | some t =>
      let c : Int := t - emaxElem d + 127
      let code : Nat := if c < 0 then 0 else if 0xFE < c then 0xFE else c.toNat
      let rs := (us.zip vs).map fun uv => cvtBlockElem d rm ((code : Int) - 127) uv.1 uv.2
      (code, rs.map (·.1), rs.foldl (fun a r => a ||| r.2) 0)

end Sys2Proof.Machine
end

