-- ==== Sys2Proof/Machine/Xa128.lean ====
section
/-!
DEFINITION. The exact accumulator: products and slices (01 R22–R26), truncation (02 R58), entries (R57), status words (R61),
column sums, overflow and saturation of an entry (R63, R70), and the resolution of an entry at a drain (R73, R74).
-/

namespace Sys2Proof.Machine

/-! ### Status words (02 R61) -/

/-- The fields of a row-group status word. -/
structure RgFields where
  w : Int
  base : Nat
  sat : Bool
  rc : Nat
  pend : Bool
  step : Bool
  frz : Bool
  opn : Bool
  deriving DecidableEq, Repr, Inhabited

def rgUnpack (x : W32) : RgFields :=
  let n := x.toNat
  { w := signed 16 (field n 31 16), base := field n 15 8, sat := bitAt n 6, rc := field n 5 4, pend := bitAt n 3,
    step := bitAt n 2, frz := bitAt n 1, opn := bitAt n 0 }

def rgPack (f : RgFields) : W32 :=
  BitVec.ofNat 32 (wrap 16 f.w * 2 ^ 16 + f.base % 256 * 2 ^ 8 + b2n f.sat * 64 + f.rc % 4 * 16 + b2n f.pend * 8
    + b2n f.step * 4 + b2n f.frz * 2 + b2n f.opn)

/-- An accumulator entry after reset and load (02 R79). -/
def AccEntry.zero : AccEntry := { v := 0, nz := false, nan := false, pinf := false, ninf := false }

/-- An entry of a block just opened (02 R62). -/
def AccEntry.opened : AccEntry := { v := 0, nz := true, nan := false, pinf := false, ninf := false }

/-! ### Products -/

/-- What a set of addends gives one entry: the sum of their truncations, whether every one was −0, the side flags they set,
and arithmetic flags. -/
structure ColSum where
  v : Int
  negZero : Bool
  nan : Bool
  pinf : Bool
  ninf : Bool
  fl : Nat
  deriving DecidableEq, Repr, Inhabited

/-- No addend. -/
def ColSum.none : ColSum := { v := 0, negZero := true, nan := false, pinf := false, ninf := false, fl := 0 }

def ColSum.add (a b : ColSum) : ColSum :=
  { v := a.v + b.v, negZero := a.negZero && b.negZero, nan := a.nan || b.nan, pinf := a.pinf || b.pinf,
    ninf := a.ninf || b.ninf, fl := a.fl ||| b.fl }

/-- One finite non-zero addend (−1)^s × m × 2^e, truncated toward −∞ to a multiple of 2^w (02 R58). -/
def addend (w : Int) (s : Bool) (m : Nat) (e : Int) : ColSum :=
  { v := dyFloor (sgnNat s m) (e - w), negZero := false, nan := false, pinf := false, ninf := false,
    fl := flagIf (!dyExact (sgnNat s m) (e - w)) fWX }

/-- The digits of a slice operand: width F bits, the leading one at the top (01 R24, R25). -/
def sliceDigits (width m : Nat) : List Nat :=
  let n := m * 2 ^ (width - bitLen m)
  (List.range (width / 8)).map fun i => n / 2 ^ (width - 8 * (i + 1)) % 256

/-- The slice products of two finite non-zero operands, each an addend of its own. -/
def sliceSum (width : Nat) (w : Int) (s : Bool) (ma : Nat) (ea : Int) (mb : Nat) (eb : Int) : ColSum :=
  let da := sliceDigits width ma
  let db := sliceDigits width mb
  let top := width / 8 - 1
  let e0 := (ea - (width - bitLen ma : Nat)) + (eb - (width - bitLen mb : Nat)) + (2 * width - 16 : Nat)
  let pairs := ((List.range (top + 1)).flatMap fun i => (List.range (top + 1 - i)).map fun j => (i, j))
  pairs.foldl
    (fun acc ij =>
      let p := da.getD ij.1 0 * db.getD ij.2 0
      if p = 0 then acc else acc.add (addend w s p (e0 - (8 * (ij.1 + ij.2) : Nat))))
    { ColSum.none with negZero := false }

/-- The product of a stationary and a streamed element in a class of R22, at window exponent w (01 R26, 02 R57, R58). -/
def productOf (cls : Nat) (w : Int) (a b : FVal) : ColSum :=
  match a, b with
  | .nan _, _ => { ColSum.none with negZero := false, nan := true }
  | _, .nan _ => { ColSum.none with negZero := false, nan := true }
  | .inf x, .inf y => infAddend (x != y)
  | .inf x, .fin y m _ =>
    if m = 0 then { ColSum.none with negZero := false, nan := true, fl := fIV } else infAddend (x != y)
  | .fin x m _, .inf y =>
    if m = 0 then { ColSum.none with negZero := false, nan := true, fl := fIV } else infAddend (x != y)
  | .fin x ma ea, .fin y mb eb =>
    if ma = 0 ∨ mb = 0 then { ColSum.none with negZero := x != y }
    else if cls = 2 then sliceSum 24 w (x != y) ma ea mb eb
    else if cls = 3 then sliceSum 56 w (x != y) ma ea mb eb
    else addend w (x != y) (ma * mb) (ea + eb)
where
  infAddend (s : Bool) : ColSum := { ColSum.none with negZero := false, pinf := !s, ninf := s }

/-- The column sum of a stationary column and a streamed vector (02 R49). -/
def columnSum (cls : Nat) (w : Int) (col vec : List FVal) : ColSum :=
  (col.zip vec).foldl (fun acc ab => acc.add (productOf cls w ab.1 ab.2)) ColSum.none

/-! ### Entries -/

/-- The magnitude at which a block overflows (02 R63). -/
def accLimit : Int := 2 ^ 126

/-- A saturated entry holds ±2^126, which no other entry of an unfrozen block holds (log entry 12). -/
def AccEntry.saturated (x : AccEntry) : Bool := decide (accLimit ≤ (x.v.toInt.natAbs : Int))

/-- The side flags an addition leaves (02 R57). -/
def AccEntry.withFlags (x : AccEntry) (c : ColSum) : AccEntry :=
  { x with nz := x.nz && c.negZero, nan := x.nan || c.nan, pinf := x.pinf || c.pinf, ninf := x.ninf || c.ninf }

/-- The exact sum an addition forms before it is stored. -/
def AccEntry.sum (x : AccEntry) (c : ColSum) : Int := if x.saturated then x.v.toInt else x.v.toInt + c.v

/-- Whether the addition reaches the limit in an entry that had not saturated. -/
def AccEntry.overflows (x : AccEntry) (c : ColSum) : Bool :=
  !x.saturated && decide (accLimit ≤ ((x.v.toInt + c.v).natAbs : Int))

/-- The entry with the sum stored. -/
def AccEntry.store (x : AccEntry) (c : ColSum) : AccEntry :=
  { (x.withFlags c) with v := BitVec.ofInt 128 (x.sum c) }

/-- An entry that reaches the limit with no replay left: PINF or NINF by the sign of the sum, later finite addends ignored
(02 R70). -/
def AccEntry.saturate (x : AccEntry) (c : ColSum) : AccEntry :=
  let neg := decide (x.v.toInt + c.v < 0)
  let y := x.withFlags c
  { y with v := BitVec.ofInt 128 (if neg then -accLimit else accLimit), pinf := y.pinf || !neg, ninf := y.ninf || neg }

/-! ### Drain of an entry (02 R73) -/

/-- The exact or special value of an entry, with whether its NaN came from opposite infinities. -/
def AccEntry.value (x : AccEntry) (w : Int) : FVal × Bool :=
  if x.nan then (.nan false, false)
  else if x.pinf && x.ninf then (.nan false, true)
  else if x.pinf then (.inf false, false)
  else if x.ninf then (.inf true, false)
  else if x.v = 0 then (.fin x.nz 0 0, false)
  else (.fin (decide (x.v.toInt < 0)) x.v.toInt.natAbs w, false)

/-- Whether a drain to an integer format rounds: the value is in range and no integer (R73; 01 R45, which spares CVT alone). -/
def drainInexact (d : Nat) (v : FVal) (r : Res) : Bool :=
  match v with
  | .fin s m e => isInt d && r.2 == 0 && !dyExact (sgnNat s m) e
  | _ => false

/-- The drained result: rounded once, written as R37's row for the output gives, with R73's own rule for a NaN's IV, and NX by that
rounding for an integer output too (01 R45). -/
def drainEntry (d : Nat) (rm : Rm) (sat : Bool) (w : Int) (x : AccEntry) : Res :=
  let v := x.value w
  let r := cvtVal d rm sat 0 v.1
  if v.1.isNan && !isInt d then (r.1, flagIf v.2 fIV) else (r.1, r.2 ||| flagIf (drainInexact d v.1 r) fNX)

/-- What the drain of a frozen STEP-class block writes (02 R69). -/
def frozenOutput (d : Nat) : Nat := if isInt d then 2 ^ (fmtBits d - 1) else canonNan d

/-- Format of the row statistics (02 R74). -/
def rowFmt (d : Nat) : Nat := if d = fmtFP64 then fmtFP64 else fmtFP32

/-- Sum of finite values as a dyadic number. -/
def exactSum (vs : List FVal) : Int × Int :=
  vs.foldl (fun a v => match v with | .fin s m e => dyAdd a.1 a.2 (sgnNat s m) e | _ => a) (0, 0)

/-- Row maximum of rounded outputs (01 R42), in the row format. -/
def rowMax (d : Nat) (outs : List Nat) : Nat :=
  let m := outs.tail.foldl (fun a b => (fpMaxMin true false d a b).1) (outs.headD 0)
  (cvtVal (rowFmt d) .rne false 0 (decodeVal d m)).1

/-- Row sum: the exact sum rounded once with RNE; both infinities or a NaN give NaN; an exact zero is −0 only when every
output is −0. -/
def rowSum (d : Nat) (outs : List Nat) : Nat :=
  let vs := outs.map (decodeVal d)
  let f := rowFmt d
  let pos := vs.contains (.inf false)
  let neg := vs.contains (.inf true)
  if (vs.any FVal.isNan) || (pos && neg) then canonNan f
  else if pos then infBits f false
  else if neg then infBits f true
  else
    let t := exactSum vs
    if t.1 = 0 then zeroBits f (vs.all fun v => v.isZero && v.sign)
    else
      let r := roundFloat f .rne (decide (t.1 < 0)) t.1.natAbs t.2 false 0
      if r.ovf then overflowBits f .rne (decide (t.1 < 0)) else r.bits

/-- The row statistics of a drained row group: maximum and sum; zero for integer outputs. -/
def rowStats (d : Nat) (outs : List Nat) : Nat × Nat := if isInt d then (0, 0) else (rowMax d outs, rowSum d outs)

end Sys2Proof.Machine
end

