-- ==== Sys2Proof/Machine/DebugWindow.lean ====
section
/-!
DEFINITION. What the debug window shows (16 R444–R449, 02 R78, 13 R365).
-/

namespace Sys2Proof.Machine

/-- Byte k of a number. -/
def byteOf (v k : Nat) : Nat := (v >>> (8 * k)) % 256

/-- DEBUGPROG: the loaded program has DEBUG set (04 R107, 16 R431). -/
def State.debugProg (s : State) : Bool := s.gbl.prog != 0 && bitAt (Bytes.readLe s.prog.header 0x008 8) 2

/-- The sequencer waits or is held back (log entry 37). -/
def State.stalled (s : State) (x : Tile) : Bool :=
  match x.seq.run with
  | .waiting => true
  | .replayEnd => true
  | .reserve => true
  | .running => s.gbl.paused
  | _ => false

/-- Loop counter of a level: iterations still to run, the current one included (log entry 37). -/
def TileSeq.loopCount (q : TileSeq) (k : Nat) : Nat :=
  match q.loops[k]? with | none => 0 | some f => f.count - f.iter

/-- A comparator as its 8 bytes. -/
def Comparator.word (c : Comparator) : Nat :=
  c.imm.toNat + c.rel.toNat * 2 ^ 32 + b2n c.src * 2 ^ 35 + c.idx.toNat * 2 ^ 36 + b2n c.conf * 2 ^ 40

/-- The sequencer page as fields: offset, size in bytes, value (16 R447). -/
def State.seqPage (s : State) (x : Tile) : List (Nat × Nat × Nat) :=
  let q := x.seq
  let c0 : Comparator := { conf := false, imm := 0, rel := 0, src := false, idx := 0 }
  let r (n base size : Nat) (f : Nat → Nat) : List (Nat × Nat × Nat) :=
    (List.range n).map fun k => (base + size * k, size, f k)
  [(0x000, 8, s.gbl.step.toNat),
   (0x008, 8, q.bundle % 4096 + q.sect.toNat * 2 ^ 12 + b2n (q.run == .halted) * 2 ^ 16 + b2n (s.stalled x) * 2 ^ 17),
   (0x010, 8, x.flags.toNat), (0x018, 8, q.vl)]
    ++ r 4 0x020 4 q.liAt ++ r 4 0x030 4 q.loopCount
    ++ r 16 0x040 4 (fun k => (Sparse.get 0 q.cnt k).toNat)
    ++ r 4 0x080 8 (fun k => (Sparse.get c0 q.cmp k).word)
    ++ [(0x0A0, 8, ((List.range 4).map fun j => b2n (q.p j) * 2 ^ j).foldl (· + ·) 0)]
    ++ r 4 0x0A8 2 (fun k => Sparse.get 0 q.rsp k)
    ++ r 8 0x0B0 4 (fun k => (Sparse.get 0 q.msk k).toNat)
    ++ r 4 0x0D0 8 (fun k => Sparse.get 0 x.da k)
    ++ [(0x0F0, 4, x.ctr.late), (0x0F4, 4, x.ctr.wait), (0x0F8, 4, x.ctr.replay), (0x0FC, 4, x.ctr.pause),
        (0x100, 4, x.ctr.replays), (0x104, 4, x.ctr.satEntries), (0x108, 4, x.ctr.overrun), (0x10C, 4, x.ctr.accEcc),
        (0x110, 4, x.ctr.spEcc)]

/-- The byte at an offset of a list of fields; 0 where none lies. -/
def fieldByte (fs : List (Nat × Nat × Nat)) (o : Nat) : Nat :=
  match fs.find? fun f => decide (f.1 ≤ o ∧ o < f.1 + f.2.1) with
  | none => 0
  | some f => byteOf f.2.2 (o - f.1)

/-- The accumulator half of an entry is readable: its bank is ON. -/
def Tile.accOn (x : Tile) (entry : Nat) : Bool :=
  if entry < 8192 then decide (x.bank0.state = .on) else decide (x.bank1.state = .on)

/-- The four flags of an entry as a byte. -/
def AccEntry.flagByte (e : AccEntry) : Nat := b2n e.nz + 2 * b2n e.nan + 4 * b2n e.pinf + 8 * b2n e.ninf

/-- A byte of a tile area (16 R446). -/
def State.tileByte (s : State) (x : Tile) (o : Nat) : Nat :=
  if o < 0x100000 then (if x.bankSp.state = .on then (Bytes.read x.sp o).toNat else 0)
  else if o < 0x120000 then byteOf (Sparse.get 0 x.istore ((o - 0x100000) / 32)).toNat (o % 32)
  else if o < 0x128000 then byteOf (Sparse.get 0 x.dstore ((o - 0x120000) / 64)).toNat (o % 64)
  else if o < 0x138000 then (Bytes.read x.vb (o - 0x128000)).toNat
  else if o < 0x148000 then (if s.debugProg then (Bytes.read x.sets (o - 0x138000)).toNat else 0)
  else if o < 0x149000 then fieldByte (s.seqPage x) (o - 0x148000)
  else if 0x150000 ≤ o ∧ o < 0x190000 then
    let e := (o - 0x150000) / 16
    if s.debugProg && x.accOn e then byteOf (Sparse.get AccEntry.zero x.acc e).v.toNat (o % 16) else 0
  else if 0x190000 ≤ o ∧ o < 0x194000 then
    let e := o - 0x190000
    if s.debugProg && x.accOn e then (Sparse.get AccEntry.zero x.acc e).flagByte else 0
  else if 0x194000 ≤ o ∧ o < 0x194400 then
    let g := (o - 0x194000) / 4
    if s.debugProg && x.accOn (64 * g) then byteOf (Sparse.get 0 x.rgw g).toNat (o % 4) else 0
  else 0

/-- A tag-map entry (16 R449). -/
def Op.tagEntry (o : Op) : Nat :=
  1 + b2n o.heldBefore * 2 + o.ring * 2 ^ 2 + o.cls * 2 ^ 10 + o.opcode * 2 ^ 16 + o.dpos * 2 ^ 64

/-- An index engine's 256 bytes (16 R448). -/
def IxEngine.page (e : IxEngine) : List (Nat × Nat × Nat) :=
  [(0x00, 8, e.flags.toNat), (0x08, 8, e.oor), (0x10, 8, e.count), (0x18, 8, b2n e.cmd.isSome)]

/-- The step sequencer's page. -/
def State.stepPage (s : State) : List (Nat × Nat × Nat) :=
  [(0x00, 8, s.gbl.step.toNat), (0x08, 8, s.seqr.intakeWait), (0x10, 8, s.seqr.spillHbm), (0x18, 8, s.seqr.spillHost),
   (0x20, 8, s.seqr.overrun)]

/-- A byte of the device area (16 R448). The layout of the in-flight chunk table is open (log entry 38). -/
def State.deviceByte (s : State) (o : Nat) : Nat :=
  if o < 0x1000000 then (Bytes.read s.coll.buf o).toNat
  else if o < 0x1008000 then byteOf (Sparse.get 0 s.coll.thr ((o - 0x1000000) / 8)) (o % 8)
  else if o < 0x1010000 then (Config.freeValue (s.free + (o - 0x1008000))).toNat % 256
  else if o < 0x1020000 then
    match s.op ((o - 0x1010000) / 16) with | none => 0 | some p => byteOf p.tagEntry (o % 16)
  else if o < 0x1022000 then fieldByte (s.ixe ((o - 0x1020000) / 256)).page (o % 256)
  else if 0x1030000 ≤ o ∧ o < 0x1031000 then fieldByte s.stepPage (o - 0x1030000)
  else if 0x1040000 ≤ o ∧ o < 0x1044000 then (if s.gbl.prog = 0 then 0 else (Bytes.read s.prog.header (o - 0x1040000)).toNat)
  else 0

/-- The tile an area shows: by logical tile, or by physical number (16 R444). -/
def State.viewTile (s : State) (phys : Bool) (i : Nat) : Option Nat :=
  if phys then (if i < 1088 then s.logicalOf i else none) else if i < 1024 then some i else none

/-- A byte of the debug window (16 R445). -/
def State.debugByte (s : State) (phys : Bool) (o : Nat) : Byte :=
  BitVec.ofNat 8 (
    if 0xC0000000 ≤ o then s.deviceByte (o - 0xC0000000)
    else match s.viewTile phys (o / 2 ^ 21) with
      | none => 0
      | some t => s.tileByte (s.tile t) (o % 2 ^ 21))

/-- Bytes a STATE_READ of n bytes delivers. -/
def State.debugRead (s : State) (phys : Bool) (o n : Nat) : List Byte := (List.range n).map fun k => s.debugByte phys (o + k)

/-- A double-bit error lies in the scratchpad granules that [o, o + n) shows (03 R94). -/
def State.debugBad (s : State) (phys : Bool) (o n : Nat) : Bool :=
  (List.range ((o + n) / 2 ^ 21 + 1 - o / 2 ^ 21)).any fun i =>
    let a := o / 2 ^ 21 + i
    match s.viewTile phys a with
    | none => false
    | some t =>
      let x := s.tile t
      decide (x.bankSp.state = .on) && x.spErr.any fun c =>
        c.2 == 2 && decide (o < a * 2 ^ 21 + 16 * c.1 + 16) && decide (a * 2 ^ 21 + 16 * c.1 < o + n)
          && decide (a * 2 ^ 21 < 0xC0000000)

end Sys2Proof.Machine
end

