-- ==== Sys2Proof/Machine/HbmGrid.lean ====
section
/-!
DEFINITION. The HBM slot grid (13 R355, R356).
-/

namespace Sys2Proof.Machine

/-- Stack and pseudo-channel of an address as one number: 64 × stack + pseudo-channel (13 R355). -/
def hbmPc (a : Nat) : Nat := 64 * field a 9 7 + field a 15 10

/-- Slot n of a pseudo-channel: frame n / 8, slot n mod 8; its first cycle. -/
def slotStart (n : Nat) : Nat := 41 * (n / 8) + 5 * (n % 8)

/-- Frame f is a refresh frame of a pseudo-channel (13 R356). -/
def isRefresh (pc f : Nat) : Bool := f % 32 == pc % 32

end Sys2Proof.Machine
end

