-- ==== Sys2Proof/Machine/PlanePack.lean ====
section
/-!
DEFINITION. Saved tensors in HBM (08 R220–R223): the order of their elements, the plane-packed form of a group of 64 BF16
elements, and the places of groups that do not fit. HBM.WR and HBM.RD of a saved tensor's lines use them (log entry 66).
-/

namespace Sys2Proof.Machine

/-- Logical index of element (token, feature) of a micro-batch of `tmb` tokens (08 R220: feature-major). -/
def savedIndex (tmb token feature : Nat) : Nat := feature * tmb + token

/-- Exponent width of a save-table entry; none for the reserved code (08 R220). -/
def saveWidth (entry : Nat) : Option Nat := let kw := field entry 3 2; if kw = 3 then none else some (kw + 2)

/-- Exponent, mantissa and sign of a BF16 element. -/
def bfExp (x : Nat) : Nat := x / 2 ^ 7 % 2 ^ 8
def bfMan (x : Nat) : Nat := x % 2 ^ 7
def bfSign (x : Nat) : Nat := x / 2 ^ 15 % 2

/-- EMAX: the largest exponent field of the group (08 R221). -/
def groupMax (l : List Nat) : Nat := (l.map bfExp).foldl Nat.max 0

/-- A group fits when every element with a non-zero exponent field lies within 2^k − 2 of EMAX (08 R221). -/
def groupFits (k : Nat) (l : List Nat) : Bool := l.all fun x => bfExp x == 0 || decide (groupMax l - bfExp x ≤ 2 ^ k - 2)

/-- An element's exponent code. -/
def expCode (k emax e : Nat) : Nat := if e = 0 then 2 ^ k - 1 else emax - e

/-- Fields of w bits, the first lowest. -/
def packPlane (w : Nat) : List Nat → Nat
  | [] => 0
  | c :: l => c % 2 ^ w + 2 ^ w * packPlane w l

/-- n fields of w bits of a plane. -/
def unpackPlane (w : Nat) : Nat → Nat → List Nat
  | 0, _ => []
  | n + 1, v => v % 2 ^ w :: unpackPlane w n (v / 2 ^ w)

/-- The slot of a group that fits: EMAX, FORM 0x00, sign, mantissa and exponent planes, 66 + 8k bytes (08 R221). -/
def packGroup (k : Nat) (l : List Nat) : List Byte :=
  leBytes 1 (groupMax l) ++ leBytes 1 0 ++ leBytes 8 (packPlane 1 (l.map bfSign)) ++ leBytes 56 (packPlane 7 (l.map bfMan))
    ++ leBytes (8 * k) (packPlane k (l.map fun x => expCode k (groupMax l) (bfExp x)))

/-- The 64 elements of a packed slot. -/
def unpackGroup (k : Nat) (bs : List Byte) : List Nat :=
  let plane (w off n : Nat) : List Nat := unpackPlane w 64 (leNat ((bs.drop off).take n))
  let emax := leNat (bs.take 1)
  let exp (c : Nat) : Nat := if c = 2 ^ k - 1 then 0 else emax - c
  List.zipWith (fun sm c => sm.1 * 2 ^ 15 + exp c * 2 ^ 7 + sm.2) ((plane 1 2 8).zip (plane 7 10 56)) (plane k 66 (8 * k))

/-- The slot of a group that does not fit: FORM 0x01 and the spill index; the 128 raw bytes stand in its place (08 R222). The rest of
the slot is open. -/
def spilledHead (l : List Nat) (index : Nat) : List Byte := leBytes 1 (groupMax l) ++ leBytes 1 1 ++ leBytes 8 index

/-- A slot is spilled: FORM 0x01. -/
def slotSpilled (bs : List Byte) : Bool := leNat ((bs.drop 1).take 1) == 1

/-- Places of 128 bytes in one tile's share of an area (08 R222). -/
def sharePlaces (size : Nat) : Nat := size / 131072

/-- Where a spill index of a tile points: in the host buffer?, and its address. -/
def spillAddr (base size haddr hsize tile index : Nat) : Bool × Nat :=
  if index < 2 ^ 63 then (false, base + (tile * sharePlaces size + index) * 128)
  else (true, haddr + (tile * sharePlaces hsize + (index - 2 ^ 63)) * 128)

/-- The n-th group a tile spills: to the host?, its spill index in the slot, and its address; the host share follows when the
HBM share is full (08 R222). -/
def spillPlace (base size haddr hsize tile n : Nat) : Bool × Nat × Nat :=
  let h := sharePlaces size
  let i := if n < h then n else 2 ^ 63 + (n - h)
  let p := spillAddr base size haddr hsize tile i
  (p.1, i, p.2)

/-! ### Lines of saved tensors (08 R220–R222) -/

/-- The places of a step plan's spill areas (08 R231): of a tile's spill index. -/
def State.spillOf (s : State) (tile index : Nat) : Bool × Nat :=
  let f (o : Nat) : Nat := s.mem64 (s.prog.plan + o)
  spillAddr (f 0x38) (f 0x40) (f 0x48) (f 0x50) tile index

/-- The slot and exponent width of the group that a line of a BF16 saved tensor holds, for a layer that saves plane-packed or
recomputes: slots lie one behind the other from the tensor's base (08 R220, R221, R225; log entry 66). -/
def State.saveSlot (s : State) (h : Desc) (a : Int) : Option (Nat × Nat) :=
  if s.seqr.tag.isNone ∨ h.fmt ≠ fmtBF16 then none
  else
    match s.seqr.names.saved.find? fun x => x.tid == h.tid with
    | none => none
    | some x =>
      let e := Bytes.readLe s.hbm.mem (s.mem64 (s.prog.plan + 0x20) + x.row) 1
      if field e 1 0 = 0 ∨ field e 1 0 = 2 then
        (saveWidth e).map fun k => (h.base + (a.toNat - h.base) / 128 * (66 + 8 * k), k)
      else none

/-- What a written line becomes: as it is, its group's packed slot, or the head of a spilled slot with the raw bytes behind it; a
spilled group takes its tile's next place, in program order (08 R222). -/
def State.saveLine (s : State) (t : Nat) (slot : Option (Nat × Nat)) (data : List Byte) : State × List Byte :=
  match slot with
  | none => (s, data)
  | some (a, k) =>
    let l := unpackElems fmtBF16 64 data
    if groupFits k l then (s, packGroup k l)
    else
      let n := Sparse.get 0 s.seqr.spills t
      let f (o : Nat) : Nat := s.mem64 (s.prog.plan + o)
      let p := spillPlace (f 0x38) (f 0x40) (f 0x48) (f 0x50) t n
      ({ s with seqr := { s.seqr with spills := Sparse.set 0 s.seqr.spills t (n + 1), spilled := Sparse.set 0 s.seqr.spilled a (t + 1) } },
       spilledHead l p.2.1 ++ data)

/-- Where the raw group of an access of a saved tensor lies, when it is spilled: in the host buffer?, and its address. -/
def State.accessSpill (s : State) (a : Access) : Option (Bool × Nat) :=
  match a.save with
  | none => none
  | some sk =>
    let head := if a.write then a.data.take 10 else (List.range 10).map fun i => Bytes.read s.hbm.mem (sk.1 + i)
    if slotSpilled head && (!a.write || decide (128 < a.data.length)) then
      some (s.spillOf (if a.write then a.tile else Sparse.get 0 s.seqr.spilled sk.1 - 1) (leNat ((head.drop 2).take 8)))
    else none

end Sys2Proof.Machine
end

