-- ==== Sys2Proof/Machine/Queue.lean ====
section
/-!
DEFINITION. Rings, doorbells, tags, descriptors and completion records (12 R326–R343; 00 R10–R12; 14 R477; 16 R434).
-/

namespace Sys2Proof.Machine

/-! ### Ports, pages and host memory (12 R326, R342) -/

/-- The host port of a ring: false A, true B. -/
def ringPort (n : Nat) : Bool := decide (64 ≤ n)

/-- Bytes of a translation page (log entry 5). -/
def pageSize : Nat := 4096

/-- Entries of a port's translation cache. -/
def tcacheSize : Nat := 1024

/-- A page enters a port's translation cache; the oldest leaves when it is full. -/
def HostPort.cachePage (h : HostPort) (p : Nat) : HostPort :=
  if h.tcache.contains p then h else { h with tcache := (h.tcache ++ [p]).drop (h.tcache.length + 1 - tcacheSize) }

/-- Host addresses whose page the host denies. -/
def HostPort.denies (h : HostPort) (a : Nat) : Bool := h.denied.contains (a / pageSize)

/-- Bytes of a host access before the first denied page, and that page. -/
def HostPort.reach (h : HostPort) (a n : Nat) : Nat × Option Nat :=
  let ps := (List.range ((a + n) / pageSize + 1 - a / pageSize)).map (a / pageSize + ·)
  match ps.find? fun p => h.denied.contains p && decide (p * pageSize < a + n) with
  | none => (n, none)
  | some p => (Nat.max (p * pageSize) a - a, some p)

def State.hostRead (s : State) (b : Bool) (a n : Nat) : List Byte := Bytes.readN (s.hp b).mem a n

def State.hostWrite (s : State) (b : Bool) (a : Nat) (bs : List Byte) : State :=
  s.setHp b { s.hp b with mem := Bytes.writeN (s.hp b).mem a bs }

/-- The pages of a host access are translated. -/
def State.translate (s : State) (b : Bool) (a n : Nat) : State :=
  if n = 0 then s
  else
    let ps := (List.range ((a + n - 1) / pageSize - a / pageSize + 1)).map (a / pageSize + ·)
    s.setHp b (ps.foldl HostPort.cachePage (s.hp b))

/-! ### Descriptors (12 R331–R333) -/

/-- Field [hi:lo] of the 64-bit word at byte offset off. -/
def Op.field (o : Op) (off hi lo : Nat) : Nat := Sys2Proof.Machine.field (o.desc.toNat >>> (8 * off)) hi lo

def Op.word (o : Op) (off : Nat) : Nat := o.field off 63 0

def Op.fence (o : Op) : Bool := o.desc.getLsbD 8
def Op.irq (o : Op) : Bool := o.desc.getLsbD 9
def Op.user (o : Op) : Nat := o.field 0 63 32

def opLoad : Nat := 0x01
def opLaunch : Nat := 0x02
def opRunSteps : Nat := 0x03
def opH2d : Nat := 0x04
def opD2h : Nat := 0x05
def opStateRead : Nat := 0x06
def opSnapshot : Nat := 0x07
def opSignal : Nat := 0x08
def opWait : Nat := 0x09
def opCollLoad : Nat := 0x0A
def opPreempt : Nat := 0x0B
def opAbort : Nat := 0x0C
def opReplay : Nat := 0x0D

/-- The operand fields of an opcode: word offset, high and low bit. -/
def Op.used (o : Op) : List (Nat × Nat × Nat) :=
  let w (off : Nat) : Nat × Nat × Nat := (off, 63, 0)
  match o.opcode with
  | 0x01 =>
    if o.field 0x10 40 40 = 1 then [(0x10, 40, 40)]
    else [w 0x08, (0x10, 40, 0), w 0x18] ++ (if o.word 0x18 = 0 then [w 0x20, (0x28, 15, 0)] else [])
  | 0x02 => [w 0x08]
  | 0x03 => [(0x08, 31, 0)]
  | 0x04 => [w 0x08, w 0x10, (0x18, 39, 0)]
  | 0x05 => [w 0x08, w 0x10, (0x18, 39, 0), (0x20, 0, 0), (0x20, 31, 16)]
  | 0x06 => [w 0x08, (0x10, 31, 0), (0x18, 32, 0)]
  | 0x07 => [w 0x08, w 0x10, (0x18, 8, 0)]
  | 0x08 => [(0x08, 8, 0), w 0x10]
  | 0x09 => [(0x08, 7, 0), w 0x10]
  | 0x0A => [w 0x08, w 0x10, w 0x18, w 0x20, (0x28, 42, 0)]
  | 0x0B => []
  | 0x0C => [(0x08, 19, 0)]
  | 0x0D => [w 0x08, w 0x10, w 0x18, w 0x20, w 0x28, w 0x30, w 0x38]
  | _ => []

/-- Every unused bit is zero. -/
def Op.reservedClear (o : Op) : Bool :=
  let d := o.desc.toNat
  let d := setField d 7 0 0
  let d := setField d 9 8 0
  let d := setField d 63 32 0
  decide (o.used.foldl (fun v f => setField v (8 * f.1 + f.2.1) (8 * f.1 + f.2.2) 0) d = 0)

/-- A DMA: LEN a non-zero multiple of 4, the device end inside HBM or the tiles. -/
def Op.dmaInRange (o : Op) : Bool :=
  let n := o.field 0x18 39 0
  let a := o.word 0x10
  n != 0 && n % 4 == 0
    && (if isTileLinear a then decide (a % 2 ^ 63 + n ≤ 2 ^ 30) else decide (a + n ≤ hbmTop))

/-- n bytes from an HBM address on lie in HBM (13 R355). -/
def inHbm (a n : Nat) : Bool := decide (a + n ≤ hbmTop)

/-- The operands lie in their ranges; HBM addresses are below 2^39 (13 R355). -/
def Op.inRange (o : Op) : Bool :=
  match o.opcode with
  | 0x01 =>
    o.field 0x10 40 40 == 1
      || (inHbm (o.word 0x08) (o.field 0x10 39 0) && inHbm (o.word 0x18) 128
            && (o.word 0x18 != 0 || inHbm (o.word 0x20) (16 * o.field 0x28 15 0)))
  | 0x02 => o.word 0x08 % 5 == 0
  | 0x03 => o.field 0x08 31 0 != 0
  | 0x04 => o.dmaInRange
  | 0x05 => o.dmaInRange
  | 0x06 =>
    let n := o.field 0x18 32 0
    n != 0 && n % 64 == 0 && decide (o.field 0x10 31 0 + n ≤ 2 ^ 32)
  | 0x07 => o.field 0x18 8 8 == 1 || inHbm (o.word 0x08) (Nat.min 64 (o.word 0x10))
  | 0x0A =>
    decide (o.field 0x28 8 0 ≤ 256) && decide (o.field 0x28 21 9 ≤ 4096) && decide (o.field 0x28 42 22 ≤ 2 ^ 20)
      && inHbm (o.word 0x08) (2 * 4112) && inHbm (o.word 0x10) (16 * o.field 0x28 8 0) && inHbm (o.word 0x18) (64 * o.field 0x28 21 9)
      && inHbm (o.word 0x20) (4 * o.field 0x28 42 22)
  | 0x0D => [0x08, 0x10, 0x30, 0x38].all fun off => decide (o.word off < hbmTop)
  | _ => true

/-- A descriptor the part runs: known opcode, reserved fields zero, operands in range (12 R333). -/
def Op.valid (o : Op) : Bool := decide (1 ≤ o.opcode ∧ o.opcode ≤ 0x0D) && o.reservedClear && o.inRange

/-- Operations that occupy the tiles (12 R337). -/
def Op.usesTiles (o : Op) : Bool :=
  o.opcode == opLoad || o.opcode == opLaunch || o.opcode == opRunSteps || o.opcode == opReplay || o.opcode == opCollLoad

/-! ### When an operation may start (12 R331, R337, R340) -/

/-- The operations in flight. -/
def State.opList (s : State) : List (Nat × Op) :=
  s.q.ops.filterMap fun c => c.2.map fun o => (c.1, o)

/-- An operation has ended but for its record. -/
def Op.ovf (o : Op) : Bool := match o.phase with | .finished => true | _ => false

def Op.notStarted (o : Op) : Bool := match o.phase with | .fetched => true | _ => false

/-- A WAIT that still waits, Held or not. -/
def Op.waits (o : Op) : Bool := o.opcode == opWait && !o.ovf && !o.notStarted

/-- An operation keeps another from starting: ring order, FENCE, a WAIT that holds the ring; the tiles one operation at a time in
fetch order, a pre-empted one excepted; a SNAPSHOT still to be taken holds later tile operations. -/
def State.blocks (s : State) (x : Nat × Op) (tag : Nat) (o : Op) : Bool :=
  let p := x.2
  x.1 != tag && decide (p.order < o.order)
    && ((p.ring == o.ring && (p.notStarted || o.fence || p.waits))
        || (o.usesTiles && p.usesTiles && !p.ovf && s.ag.savedTag != some x.1)
        || (o.usesTiles && p.opcode == opSnapshot && p.todo && !p.ovf))

/-- No operation keeps this one from starting. -/
def State.mayStart (s : State) (tag : Nat) (o : Op) : Bool := s.opList.all fun x => !s.blocks x tag o

/-- Compute requests end with RESTRICTED_MODE on a restricted part (00 R3, 13 R375). -/
def Op.compute (o : Op) : Bool :=
  (o.opcode == opLoad && o.field 0x10 40 40 == 0) || o.opcode == opLaunch || o.opcode == opRunSteps || o.opcode == opReplay

/-- Runs an operation of an opcode that may start now, with `f`; nothing happens when it may not. -/
def State.startOp (s : State) (tag opcode : Nat) (f : Op → State → State) : State :=
  match s.op tag with
  | none => s
  | some o =>
    if o.opcode = opcode ∧ o.phase = .fetched ∧ s.mayStart tag o = true then
      if o.compute && s.restricted then s.endEarly tag [stRestricted]
      else f o (s.updOp tag fun o => { o with phase := .started })
    else s

/-! ### Fetching (12 R328, R329, R337, R338, R343) -/

/-- A note on a ring. -/
def State.ringRecord (s : State) (n : Nat) (st : BitVec 8) (sev : Nat) (detail : List Nat) : State :=
  s.logCause { status := st, sev := sev, src := srcRing, unit := n, tag := none, detail := detail }

/-- Direction codes of a translation-fault record: 0 host read, 1 host write (log entry 33). -/
def dirRead : Nat := 0
def dirWrite : Nat := 1

/-- A descriptor or doorbell fetch faults: the ring holds at the descriptor, and a record says where, with the response code. -/
def State.fetchFault (s : State) (n a code : Nat) : State :=
  let w := s.work n
  (s.setWork n { w with xfault := true, faultAt := none }).ringRecord n stTranslation 0 [n, w.head, 0, a, dirRead, code]

/-- A descriptor or doorbell lies on a page that the host denies: a page request goes out, and the ring waits for its answer (R342). -/
def State.askRing (s : State) (n a : Nat) : State :=
  (s.setWork n { s.work n with faultAt := some a }).emit (.pageRequest (ringPort n) (a / pageSize))

/-- The lowest class that has a ring ready and can obtain a tag. -/
def State.fetchClass (s : State) : Option Nat :=
  (List.range 4).find? fun c => (s.q.work.any fun w => w.2.ready && w.2.cls == c) && (s.tagFor c).isSome

/-- Within a class, round-robin in ascending ring number after the last served. -/
def State.fetchRing (s : State) (c : Nat) : Option Nat :=
  let rs := (s.q.work.filter fun w => w.2.ready && w.2.cls == c).map (·.1)
  let next := Sparse.get 0 s.q.rr c
  match rs.filter fun n => decide (next ≤ n) with
  | n :: _ => some n
  | [] => rs.head?

/-- A tag is taken for a descriptor. -/
def State.takeTag (s : State) (n c tag : Nat) (bs : List Byte) : State :=
  let w := s.work n
  let o : Op := { ring := n, cls := c, opcode := (bs.getD 0 0).toNat, dpos := w.head, desc := BitVec.ofNat 512 (leNat bs),
                  phase := .fetched, statuses := [], result := 0, moved := 0, torn := false, heldBefore := false,
                  order := s.q.fetchNo, faultAt := none, lost := false, todo := (bs.getD 0 0).toNat == opSnapshot, image := [], stalled := false,
                  owed := [], recHeld := false }
  let s := s.setWork n { w with head := w.head + 1 }
  let s := { s with q := { s.q with fetchNo := s.q.fetchNo + 1, rr := Sparse.set 0 s.q.rr c (n + 1) } }
  let s := s.setOp tag (some o)
  if o.valid then s else s.endEarly tag [stInvalid]

/-- Fetches one pending descriptor. -/
def execDescriptorFetch (s : State) : Host.Outcome State Fault Refusal :=
  match s.fetchClass with
  | none => ok s
  | some c =>
    match s.fetchRing c, s.tagFor c with
    | some n, some tag =>
      let w := s.work n
      let b := ringPort n
      let a := w.base.toNat + 64 * (w.head % w.entries)
      if (s.hp b).denies a then ok (s.askRing n a)
      else ok ((s.translate b a 64).takeTag n c tag (s.hostRead b a 64))
    | _, _ => ok s

/-- The producer count is read: an inconsistent one halts the ring with DBERR and a record of both values. -/
def State.readDoorbell (s : State) (n : Nat) : State :=
  let w := s.work n
  let b := ringPort n
  let a := w.db.toNat
  if (s.hp b).denies a then s.askRing n a
  else
    let s := s.translate b a 8
    let v := leNat (s.hostRead b a 8)
    if v < w.head ∨ w.head + w.entries < v then
      (s.setWork n { w with dbErr := true }).ringRecord n stOk 0 [v, w.head]
    else s.setWork n { w with prod := v }

/-- Host stores that precede a doorbell read. -/
def State.hostStores (s : State) (b : Bool) (m : Bytes) : State :=
  s.setHp b { s.hp b with mem := m.foldl (fun x c => Bytes.write x c.1 c.2) (s.hp b).mem }

/-- A snooped doorbell line is invalidated by a host store and read again; the line is Shared while the ring watches it. -/
def execDoorbellSnoop (n : Nat) (stores : Bytes) (s : State) : Host.Outcome State Fault Refusal :=
  let s := s.hostStores (ringPort n) stores
  let w := s.work n
  if n < 128 ∧ w.enabled = true ∧ w.snoop = true ∧ w.noSnoop = false ∧ w.dbErr = false ∧ w.xfault = false ∧ w.faultAt = none then
    let s := s.readDoorbell n
    ok (s.setWork n { s.work n with snoopLine := true })
  else ok s

/-- A polled doorbell is read; a SNOOP ring on a port without CXL.cache is polled too. -/
def execDoorbellPoll (n : Nat) (stores : Bytes) (s : State) : Host.Outcome State Fault Refusal :=
  let s := s.hostStores (ringPort n) stores
  let w := s.work n
  if n < 128 ∧ w.enabled = true ∧ (w.snoop = false ∨ w.noSnoop = true) ∧ w.dbErr = false ∧ w.xfault = false ∧ w.faultAt = none then ok (s.readDoorbell n)
  else ok s

/-! ### Completion records (12 R334–R336; 00 R11, R12; 14 R477) -/

def CompRing.entries (c : CompRing) : Nat := 2 ^ field c.cfg.toNat 27 24

/-- The 32 bytes of a record. -/
def State.recordOf (s : State) (c : CompRing) (tag : Nat) (o : Op) (st : BitVec 8) (held : Bool) (result : W64) : List Byte :=
  let phase := b2n (decide (c.chead / c.entries % 2 = 0))
  let w0 := (stCode st).toNat + phase * 2 ^ 8 + b2n held * 2 ^ 9 + b2n o.torn * 2 ^ 10 + tag * 2 ^ 16 + o.ring * 2 ^ 28
  leBytes 8 w0 ++ leBytes 4 o.user ++ leBytes 4 o.dpos ++ leBytes 8 result.toNat ++ leBytes 8 s.tb.count

/-- An operation stops at a byte whose page the host denies: a page request goes out (12 R342). -/
def State.pageRequest (s : State) (tag at_ moved : Nat) : State :=
  match s.op tag with
  | none => s
  | some o => (s.updOp tag fun o => { o with faultAt := some at_, moved := moved }).emit (.pageRequest (ringPort o.ring) (at_ / pageSize))

/-- The address of the next record of a completion ring. -/
def CompRing.nextAt (c : CompRing) : Nat := c.base.toNat + 32 * (c.chead % c.entries)

/-- A record goes to the operation's completion ring; none when the ring is full, and the wait is counted once, or while its page is
denied (R342). A record of a port that was reset is discarded and counted (12 R353). -/
def State.writeRecord (s : State) (tag : Nat) (o : Op) (st : BitVec 8) (held : Bool) (result : W64) : Option State × State :=
  let b := ringPort o.ring
  if o.lost then (some (s.setHp b { s.hp b with lost := satAdd 32 (s.hp b).lost 1 }), s)
  else
    let n := (s.work o.ring).cring
    let c := s.comp n
    if c.entries ≤ c.chead - c.ctail then (none, if o.stalled then s
        else (s.setComp n { c with cstall := satAdd 32 c.cstall 1 }).updOp tag fun o => { o with stalled := true })
    else if o.recHeld || o.faultAt.isSome then (none, s)
    else if (s.hp b).denies c.nextAt then (none, s.pageRequest tag c.nextAt o.moved)
    else
      let s1 := (s.translate b c.nextAt 32).hostWrite b c.nextAt (s.recordOf c tag o st held result)
      let s1 := s1.setComp n { c with chead := c.chead + 1 }
      (some (if o.irq && !held && c.cfg.getLsbD 0 then s1.emit (.msix b (field c.cfg.toNat 14 8)) else s1), s)

/-- The statuses a record does not carry go to the fault log with the tag, with the SEV of R477. Their SRC, the queue rings, UNIT, the
operation's ring, and DETAIL, no words, are the model's (DESIGN CHOICE, log entry 123). -/
def State.logOthers (s : State) (tag : Nat) (chosen : BitVec 8) (sts : List (BitVec 8)) : State :=
  (sts.filter fun x => x != chosen && x != stOk).foldl
    (fun s x => s.logCause { status := x, sev := stSev x, src := srcRing, unit := ((s.op tag).map (·.ring)).getD 0,
                             tag := some tag, detail := [] }) s

/-- Every HBM access that a tile has issued is complete (13 R479). -/
def State.accessesDone (s : State) : Bool :=
  s.hbm.deliver.isEmpty && s.hbm.plan.all fun a => decide (a.state ≠ .issued)

/-- The running program has nothing left to do: its tiles have ended and its accesses are served; a stop has taken its
course. -/
def State.programDone (s : State) : Bool :=
  s.programRuns && s.tilesQuiet && s.accessesDone && !s.recov.active
    && (if s.prog.stopped then s.ag.stop.isNone else s.imageTiles.all fun t => (s.tile t).seq.run == .halted)

/-- The program's operation has its final record: the program is loaded and runs no more (16 R431). -/
def State.programEnds (s : State) (tag : Nat) : State :=
  if s.prog.tag = some tag then
    { s with
      gbl := { s.gbl with prog := if s.saved.isSome then 3 else 1 }
      prog := { s.prog with tag := none, stopped := false }
      ag := { s.ag with stop := none, drain := false, abortEnd := false, snapAt := none }
      seqr := if s.seqr.tag = some tag then { s.seqr with tag := none, phase := 0 } else s.seqr }
  else if s.seqr.tag = some tag then { s with seqr := { s.seqr with tag := none, phase := 0 } }
  else s

/-- The step's chosen status, when it is not OK, goes to the fault log with the step counter. -/
def State.logStep (s : State) (tag : Nat) : State :=
  let st := stChoose s.seqr.stepStatus
  if st = stOk then s
  else s.logCause { status := st, sev := stSev st, src := srcStep, unit := 0, tag := some tag, detail := [s.gbl.step.toNat] }

/-- An operation of the running program that is complete finishes: a launched program at its end, a run that was stopped, whose step logs its
status (08 R236). -/
def State.detectEnd (s : State) (tag : Nat) (o : Op) : State :=
  if s.prog.tag = some tag ∧ o.phase = .started ∧ s.programDone = true ∧ (o.opcode = opLaunch ∨ s.prog.stopped = true) then
    if o.opcode = opLaunch then s.finish tag [] o.result
    else (if s.seqr.tag = some tag then s.logStep tag else s).endEarly tag []
  else s

/-- Writes the record an operation waits for: a Held record that it owes, its Held record, or the final one, which frees the tag. -/
def execCompletionRecordWrite (tag : Nat) (s : State) : Host.Outcome State Fault Refusal :=
  match s.op tag with
  | none => ok s
  | some o =>
    let s := s.detectEnd tag o
    let o := (s.op tag).getD o
    match o.owed, o.phase with
    | e :: l, _ =>
      match s.writeRecord tag o e.1 true e.2 with
      | (none, s) => ok s
      | (some s, _) => ok (s.updOp tag fun o => { o with owed := l, heldBefore := true, stalled := false })
    | [], .holding st r =>
      match s.writeRecord tag o st true r with
      | (none, s) => ok s
      | (some s, _) =>
        let s := s.updOp tag fun o => { o with phase := .held st, heldBefore := true, stalled := false }
        ok (if st = stPreempted then { s with gbl := { s.gbl with prog := 3 } } else s)
    | [], .finished =>
      let st := stChoose o.statuses
      match s.writeRecord tag o st false o.result with
      | (none, s) => ok s
      | (some s, _) => ok (((s.logOthers tag st o.statuses).programEnds tag).setOp tag none)
    | [], _ => ok s

/-! ### SIGNAL and WAIT (12 R339–R341) -/

def execSignalDescriptor (tag : Nat) (s : State) : Host.Outcome State Fault Refusal :=
  ok (s.startOp tag opSignal fun o s =>
    let i := o.field 0x08 7 0
    let v := BitVec.ofNat 64 (o.word 0x10)
    let v := if o.field 0x08 8 8 = 1 then s.flag i + v else v
    (s.landFlag i v).finish tag [] v)

/-- The flag a WAIT awaits has its threshold. -/
def State.waitMet (s : State) (o : Op) : Bool := decide (o.word 0x10 ≤ (s.flag (o.field 0x08 7 0)).toNat)

/-- A WAIT completes, and its ring is released. -/
def State.endWait (s : State) (tag : Nat) (o : Op) (sts : List (BitVec 8)) : State :=
  let s := s.finish tag sts (s.flag (o.field 0x08 7 0))
  s.setWork o.ring { s.work o.ring with waiting := false, wcyc := false }

def execWaitDescriptor (tag : Nat) (s : State) : Host.Outcome State Fault Refusal :=
  ok (s.startOp tag opWait fun o s =>
    if s.waitMet o then s.endWait tag o [] else s.setWork o.ring { s.work o.ring with waiting := true })

def execWaitDescriptorDone (tag : Nat) (s : State) : Host.Outcome State Fault Refusal :=
  match s.op tag with
  | none => ok s
  | some o =>
    if o.waits = true ∧ s.waitMet o = true then ok (s.endWait tag o [])
    else ok s

/-- Counts a wait cycle must hold: 100 µs. -/
def waitCycleTime : Nat := 100000

/-- A list of operations with one more, in ascending fetch order. -/
def insertOp (x : Nat × Op) : List (Nat × Op) → List (Nat × Op)
  | [] => [x]
  | y :: l => if x.2.order < y.2.order then x :: y :: l else y :: insertOp x l

/-- A pre-empted program's operation, which waits for the class-0 work that pre-empted it (12 R345). -/
def State.pausedBy (s : State) (y x : Nat × Op) : Bool := s.ag.savedTag == some x.1 && y.1 != x.1 && y.2.cls == 0

/-- Tags of operations that cannot go on before a WAIT has: not started behind a WAIT that waits, or behind one of these, or
pre-empted by class-0 work that does (log entry 34). -/
def State.stuckOps (s : State) : List Nat :=
  let ops := s.opList.foldr insertOp []
  let held (acc : List Nat) (y : Nat × Op) : Bool := y.2.waits || acc.contains y.1
  let first := ops.foldl
    (fun acc x => if x.2.notStarted && ops.any (fun y => s.blocks y x.1 x.2 && held acc y) then acc ++ [x.1] else acc) []
  first ++ (ops.filter fun x => ops.any fun y => s.pausedBy y x && held first y).map (·.1)

/-- The flags of a program: those its code and its collective entries name, PROG_FLAG of a step run. -/
def State.progRaises (s : State) (p : Prog) (steps : Bool) (flag : Nat) : Bool :=
  p.flagSet.contains flag || (s.coll.entries.any fun e => e.dflag == flag)
    || (steps && Bytes.readLe s.hbm.mem (p.plan + 0x66) 1 == flag)

/-- An operation in flight that can raise a flag: a SIGNAL; a program's operation, the flags of its program: the running one, the
pre-empted one, or the one loaded when the operation has yet to start; behind a load in flight any flag (log entry 34). -/
def State.canRaise (s : State) (x : Nat × Op) (flag : Nat) : Bool :=
  let o := x.2
  let loads := s.opList.any fun y => y.2.opcode == opLoad && !y.2.ovf && decide (y.2.order < o.order)
  if o.ovf then false
  else if o.opcode = opSignal then o.field 0x08 7 0 == flag
  else if o.opcode = opLaunch ∨ o.opcode = opRunSteps ∨ o.opcode = opReplay then
    let steps := o.opcode != opLaunch
    if s.ag.savedTag = some x.1 then
      (match s.saved with | none => false | some v => s.progRaises v.prog steps flag)
    else s.progRaises s.prog steps flag || (s.prog.tag != some x.1 && loads)
  else false

/-- The condition of R341 at an examination. -/
def State.waitCycle (s : State) : Bool :=
  let ws := s.opList.filter fun x => x.2.waits
  let stuck := s.stuckOps
  !ws.isEmpty
    && (s.q.work.all fun w => !(w.2.enabled && decide (w.2.head < w.2.prod)) || w.2.waiting)
    && (ws.all fun x => !s.waitMet x.2 && s.opList.all fun y => stuck.contains y.1 || !s.canRaise y (x.2.field 0x08 7 0))

/-- Ascending numbers of a list, each once, below n. -/
def ascending (n : Nat) (l : List Nat) : List Nat := (List.range n).filter fun k => l.contains k

/-- The detector's examination: a cycle that has held for 100 µs makes every waiting operation Held; its fault record lists every
ring and flag of the cycle. -/
def execWaitCycleCheck (s : State) : Host.Outcome State Fault Refusal :=
  if s.waitCycle then
    let t := s.q.cycleSince.getD s.tb.count
    let s := { s with q := { s.q with cycleSince := some t } }
    let all := s.opList.filter fun x => x.2.waits
    let ws := all.filter fun x => decide (x.2.phase = .started)
    if t + waitCycleTime ≤ s.tb.count ∧ ws.isEmpty = false then
      let rings := ascending 128 (all.map fun x => x.2.ring)
      let flags := ascending 256 (all.map fun x => x.2.field 0x08 7 0)
      let s := ws.foldl (fun s x =>
        let s := s.hold x.1 stWaitCycle (BitVec.ofNat 64 (x.2.field 0x08 7 0))
        s.setWork x.2.ring { s.work x.2.ring with wcyc := true }) s
      ok (s.ringRecord (rings.headD 0) stWaitCycle 0 (rings ++ flags.map (0x100 + ·)))
    else ok s
  else ok { s with q := { s.q with cycleSince := none } }

/-! ### Ring registers (12 R326, R327, R329, R336) -/

/-- LOG2N lies in 6–15 (the field holds no 16; log entry 35). -/
def log2nOk (cfg : W64) : Bool := decide (6 ≤ field cfg.toNat 27 24)

/-- The defined bits of Q_WCFG; reserved bits read as 0 (00 R8). -/
def wcfgMask : W64 := 0x0000FFFC0F030001#64

/-- The strap of a host port was 1 when it was sampled (17 R455): false A, true B. -/
def State.portEnabled (s : State) (b : Bool) : Bool := s.pwr.strapHeld.getLsbD (if b then 2 else 1)

/-- The fields of a ring about to be enabled are in range: ring sizes, CRING in the same port range; its port is enabled. -/
def State.ringOk (s : State) (n : Nat) (cfg : W64) : Bool :=
  let r := field cfg.toNat 47 41
  s.portEnabled (ringPort n) && log2nOk cfg && ringPort r == ringPort n && log2nOk (s.comp r).cfg

/-- Q_WCFG[n] written with ENABLE set: the ring starts with its counts at 0, or CFGERR. A write that changes fields of a ring
that is enabled is ignored, with CFGERR. -/
def execRingEnable (n : Nat) (cfg : W64) (s : State) : Host.Outcome State Fault Refusal :=
  if s.ready = true ∧ n < 128 ∧ cfg.getLsbD 0 = true then
    let cfg := cfg &&& wcfgMask
    let w := s.work n
    if w.enabled then ok (if w.cfg = cfg then s else s.setWork n { w with cfgErr := true })
    else if s.ringOk n cfg then
      let c := s.comp n
      let cold := cfg.getLsbD 34 && !(s.hp (ringPort n)).cxl
      let w := { w with cfg := cfg, head := 0, prod := 0, cfgErr := false, dbErr := false, noSnoop := cold, snoopLine := false, faultAt := none }
      ok ((s.setWork n w).setComp n { c with chead := 0, ctail := 0 })
    else ok (s.setWork n { w with cfg := cfg &&& ~~~1, cfgErr := true })
  else ok s

/-- Q_WCFG[n] written with ENABLE clear: fetch stops at once; what is fetched runs on. Other fields change only while the ring
is not enabled: a write that clears ENABLE and changes them sets CFGERR. -/
def execRingDisable (n : Nat) (cfg : W64) (s : State) : Host.Outcome State Fault Refusal :=
  if s.ready = true ∧ n < 128 ∧ cfg.getLsbD 0 = false then
    let cfg := cfg &&& wcfgMask
    let w := s.work n
    if w.enabled then
      ok (s.setWork n { w with cfg := w.cfg &&& ~~~1, snoopLine := false, cfgErr := w.cfgErr || w.cfg &&& ~~~1 != cfg })
    else ok (s.setWork n { w with cfg := cfg })
  else ok s

/-- Q_CTAIL[n]: records the host has consumed; a value above Q_CHEAD is ignored and logged. -/
def execQCtailWrite (n : Nat) (v : W64) (s : State) : Host.Outcome State Fault Refusal :=
  if s.ready = true ∧ n < 128 then
    let c := s.comp n
    if c.chead < v.toNat then ok (s.ringRecord n stOk 0 [v.toNat, c.chead])
    else ok (s.setComp n { c with ctail := v.toNat })
  else ok s

/-! ### Translation faults (12 R342, R343) -/

/-- The host address of an operation that uses host memory; every opcode has it at 0x08. -/
def Op.hostAddr (o : Op) : Nat := o.word 0x08

def Op.hostDir (o : Op) : Nat := if o.opcode = opH2d then dirRead else dirWrite

/-- The operation waits to write a record. -/
def Op.writes (o : Op) : Bool :=
  !o.owed.isEmpty || (match o.phase with | .holding _ _ => true | .finished => true | _ => false)

/-- A translation fault holds the operation, or its record. -/
def Op.faulted (o : Op) : Bool :=
  o.recHeld || (match o.phase with | .held st => st == stTranslation | .holding st _ => st == stTranslation | _ => false)

/-- The ports that an operation uses: its ring's, and for the step run that of the shadow-stream ring. -/
def State.opPorts (s : State) (tag : Nat) (o : Op) : List Bool :=
  ringPort o.ring :: (if s.seqr.tag = some tag then [s.ss.ctrl.getLsbD 3] else [])

/-- The port through which the step run reaches the host spill buffer: its ring's (log entry 66). -/
def State.stepPort (s : State) : Bool :=
  match s.seqr.tag with
  | none => false
  | some g => match s.op g with | none => false | some o => ringPort o.ring

/-- The host address of an access's spilled group, when its page is denied (12 R352). -/
def State.spillDenied (s : State) (a : Access) : Option Nat :=
  match s.accessSpill a with
  | none => none
  | some p => if p.1 && (s.hp s.stepPort).denies p.2 then some p.2 else none

/-- An access of the step run to the host meets a denied page: it is held, and a page request goes out unless one is out already or a
translation fault holds the run (12 R342, R343, R352). -/
def State.askStep (s : State) (b : Bool) (a : Nat) : State :=
  match s.seqr.tag with
  | none => s
  | some g => match s.op g with
    | none => s
    | some o =>
      if o.faultAt.isSome || o.faulted then s
      else (s.updOp g fun o => { o with faultAt := some a }).emit (.pageRequest b (a / pageSize))

/-- The page request of an operation fails: it is Held at the faulting byte, its ring holds, and a record says where, with the response
code. An operation whose record met the fault keeps the record, which waits (log entry 124). -/
def State.translationFault (s : State) (tag : Nat) (o : Op) (code : Nat) : State :=
  let s := s.updOp tag fun o => { o with faultAt := none }
  let s := s.setWork o.ring { s.work o.ring with xfault := true }
  let say (off a dir : Nat) (s : State) : State :=
    s.logCause { status := stTranslation, sev := 0, src := srcRing, unit := o.ring, tag := some tag,
                 detail := [o.ring, o.dpos, off, a, dir, code] }
  if o.writes then
    say 0 (s.comp (s.work o.ring).cring).nextAt dirWrite (s.updOp tag fun o => { o with recHeld := true })
  else say o.moved (o.faultAt.getD (o.hostAddr + o.moved)) o.hostDir (s.hold tag stTranslation (BitVec.ofNat 64 o.moved))

/-- Rings of a port that wait for the answer to a page request. -/
def State.askedRings (s : State) (port : Bool) (page : Nat) : List (Nat × Nat) :=
  s.q.work.filterMap fun w =>
    match w.2.faultAt with
    | none => none
    | some a => if ringPort w.1 = port ∧ a / pageSize = page then some (w.1, a) else none

/-- The answer to a page request: with code 0 the page is there, with any other the access faults (log entry 33). -/
def execPageRequestResponse (port : Bool) (page : Nat) (code : BitVec 4) (s : State) : Host.Outcome State Fault Refusal :=
  let mine := s.opList.filter fun x => x.2.faultAt.map (· / pageSize) == some page && (s.opPorts x.1 x.2).contains port
  let rings := s.askedRings port page
  if mine.isEmpty && rings.isEmpty then ok s
  else if code = 0 then
    let h := s.hp port
    let s := s.setHp port ({ h with denied := h.denied.filter (· != page) }.cachePage page)
    let s := rings.foldl (fun s r => s.setWork r.1 { s.work r.1 with faultAt := none }) s
    ok (mine.foldl (fun s x => s.updOp x.1 fun o => { o with faultAt := none }) s)
  else
    let s := rings.foldl (fun s r => s.fetchFault r.1 r.2 code.toNat) s
    ok (mine.foldl (fun s x => s.translationFault x.1 x.2 code.toNat) s)

/-- An ATS invalidation: the page leaves the cache; later accesses use the new translation, which may deny it. -/
def execAtsInvalidation (port : Bool) (page : Nat) (deny : Bool) (s : State) : Host.Outcome State Fault Refusal :=
  let h := s.hp port
  let d := h.denied.filter (· != page)
  ok (s.setHp port { h with tcache := h.tcache.filter (· != page), denied := if deny then d ++ [page] else d })

/-- The operations that translation faults hold on a ring. -/
def State.faultedOps (s : State) (n : Nat) : List (Nat × Op) := s.opList.filter fun x => x.2.ring == n && x.2.faulted

/-- RETRY of an operation: it translates again and resumes at the faulting byte; a Held record not yet written is owed. -/
def Op.retry (o : Op) : Op := if o.recHeld then { o with recHeld := false } else { o.owing with phase := .started }

/-- RETRY: every operation that a translation fault holds on the ring goes on. -/
def execFaultRespRetry (n : Nat) (s : State) : Host.Outcome State Fault Refusal :=
  if s.ready = false ∨ 128 ≤ n then ok s
  else if (s.work n).xfault = false then ok (s.logIgnored (0x20028 + 0x80 * n))
  else
    let s := s.setWork n { s.work n with xfault := false }
    ok ((s.faultedOps n).foldl (fun s x => s.updOp x.1 Op.retry) s)

/-- ABORT of an operation that a translation fault holds: it completes with ABORTED, the running program's by a stop of the domain; one
that has ended already keeps its end. -/
def State.abortFaulted (s : State) (tag : Nat) (o : Op) : State :=
  let s := s.updOp tag fun o => { o with recHeld := false }
  if o.ovf then s.addStatusTo tag stAborted
  else if s.prog.tag = some tag then
    let drop (a : Access) : Access := if (s.spillDenied a).isSome then { a with state := .withdrawn } else a
    let s := { s with hbm := { s.hbm with plan := s.hbm.plan.map drop } }
    ((s.updOp tag fun o => { o.owing with phase := .started }).addStatus stAborted).announceStop stAborted false
  else s.endEarly tag [stAborted]

/-- ABORT: the operations that translation faults hold on the ring complete with ABORTED; what has moved stays moved. -/
def execFaultRespAbort (n : Nat) (s : State) : Host.Outcome State Fault Refusal :=
  if s.ready = false ∨ 128 ≤ n then ok s
  else if (s.work n).xfault = false then ok (s.logIgnored (0x20028 + 0x80 * n))
  else
    let s := s.setWork n { s.work n with xfault := false }
    ok ((s.faultedOps n).foldl (fun s x => s.abortFaulted x.1 x.2) s)

end Sys2Proof.Machine
end

