-- ==== Sys2Proof/Machine/HbmOps.lean ====
section
/-!
DEFINITION. The memory managers (13 R356–R364): line slots in program order, deliveries, refresh frames, error counts, free-run
mode, and the background test engine (13 R370–R374).
-/

namespace Sys2Proof.Machine

/-! ### Line slots (13 R356–R359, R479) -/

/-- Line number of an address (13 R355). -/
def hbmLine (a : Nat) : Nat := a / 128

/-- An access that will still be served: issued, or assigned in the section its live tile runs. -/
def State.liveAccess (s : State) (a : Access) : Bool :=
  match a.state with
  | .issued => true
  | .assigned =>
    let q := (s.tile a.tile).seq
    q.run.live && q.sect.toNat == a.sect && !s.issueHeld
  | _ => false

/-- Position in the plan of the access a pseudo-channel serves next: program order, without those that will not be issued. -/
def State.nextAccess (s : State) (pc : Nat) : Option Nat :=
  (List.range s.hbm.plan.length).find? fun i =>
    match s.hbm.plan[i]? with
    | none => false
    | some a => hbmPc a.hbm == pc && s.liveAccess a

/-- Another access of the section and the pseudo-channel has a slot assigned; that of a withdrawn access stays unused (13 R359, R479). -/
def State.slotTaken (s : State) (pc sect me frame k : Nat) : Bool :=
  (List.range s.hbm.plan.length).any fun i =>
    match s.hbm.plan[i]? with
    | none => false
    | some a => i != me && hbmPc a.hbm == pc && a.sect == sect && a.frame == frame && a.slot == k

/-- The pseudo-channel is dead, in error, or its die is in free-run mode: no slot is served. -/
def State.pcHeld (s : State) (pc : Nat) : Bool :=
  ((Sparse.get 0 s.hbm.dead (pc / 64)).getLsbD (pc % 64)) || s.recov.pch.any (fun e => e.1 == pc)
    || (if pc < 256 then s.hbm.freeRun0 else s.hbm.freeRun1)

/-- Changes access i of the plan. -/
def State.updAccess (s : State) (i : Nat) (f : Access → Access) : State :=
  match s.hbm.plan[i]? with
  | none => s
  | some a => { s with hbm := { s.hbm with plan := s.hbm.plan.set i (f a) } }

/-- The record of an access served in a later slot than its own: SRC 0x60 + controller (05 R151, 13 R359). -/
def State.lateAccess (s : State) (a : Access) (n : Nat) : State :=
  let own := slotStart (8 * a.frame + a.slot)
  if n ≤ own ∨ s.reexecuting a.tile then s
  else
    let read := if a.write then 0 else 288
    s.lateRecord (s.prog.launch + s.countsOf (own + read)) (s.countsOf (n - own)) 0 (0x60 + hbmPc a.hbm / 64) a.fails 0 a.tile

/-- An access can be served in a slot that starts at cycle n: it has been issued, is eligible by then, and has its data if an index
engine writes them (13 R357; log entry 119). -/
def Access.ready (a : Access) (n : Nat) : Bool :=
  decide (a.state = .issued ∧ a.elig ≤ n) && !(a.write && a.engine.isSome && a.data.isEmpty)

/-- The data of a write go to HBM: a line as it is, a saved tensor's group to its slot, the raw bytes of a spilled one to their place,
which is counted (08 R221, R222). -/
def State.putLine (s : State) (a : Access) : State :=
  match a.save, s.accessSpill a with
  | some sk, some p =>
    let s := s.hbmWrite sk.1 (a.data.take 10)
    if p.1 then
      let s := (s.translate s.stepPort p.2 128).hostWrite s.stepPort p.2 (a.data.drop 10)
      { s with seqr := { s.seqr with spillHost := s.seqr.spillHost + 1 } }
    else
      let s := s.hbmWrite p.2 (a.data.drop 10)
      { s with seqr := { s.seqr with spillHbm := s.seqr.spillHbm + 1 } }
  | some sk, none => s.hbmWrite sk.1 a.data
  | none, _ => s.hbmWrite a.hbm a.data

/-- The 128 bytes that a read delivers: a line, or a saved tensor's group unpacked or from its spill place. -/
def State.getLine (s : State) (a : Access) : List Byte :=
  match a.save, s.accessSpill a with
  | some _, some p => if p.1 then s.hostRead s.stepPort p.2 128 else s.hbmRead p.2 128
  | some sk, none => packElems fmtBF16 (unpackGroup sk.2 (s.hbmRead sk.1 (66 + 8 * sk.2))) []
  | none, _ => s.hbmRead a.hbm 128

/-- A line is served: a write reaches HBM and its line is good again; a read is on its way to the scratchpad, or with the index
engine that makes it. -/
def State.serve (s : State) (i : Nat) (a : Access) (n : Nat) (bad : Bool) : State :=
  let s := (s.updAccess i fun a => { a with state := .served, data := [] }).lateAccess a n
  if a.write then
    let s := s.putLine a
    { s with hbm := { s.hbm with poison := s.hbm.poison.filter (· != hbmLine a.hbm) } }
  else if a.engine.isSome then s
  else
    let d : LineDelivery := { tile := a.tile, sp := a.sp, data := s.getLine a, poisoned := bad }
    { s with hbm := { s.hbm with deliver := s.hbm.deliver ++ [d] } }

/-- A pseudo-channel error (13 R363): single-fault recovery with ECC_UNCORRECTABLE. -/
def State.pchError (s : State) (a : Access) : State :=
  let pc := hbmPc a.hbm
  let s := s.recoverFault { status := stEcc, sev := 1, src := srcHbm, unit := pc, tag := s.prog.tag,
                            detail := [pc, hbmLine a.hbm] } (s.tile a.tile).seq.cycle
  if s.prog.tag.isSome then { s with recov := { s.recov with pch := (pc, hbmLine a.hbm) :: s.recov.pch } } else s

/-- Marks a line uncorrectable. -/
def State.poison (s : State) (line : Nat) : State :=
  if s.hbm.poison.contains line then s else { s with hbm := { s.hbm with poison := line :: s.hbm.poison } }

/-- A corrected error of a stack: 32 bits, saturating (13 R362). -/
def State.countCecc (s : State) (stack : Nat) : State :=
  { s with hbm := { s.hbm with cecc := Sparse.set 0 s.hbm.cecc stack (satAdd 32 (Sparse.get 0 s.hbm.cecc stack) 1) } }

/-- Slot k of frame `frame` of a pseudo-channel serves the next access in program order, when that access has been issued and is
eligible and the slot is its own or a later one that no other access holds (13 R357, R359). One whose group is spilled to a denied page
of the host is held (12 R352). -/
def execHbmSlot (stack pch frame k : Nat) (o : HbmOutcome) (s : State) : Host.Outcome State Fault Refusal :=
  let pc := 64 * stack + pch
  if 8 ≤ stack ∨ 64 ≤ pch ∨ 8 ≤ k ∨ isRefresh pc frame = true ∨ s.pcHeld pc = true then ok s
  else match s.nextAccess pc with
    | none => ok s
    | some i =>
      match s.hbm.plan[i]? with
      | none => ok s
      | some a =>
        let own := 8 * a.frame + a.slot
        let here := 8 * frame + k
        if a.ready (slotStart here) = false ∨ here < own ∨ (own < here ∧ s.slotTaken pc a.sect i frame k = true) then ok s
        else match s.spillDenied a with
        | some p => ok (s.askStep s.stepPort p)
        | none => match o with
          | .ifaceFail =>
            let s' := s.updAccess i fun a => { a with fails := a.fails + 1 }
            if 3 ≤ a.fails then ok (s'.pchError a) else ok s'
          | .poisoned =>
            if a.write then ok (s.serve i a (slotStart here) false)
            else ok (((s.poison (hbmLine a.hbm)).serve i a (slotStart here) true).pchError a)
          | .corrected => ok ((s.countCecc stack).serve i a (slotStart here) (s.hbm.poison.contains (hbmLine a.hbm)))
          | .good => ok (s.serve i a (slotStart here) (s.hbm.poison.contains (hbmLine a.hbm)))

/-- A delivered line is written; one marked poisoned leaves its granules uncorrectable. -/
def Tile.landLine (x : Tile) (d : LineDelivery) : Tile :=
  let y := x.spWrite d.sp d.data
  if d.poisoned ∧ x.bankSp.state = .on then
    { y with spErr := (granules d.sp d.data.length).foldl (fun m g => Sparse.set 0 m g 2) y.spErr }
  else y

/-- A read line reaches its scratchpad: user 7 of the port in the tile's cycle (03 R92). -/
def execHbmReadDelivery (s : State) : Host.Outcome State Fault Refusal :=
  match s.hbm.deliver with
  | [] => ok s
  | d :: l =>
    let s := { s with hbm := { s.hbm with deliver := l } }
    let x := s.tile d.tile
    let c := x.seq.cycle
    if s.issues d.tile then
      match x.portUser c with
      | some u => ok (s.portConflict d.tile c u 7)
      | none => ok (s.setTile d.tile ((x.portTake 7 [c]).landLine d))
    else ok (s.setTile d.tile (x.landLine d))

/-! ### Refresh, error counts, free-run mode (13 R356, R360–R362) -/

/-- The controller issues the pseudo-channel's refreshes: in its refresh frames, and in free-run mode at the stacks' own
interval. -/
def execRefreshFrame (stack pch frame : Nat) (s : State) : Host.Outcome State Fault Refusal :=
  let pc := 64 * stack + pch
  let free := if stack < 4 then s.hbm.freeRun0 else s.hbm.freeRun1
  if stack < 8 ∧ pch < 64 ∧ (isRefresh pc frame = true ∨ free = true) then
    ok { s with hbm := { s.hbm with refreshed := Sparse.set 0 s.hbm.refreshed pc (Sparse.get 0 s.hbm.refreshed pc + 1) } }
  else ok s

/-- Each stack's on-die count is read into HBM_ODECC[n]: what the stack has counted since is a free value. -/
def execOdeccPoll (s : State) : Host.Outcome State Fault Refusal :=
  let go (m : Sparse Nat) (n : Nat) : Sparse Nat :=
    Sparse.set 0 m n (satAdd 32 (Sparse.get 0 m n) (Config.freeValue (s.free + n)).toNat)
  ok ({ s with hbm := { s.hbm with odecc := (List.range 8).foldl go s.hbm.odecc } }.useFree 8)

/-- A manager enters free-run mode only when every tile of its part is stopped or idle. -/
def execFreeRunEntry (die : Bool) (s : State) : Host.Outcome State Fault Refusal :=
  if s.tilesQuiet then
    ok { s with hbm := (if die then { s.hbm with freeRun1 := true } else { s.hbm with freeRun0 := true }) }
  else ok s

/-- A manager returns to the slot grid. -/
def execFreeRunExit (die : Bool) (s : State) : Host.Outcome State Fault Refusal :=
  ok { s with hbm := (if die then { s.hbm with freeRun1 := false } else { s.hbm with freeRun0 := false }) }

/-! ### Row repair and retirement (13 R373, R374) -/

/-- Spare rows of a bank of a physical tile in use. -/
def State.sparesUsed (s : State) (phys bank : Nat) : Nat :=
  (s.tm.repairs.filter fun r => r.1 == phys && r.2.1 == bank).length

/-- A logical tile is to be retired: at the re-map of the recovery, or at once when no program runs. -/
def State.retireTile (s : State) (t : Nat) : State :=
  if s.recov.stage = .none then s.retirePhys (s.physOf t)
  else { s with recov := { s.recov with retire := if s.recov.retire.contains t then s.recov.retire else s.recov.retire ++ [t] } }

/-- A row of a tile's bank (0 scratchpad, 1 ACC0, 2 ACC1) is mapped to a free spare and logged, or the tile is retired when
the bank's 32 spares are used. -/
def State.repairRow (s : State) (t bank row : Nat) : State :=
  let q := s.physOf t
  if s.sparesUsed q bank < 32 then
    let s := { s with tm := { s.tm with repairs := s.tm.repairs ++ [(q, bank, row)] } }
    s.logCause { status := stOk, sev := 1, src := srcTest, unit := t, tag := none, detail := [q, bank, row] }
  else
    let s := s.recoverFault { status := stRemapped, sev := 1, src := srcTest, unit := t, tag := s.prog.tag,
                              detail := [q, bank, row] } (s.tile t).seq.cycle
    s.retireTile t

/-! ### The background test (13 R370–R372) -/

/-- Granules of a region. -/
def regionGranules (r : Nat) : List Nat := (List.range 32).map (32 * r + ·)

/-- A test slot of a tile: the pointed region is read through ECC, tested, repaired when a read differed, and written back
with fresh ECC; a double-bit error is not written back. A bank that is not ON keeps its pointer. -/
def execBackgroundTestSlot (t : Nat) (differs : Bool) (s : State) : Host.Outcome State Fault Refusal :=
  let x := s.tile t
  if 1024 ≤ t ∨ s.issueHeld = true ∨ x.bankSp.state ≠ .on then ok s
  else
    let r := x.testPtr
    let gs := regionGranules r
    let fixed := (gs.filter fun g => Sparse.get 0 x.spErr g == 1).length
    let bad := gs.any fun g => Sparse.get 0 x.spErr g == 2
    let x := (x.countSpEcc fixed)
    let x := if bad then x else { x with spErr := gs.foldl (fun m g => Sparse.set 0 m g 0) x.spErr }
    let s := s.setTile t { x with testPtr := (r + 1) % 2048 }
    let s := if differs then s.repairRow t 0 r else s
    ok (if bad then s.eccFault t r else s)

end Sys2Proof.Machine
end

