-- ==== Sys2Proof/Machine/Prov.lean ====
section
/-!
DEFINITION. Digest-log entries (05 R157) and provenance records (05 R162).
-/

namespace Sys2Proof.Machine

/-- The 32 bytes of a digest-log entry: partial, layer, micro-batch, tensor, kind, result, words covered. -/
def State.digestBytes (s : State) (part layer mb tid kind result len : Nat) : List Byte :=
  let w2 := layer % 2 ^ 16 + (mb % 2 ^ 16) * 2 ^ 16 + (tid % 2 ^ 16) * 2 ^ 32 + (kind % 256) * 2 ^ 48 + (result % 256) * 2 ^ 56
  let w3 := len % 2 ^ 40 + s.rank * 2 ^ 40
  leBytes 8 s.gbl.step.toNat ++ leBytes 8 part ++ leBytes 8 w2 ++ leBytes 8 w3

/-- Writes a digest-log entry. -/
def State.digestEntry (s : State) (part layer mb tid kind result len : Nat) : State :=
  let r := s.appendRing s.dg.log 32 (s.digestBytes part layer mb tid kind result len)
  { r.1 with dg := { r.1.dg with log := r.2 } }

/-- The digest log holds an entry. -/
def State.digestLogged (s : State) (bs : List Byte) : Bool :=
  let r := s.dg.log
  let n := Nat.min r.head r.size
  (List.range n).any fun i => s.hbmRead (r.base.toNat + 32 * ((r.head - n + i) % r.size)) 32 == bs

/-- Writes a digest-log entry, but not again what was written before a recovery (14 R384). -/
def State.digestOnce (s : State) (part layer mb tid kind result len : Nat) : State :=
  if s.recov.active && s.digestLogged (s.digestBytes part layer mb tid kind result len) then s
  else s.digestEntry part layer mb tid kind result len

/-- All valid descriptors of the loaded tiles. -/
def State.allDescs (s : State) : List Desc := s.tiles.flatMap fun c => (c.2.dstore.map fun d => descOf d.2).filter (·.valid)

/-- Digests of the checked weight tensors in ascending tensor ID: TID and OWNER_DIGEST. -/
def State.weightDigests (s : State) : Sparse Nat :=
  (s.allDescs.filter (·.dchk)).foldl (fun m d => Sparse.set (2 ^ 64) m d.tid d.owner) []

/-- The partial of a shard's compute copy at its logical indices in the full tensor, and its words. -/
def State.shardDigest (s : State) (f base n me : Nat) : Nat × Nat :=
  let bytes := s.hbmRead base (packedBytes f n)
  let words := wordsOf bytes
  (ldPartial (me * n * fmtBits f / 32) words, words.length)

/-- The data-parallel communicator of the step's reduce-scatters (log entry 39). -/
def State.dpTree (s : State) : Option Nat :=
  match s.coll.entries.find? fun e => e.type == 1 with
  | none => none
  | some e => (s.coll.comms[e.comm]?).map (·.tree)

/-- DPW of the step plan; 1 for a program without one. -/
def State.dpw (s : State) : Nat := if s.prog.plan = 0 then 1 else Bytes.readLe s.hbm.mem (s.prog.plan + 0x08) 2

/-- Low 32 bits of the LD64 of the four words of the run seed. -/
def State.seedTag (s : State) : Nat := ld64 ((List.range 4).map fun i => (s.prog.seed.toNat >>> (32 * i)) % 2 ^ 32) % 2 ^ 32

/-- The format of a tensor: of its descriptor, else of its compute copy in a step run; that of any other is a free value (log entry
39). -/
def State.tensorFmt (s : State) (tid : Nat) : Nat :=
  match s.allDescs.find? fun d => d.tid == tid with
  | some d => d.fmt
  | none =>
    match (if s.seqr.tag.isSome then s.urecs s.seqr.optRec else []).find? fun r => s.recField r 0 15 0 == tid with
    | some r => s.ccFmt r
    | none => s.freeVal.toNat % 32

/-- The 64 bytes of a provenance record. The tree of a program without a reduce-scatter is a free value (log entry 39). -/
def State.provRecord (s : State) (tid outDig : Nat) : List Byte :=
  let fmt := s.tensorFmt tid
  let tree := match s.dpTree with | some t => t | none => (Config.freeValue (s.free + 1)).toNat % 2 ^ 32
  let strict := b2n (bitAt (Bytes.readLe s.prog.header 0x008 8) 0)
  let w6 := tid % 2 ^ 16 + fmt * 2 ^ 16 + strict * 2 ^ 21 + b2n s.seqr.sat * 2 ^ 22 + b2n s.seqr.stale * 2 ^ 23
    + (s.dpw % 2 ^ 16) * 2 ^ 32
  leBytes 8 s.gbl.progId.toNat ++ leBytes 8 s.prog.dig ++ leBytes 8 s.gbl.step.toNat
    ++ leBytes 8 (ld64Pairs (s.weightDigests.map (·.2))) ++ leBytes 8 (ld64Pairs (s.seqr.inDig.map (·.2)))
    ++ leBytes 8 outDig ++ leBytes 8 w6 ++ leBytes 4 tree ++ leBytes 4 s.seedTag

/-- Writes a provenance record to the provenance ring. -/
def State.writeProv (s : State) (rec : List Byte) : State :=
  let r := s.appendRing s.dg.prov 64 rec
  ({ r.1 with dg := { r.1.dg with prov := r.2 } }).useFree 2

end Sys2Proof.Machine
end

