-- ==== Sys2Proof/Machine/Legs.lean ====
section
/-!
DEFINITION. Legs of collectives (11 R311, R315–R317): receiving, confirming, asking again, and the timeout of a collective; the
owner's store check of an all-gather (05 R158, 14 R393).
-/

namespace Sys2Proof.Machine

/-- The key of a leg within its run. -/
def legKey (chunk level member : Nat) : Nat := (chunk * 512 + level) * 8192 + member

/-- The entry as a leg's level reads its data: requests and rows of GATHER_BY_INDEX have formats of their own. -/
def legEntry (e : CollEntry) (level : Nat) : CollEntry :=
  if e.type = 5 then (if level = lvAsk then asksEntry e else rowsEntry e) else e

/-- Elements of a leg of chunk k. -/
def legElems (e : CollEntry) (n k len level : Nat) : Nat :=
  if e.type = 5 then (if level = lvAsk then len / 8 else len) else (e.range n k).2.2

/-- Values of a leg without a carried partial, and that partial. -/
def legParts (e : CollEntry) (n k : Nat) (l : Leg) : List Nat × Option Nat :=
  let m := legElems e n k l.data.length l.level.toNat
  let size := packedBytes (legEntry e l.level.toNat).ofmt m + (if isBlock e.ifmt && !e.reduces then ceilDiv m 32 else 0)
  let vals := (legEntry e l.level.toNat).legVals m (l.data.take size)
  (vals, if e.type = 2 ∧ size + 8 ≤ l.data.length then some (leNat ((l.data.drop size).take 8)) else none)

/-- A mismatch of a leg's CRC: this member asks the sender for it again; the third one ends the collective until the recovery that it
starts has asked again (R316, 14 R381, R384; log entry 127). -/
def State.badLeg (s : State) (r : CollRun) (me : Nat) (l : Leg) : State :=
  let k := legKey l.chunk.toNat l.level.toNat l.member.toNat
  let n := Sparse.get 0 r.mism k + 1
  let id := (l.chunk.toNat, l.level.toNat, l.member.toNat)
  let r := { r with mism := Sparse.set 0 r.mism k n, again := if 3 ≤ n ∧ r.again.contains id = false then r.again ++ [id] else r.again }
  let s := s.setRun r
  if n = 3 then
    s.recoverFault { status := stEcc, sev := 1, src := srcRouter, unit := 0, tag := s.prog.tag,
                     detail := [l.entry.toNat, l.chunk.toNat, l.level.toNat, l.member.toNat] } 0
  else if n < 3 then s.emit (.legAgain l.member.toNat (l.entry.toNat, l.chunk.toNat, l.level.toNat, me)) else s

/-- After a recovery the collectives that CRC mismatches had ended go on: the legs are asked for again. -/
def State.askLegsAgain (s : State) : State :=
  let ask (s : State) (r : CollRun) : State :=
    let me := match s.coll.entries[r.entry]? with
      | none => 0
      | some e => ((s.coll.comms[e.comm]?).bind fun c => s.memberIndex c).getD 0
    let s := s.setRun { r with again := [], mism := [] }
    r.again.foldl (fun s k => s.emit (.legAgain k.2.2 (r.entry, k.1, k.2.1, me))) s
  (s.coll.runs.filter fun r => !r.again.isEmpty).foldl ask s

/-- A chunk with a leg's values. -/
def Chunk.take (k : Chunk) (level member : Nat) (vals : List Nat) : Chunk :=
  if (k.from_ level member).isSome then k else { k with got := k.got ++ [(level, member, vals)] }

/-- A good leg: its values join its chunk, it is confirmed, and the progress clock restarts. -/
def State.goodLeg (s : State) (r : CollRun) (e : CollEntry) (n me : Nat) (l : Leg) : State :=
  let p := legParts e n l.chunk.toNat l
  let fresh := !(r.chunks.any fun k => k.idx == l.chunk.toNat && (k.from_ l.level.toNat l.member.toNat).isSome)
  let cs := r.chunks.map fun k => if k.idx = l.chunk.toNat then k.take l.level.toNat l.member.toNat p.1 else k
  let s := (s.setRun { r with chunks := cs, clock := 0 }).bufWrite e l.chunk.toNat l.data
  let s := s.emit (.legConfirm l.member.toNat (l.entry.toNat, l.chunk.toNat, l.level.toNat, me))
  match p.2, s.ccRecord e.src.toNat with
  | some c, some u => if fresh then s.addCarried (Bytes.readLe s.hbm.mem u 2) c else s
  | _, _ => s

/-- A leg's epoch is expected: its collective is launched here, or still to come in the order table; after ORDER_FAULT nothing more is
to come (R311, R319). -/
def State.expects (s : State) (l : Leg) : Bool :=
  match s.orderOf l.entry.toNat l.epoch with
  | none => false
  | some k =>
    if k < s.coll.pos then s.coll.runs.any fun x => x.entry == l.entry.toNat && x.epoch == l.epoch else !s.coll.refused

/-- A leg arrives: one whose epoch is not expected is discarded and counted; its CRC is checked before anything else of it. -/
def execLegReceive (port : Nat) (l : Leg) (s : State) : Host.Outcome State Fault Refusal :=
  if 32 ≤ port ∨ (s.port port).state.works = false then ok s
  else
    let r := s.runOf l.entry.toNat l.epoch
    let member := match s.coll.entries[l.entry.toNat]? with
      | none => none
      | some e => match s.coll.comms[e.comm]? with
        | none => none
        | some c => (s.memberIndex c).map fun me => (e, c.n, me)
    match member with
    | some (e, n, me) =>
      if s.expects l = false then ok { s with tb := { s.tb with discard := satAdd 32 s.tb.discard 1 } }
      else if legCrc l ≠ l.crc then ok (s.badLeg r me l)
      else ok (s.goodLeg r e n me l).settleRouter
    | none => ok { s with tb := { s.tb with discard := satAdd 32 s.tb.discard 1 } }

/-! ### The owner's store check (05 R158) -/

/-- Every leg of an all-gather of weights is sent and confirmed: the words read are compared with the stored partial and
logged as KIND 2; a mismatch stops the domain (14 R393). -/
def State.ownerCheck (s : State) (r : CollRun) (e : CollEntry) (me : Nat) : State :=
  match s.ccRecord e.src.toNat with
  | none => s
  | some u =>
    let f := s.ccFmt u
    let n := s.nown u
    let d := s.shardDigest f e.src.toNat n me
    let stored := leNat (s.hbmRead (partialAt f e.src.toNat n) 8)
    let tid := Bytes.readLe s.hbm.mem u 2
    let good := d.1 == stored
    let s := s.digestEntry d.1 (s.layerOf tid) 0xFFFF tid 2 (if good then 1 else 2) d.2
    if good then s
    else
      let s := { s with seqr := { s.seqr with ownFail := true } }
      s.stopPart { status := stDigestEnded, sev := 2, src := srcStep, unit := 0, tag := s.prog.tag,
                   detail := [tid, me, stored, d.1, r.entry] }

/-- A leg is confirmed by the member it went to: the sender lets it go. -/
def execLegConfirm (entry chunk level member : Nat) (s : State) : Host.Outcome State Fault Refusal :=
  let mine (x : Nat × Leg) : Bool :=
    x.1 == member && x.2.chunk.toNat == chunk && x.2.level.toNat == level
  match s.coll.runs.find? fun r => r.entry == entry && r.kept.any mine with
  | none => ok s
  | some r =>
    let r := { r with kept := r.kept.eraseP mine, clock := 0 }
    let s := s.setRun r
    let sent := r.kept.isEmpty && r.chunks.all fun k => decide (k.level = 2)
    let s := match s.coll.entries[entry]? with
      | none => s
      | some e => match s.coll.comms[e.comm]? with
        | none => s
        | some c => match s.memberIndex c with
          | none => s
          | some me => if sent && e.type == 2 then s.ownerCheck r e me else s
    ok s.settleRouter

/-- A leg is asked for again: it is sent again as it was. -/
def execLegRerequest (entry chunk level member : Nat) (s : State) : Host.Outcome State Fault Refusal :=
  let mine (x : Nat × Leg) : Bool :=
    x.1 == member && x.2.chunk.toNat == chunk && x.2.level.toNat == level
  match s.coll.runs.find? fun r => r.entry == entry && r.kept.any mine with
  | none => ok s
  | some r =>
    match r.kept.find? mine, s.coll.entries[entry]? with
    | some x, some e =>
      match s.coll.comms[e.comm]? with
      | none => ok s
      | some c =>
        match s.memberPart c x.1 with
        | none => ok s
        | some p => ok (if (s.routePort p).isSome then s.emit (.leg p x.2) else s)
    | _, _ => ok s

/-! ### The timeout (11 R317) -/

/-- A collective's progress clock has reached TB_COLL_TMO: it ends with TIMEOUT, and the program under a coordinated stop. -/
def execCollectiveTimeout (entry : Nat) (s : State) : Host.Outcome State Fault Refusal :=
  match s.coll.runs.find? fun r => r.entry == entry && s.launched r && decide (s.tb.tmo ≤ r.clock) with
  | none => ok s
  | some r =>
    let same (x : CollRun) : Bool := x.entry == r.entry && x.epoch == r.epoch
    let s := { s with coll := { s.coll with runs := s.coll.runs.filter fun x => !same x } }
    ok (s.stopPart { status := stTimeout, sev := 2, src := srcRouter, unit := 0, tag := s.prog.tag,
                     detail := [entry, r.epoch.toNat] })

end Sys2Proof.Machine
end

