-- ==== Sys2Proof/Machine/XSlot.lean ====
section
/-!
DEFINITION. The X slot but for index-engine commands (04 R118): LD.VB, ST.VB, XFER, HBM.RD, HBM.WR, ATOM.ADD, ATOM.SWAP, DG.ST.
A transfer goes line by line: the lines before one that cannot be performed are performed, and the tile stops in that line's
cycle.
-/

namespace Sys2Proof.Machine

/-- Why a line is not performed. -/
inductive LineStop where
  /-- outside its extent or its buffer -/
  | bad (h : BitVec 9)
  /-- the port cycle is taken by this user, on this tile, in this cycle -/
  | clash (t c u v : Nat)
  /-- a double-bit error in this region -/
  | ecc (row : Nat)
  deriving DecidableEq, Repr, Inhabited

/-- The stop a line's failure makes at tile t, program cycle c, slot k. -/
def State.lineStop (s : State) (t c k : Nat) : LineStop → State
  | .bad h => s.badAccess t c k h
  | .clash t' c' u v => s.portConflict t' c' u v
  | .ecc row => s.eccFault t row

/-- Runs the steps of n lines from line i on a value of type α, up to the first that fails. -/
def runLines {α : Type} (step : Nat → α → Except LineStop α) : Nat → Nat → α → α × Option (Nat × LineStop)
  | 0, _, x => (x, none)
  | n + 1, i, x =>
    match step i x with
    | .ok y => runLines step n (i + 1) y
    | .error e => (x, some (i, e))

/-- Whether n bytes at an address lie in a scratchpad. -/
def inSp (a : Int) (n : Nat) : Bool := decide (0 ≤ a ∧ a + n ≤ 0x100000)

/-- Reads n bytes of the local scratchpad for user u in port cycle c. -/
def readSpLine (t : Nat) (d : Desc) (h : BitVec 9) (u c n free : Nat) (a : Int) (x : Tile) :
    Except LineStop (Tile × List Byte) :=
  if !(d.covers a n && inSp a n) then .error (.bad h)
  else match x.portUser c with
    | some v => .error (.clash t c v u)
    | none =>
      let r := x.spRead a.toNat n free
      match r.bad with
      | some row => .error (.ecc row)
      | none => .ok ((x.portTake u [c]).countSpEcc r.fixed, r.data)

/-- An X-slot instruction acts when its tile issues and it is not suppressed. -/
def State.acts (s : State) (t : Nat) (p : Pred) : Bool := s.issues t && s.runs t p

/-! ### LD.VB and ST.VB (03 R81, R91) -/

/-- One line from scratchpad to buffer. -/
def ldVbLine (t : Nat) (d : Desc) (o : VbOp) (v : VbOpnd) (a : Int) (c free i : Nat) (x : Tile) : Except LineStop Tile :=
  let w : VbOpnd := { v with off := v.off + (128 * i : Nat) }
  if !w.fits 128 then .error (.bad o.vbh)
  else match readSpLine t d o.sph 1 (c + i) 128 (free + 128 * i) (a + (128 * i : Nat)) x with
    | .error e => .error e
    | .ok r => .ok (w.write r.1 r.2)

def execLdVb (t : Nat) (o : VbOp) (s : State) : Host.Outcome State Fault Refusal :=
  if s.acts t o.pred then
    let x := s.tile t
    let d := x.desc o.sph
    let c := x.seq.cycle
    match vbOpnd x o.vbh with
    | none => ok (s.badAccess t c 2 o.vbh)
    | some v =>
      if !(d.valid && d.space == 0) then ok (s.badAccess t c 2 o.sph)
      else
        let r := runLines (ldVbLine t d o v (d.addr x.seq.li) c s.free) (o.lm1.toNat + 1) 0 x
        let s' := (s.setTile t r.1).spFree t (128 * (o.lm1.toNat + 1))
        match r.2 with
        | none => ok s'
        | some e => ok (s'.lineStop t (c + e.1) 2 e.2)
  else ok s

/-- One line from buffer to scratchpad with a mask; a partial-granule store reads, then writes (03 R91). Its write half writes the
whole line, so every granule of the line gets fresh ECC, those that the mask leaves as they were included (DESIGN CHOICE, log
entry 114). -/
def stVbLine (t : Nat) (d : Desc) (o : VbOp) (v : VbOpnd) (mask : W32) (a : Int) (c free i : Nat) (x : Tile) :
    Except LineStop Tile :=
  let w : VbOpnd := { v with off := v.off + (128 * i : Nat) }
  let a' := a + (128 * i : Nat)
  if !w.fits 128 then .error (.bad o.vbh)
  else if !(d.covers a' 128 && inSp a' 128) then .error (.bad o.sph)
  else
    let new := w.read x 128
    if wholeGranules mask then
      match x.portUser (c + i) with
      | some u => .error (.clash t (c + i) u 1)
      | none =>
        let gs := (List.range 8).filter fun g => mask.getLsbD (4 * g)
        .ok (gs.foldl (fun x g => x.spWrite (a'.toNat + 16 * g) ((new.drop (16 * g)).take 16)) (x.portTake 1 [c + i]))
    else
      let cs := [c + 2 * i, c + 2 * i + 1]
      match x.portClash 0 cs with
      | some q => .error (.clash t q.2.1 q.2.2 1)
      | none =>
        let r := x.spRead a'.toNat 128 free
        match r.bad with
        | some row => .error (.ecc row)
        | none => .ok (((x.portTake 1 cs).countSpEcc r.fixed).spWrite a'.toNat (maskLine mask new r.data))

def execStVb (t : Nat) (o : VbOp) (s : State) : Host.Outcome State Fault Refusal :=
  if s.acts t o.pred then
    let x := s.tile t
    let d := x.desc o.sph
    let c := x.seq.cycle
    let mask := Sparse.get 0 x.seq.msk o.msel.toNat
    match vbOpnd x o.vbh with
    | none => ok (s.badAccess t c 2 o.vbh)
    | some v =>
      if !(d.valid && d.space == 0) then ok (s.badAccess t c 2 o.sph)
      else
        let r := runLines (stVbLine t d o v mask (d.addr x.seq.li) c s.free) (o.lm1.toNat + 1) 0 x
        let s' := (s.setTile t r.1).spFree t 128
        match r.2 with
        | none => ok s'
        | some e => ok (s'.lineStop t (c + (if wholeGranules mask then 1 else 2) * e.1) 2 e.2)
  else ok s

/-! ### The on-chip network (04 R118, 05 R143, R145) -/

/-- Cycles of a route between logical tiles: hops + 1, and 4 more across the die bridge (05 R143). -/
def routeCycles (a b : Nat) : Nat :=
  let dist (p q : Nat) : Nat := if p ≤ q then q - p else p - q
  dist (a / 32) (b / 32) + dist (a % 32) (b % 32) + 1 + (if a / 512 = b / 512 then 0 else 4)

/-- Tiles a transfer reaches: the one named, or every other tile of its row or column of the 32 × 32 grid (log entry 16). -/
def receivers (t dest cast : Nat) : List Nat :=
  match cast with
  | 0 => [dest]
  | 1 => ((List.range 32).map fun c => dest / 32 * 32 + c).filter (· != t)
  | _ => ((List.range 32).map fun r => r * 32 + dest % 32).filter (· != t)

/-- Where a transfer to a network link goes: the neighbour, or every other tile of the row or column, by the input the
neighbour would use. -/
def linkReceivers (t link cast : Nat) : List (Nat × Nat) :=
  match linkPeer t link with
  | none => []
  | some p => if cast = 0 then [p] else (receivers t t cast).map fun u => (u, p.2)

/-- Cycles from send to arrival on a network link: one hop, or none and the die bridge; of a multicast, its farthest receiver's
(05 R143, R145; log entry 16). -/
def linkCycles (t link cast : Nat) : Nat :=
  if cast = 0 then (if link = 4 then 5 else 2)
  else (receivers t t cast).foldl (fun m u => Nat.max m (routeCycles t u)) 0

/-- A line stands behind those that arrive no later. -/
def insertLine (e : LinkLine) : List LinkLine → List LinkLine
  | [] => [e]
  | f :: l => if e.arr < f.arr then e :: f :: l else f :: insertLine e l

/-- A line is on its way to a tile's link input. -/
def State.pushLink (s : State) (u inp : Nat) (e : LinkLine) : State :=
  let x := s.tile u
  s.setTile u { x with links := Sparse.set [] x.links inp (insertLine e (Sparse.get [] x.links inp)) }

/-- Delivers a line into a remote scratchpad in port cycle c (user 5), with the conflict of R93 at the receiver. -/
def State.deliverSp (s : State) (u c a : Nat) (line : List Byte) : State :=
  let x := s.tile u
  match x.portUser c with
  | some v => s.portConflict u c v 5
  | none => s.setTile u ((x.portTake 5 [c]).spWrite a line)

/-- One line of an XFER: read at the sender, then delivered to every receiver. -/
def xferLine (t : Nat) (o : XferOp) (src dst : Desc) (a b : Int) (c free i : Nat) (s : State) : Except LineStop State :=
  let b' := b + (128 * i : Nat)
  if dst.space == 5 && !(dst.covers b' 128 && inSp b' 128) then .error (.bad o.dst)
  else match readSpLine t src o.src 1 (c + i) 128 (free + 128 * i) (a + (128 * i : Nat)) (s.tile t) with
    | .error e => .error e
    | .ok r =>
      let s := s.setTile t r.1
      if dst.space == 5 then
        let us := receivers t dst.rtile o.cast.toNat
        let arr := c + i + us.foldl (fun m u => Nat.max m (routeCycles t u)) 0
        .ok (us.foldl (fun s u => s.deliverSp u arr b'.toNat r.2) s)
      else
        let now := (s.tile t).now + i
        let e : LinkLine := { src := t, sent := now, arr := now + linkCycles t dst.link o.cast.toNat, line := r.2 }
        .ok ((linkReceivers t dst.link o.cast.toNat).foldl (fun s p => s.pushLink p.1 p.2 e) s)

def execXfer (t : Nat) (o : XferOp) (s : State) : Host.Outcome State Fault Refusal :=
  if s.acts t o.pred then
    let x := s.tile t
    let src := x.desc o.src
    let dst := x.desc o.dst
    let c := x.seq.cycle
    if !(src.valid && src.space == 0) then ok (s.badAccess t c 2 o.src)
    else if !(dst.valid && (dst.space == 5 || dst.space == 7)) then ok (s.badAccess t c 2 o.dst)
    else
      let r := runLines (xferLine t o src dst (src.addr x.seq.li) (dst.addr x.seq.li) c s.free) (o.lm1.toNat + 1) 0 s
      let s' := r.1.spFree t (128 * (o.lm1.toNat + 1))
      match r.2 with
      | none => ok s'
      | some e => ok (s'.lineStop t (c + e.1) 2 e.2)
  else ok s

/-! ### HBM commands (13 R357, R358, R479) -/

/-- The access of the plan that a line of this bundle issues. -/
def isAccess (t : Nat) (q : TileSeq) (line : Nat) (wr : Bool) (a : Access) : Bool :=
  decide (a.tile = t ∧ a.engine = none ∧ a.sect = q.sect.toNat ∧ a.bundle = q.bundle ∧ a.line = line ∧ a.state = .assigned) && a.write == wr
    && a.pos == q.pos

/-- Marks the first access that matches as issued, with the cycle in which it becomes eligible, a write's data and the slot of a saved
tensor's group; none when no slot was assigned (13 R357, R479). -/
def issueAccess (p : Access → Bool) (elig : Nat) (data : List Byte) (save : Option (Nat × Nat)) : List Access → Option (List Access)
  | [] => none
  | a :: l =>
    if p a then some ({ a with state := .issued, elig := elig, data := data, save := save } :: l)
    else (issueAccess p elig data save l).map (a :: ·)

/-- One line of an HBM.RD. -/
def hbmRdLine (t : Nat) (o : HbmOp) (h d : Desc) (ha da : Int) (i : Nat) (s : State) : Except LineStop State :=
  let k : Int := (128 * i : Nat)
  if !h.covers (ha + k) 128 then .error (.bad o.hbm)
  else if !(d.covers (da + k) 128 && inSp (da + k) 128) then .error (.bad o.sph)
  else match issueAccess (isAccess t (s.tile t).seq i false) ((s.tile t).now + i + 16) [] (s.saveSlot h (ha + k)) s.hbm.plan with
    | none => .error (.bad o.hbm)
    | some plan => .ok { s with hbm := { s.hbm with plan := plan } }

/-- HBM.RD: its lines become eligible for their assigned slots; an access with no slot stops the tile (13 R479). -/
def execHbmRd (t : Nat) (o : HbmOp) (s : State) : Host.Outcome State Fault Refusal :=
  if s.acts t o.pred then
    let x := s.tile t
    let h := x.desc o.hbm
    let d := x.desc o.sph
    let c := x.seq.cycle
    if !(h.valid && h.space == 6) then ok (s.badAccess t c 2 o.hbm)
    else if !(d.valid && d.space == 0) then ok (s.badAccess t c 2 o.sph)
    else
      let r := runLines (hbmRdLine t o h d (h.addr x.seq.li) (d.addr x.seq.li)) (o.lm1.toNat + 1) 0 s
      match r.2 with
      | none => ok r.1
      | some e => ok (r.1.lineStop t c 2 e.2)
  else ok s

/-- One line of an HBM.WR: read from the scratchpad, then issued with its data. -/
def hbmWrLine (t : Nat) (o : HbmOp) (h d : Desc) (ha da : Int) (c free i : Nat) (s : State) : Except LineStop State :=
  let k : Int := (128 * i : Nat)
  if !h.covers (ha + k) 128 then .error (.bad o.hbm)
  else match readSpLine t d o.sph 7 (c + i) 128 (free + 128 * i) (da + k) (s.tile t) with
    | .error e => .error e
    | .ok r =>
      let slot := s.saveSlot h (ha + k)
      let w := s.saveLine t slot r.2
      match issueAccess (isAccess t (s.tile t).seq i true) ((s.tile t).now + i + 24) w.2 slot s.hbm.plan with
      | none => .error (.bad o.hbm)
      | some plan => .ok { w.1.setTile t r.1 with hbm := { s.hbm with plan := plan } }

def execHbmWr (t : Nat) (o : HbmOp) (s : State) : Host.Outcome State Fault Refusal :=
  if s.acts t o.pred then
    let x := s.tile t
    let h := x.desc o.hbm
    let d := x.desc o.sph
    let c := x.seq.cycle
    if !(h.valid && h.space == 6) then ok (s.badAccess t c 2 o.hbm)
    else if !(d.valid && d.space == 0) then ok (s.badAccess t c 2 o.sph)
    else
      let r := runLines (hbmWrLine t o h d (h.addr x.seq.li) (d.addr x.seq.li) c s.free) (o.lm1.toNat + 1) 0 s
      let s' := r.1.spFree t (128 * (o.lm1.toNat + 1))
      match r.2 with
      | none => ok s'
      | some e => ok (s'.lineStop t (c + e.1) 2 e.2)
  else ok s

/-! ### Atomics (03 R95, R96) -/

/-- An atomic whose port cycles are given: on the tile's own bank it acts now, behind those that are due there; on another tile
that runs and has those cycles before it, it waits for them, so that atomics act in the order of their port cycles (03 R96). -/
def State.sendAtom (s : State) (t u : Nat) (a : RemoteAtom) : State :=
  let y := s.tile u
  if u ≠ t ∧ y.seq.run.live = true ∧ y.seq.cycle ≤ a.cycle then s.setTile u { y with atoms := insertAtom a y.atoms }
  else (s.landAtoms u).performAtom u a

/-- ATOM.ADD and ATOM.SWAP on the local scratchpad or a remote one; the target's format selects the form. -/
def State.atom (s : State) (t : Nat) (o : AtomOp) (swap : Bool) : State :=
  let x := s.tile t
  let c := x.seq.cycle
  let d := x.desc o.tgt
  let a := d.addr x.seq.li
  let u := if d.space = 5 then d.rtile else t
  let at_ := if d.space = 5 then c + routeCycles t u else c
  let n := (atomShape d.fmt).1
  let bits := (atomShape d.fmt).2
  if !(d.valid && (d.space == 0 || d.space == 5) && d.covers a 128 && inSp a 128) then s.badAccess t c 2 o.tgt
  else match vbOpnd x o.val with
    | none => s.badAccess t c 2 o.val
    | some v =>
      if !v.fits 128 then s.badAccess t c 2 o.val
      else match (s.tile u).portClash 0 [at_, at_ + 1] with
        | some q => s.portConflict u q.2.1 q.2.2 8
        | none =>
          let ret := ((if o.ret = 0x1FF then none else vbOpnd x o.ret).filter (·.fits 128)).map fun w => (t, vbAt w.vb w.off.toNat)
          let r : RemoteAtom := { cycle := at_, addr := a.toNat, swap := swap, fmt := d.fmt, mask := Sparse.get 0 x.seq.msk o.msel.toNat,
                                  vals := unpackElems bits n (v.read x 128), ret := ret }
          let s' := (s.setTile u ((s.tile u).portTake 8 [at_, at_ + 1])).sendAtom t u r
          if o.ret ≠ 0x1FF ∧ ret = none then s'.badAccess t c 2 o.ret else s'

def execAtomAdd (t : Nat) (o : AtomOp) (s : State) : Host.Outcome State Fault Refusal :=
  ok (if s.acts t o.pred then s.atom t o false else s)

def execAtomSwap (t : Nat) (o : AtomOp) (s : State) : Host.Outcome State Fault Refusal :=
  ok (if s.acts t o.pred then s.atom t o true else s)

/-! ### DG.ST -/

/-- Stores a digest accumulator as one whole granule: the 61-bit value zero-extended, then zero. -/
def execDgSt (t : Nat) (o : DgStOp) (s : State) : Host.Outcome State Fault Refusal :=
  if s.acts t o.pred then
    let x := s.tile t
    let d := x.desc o.sph
    let a := d.addr x.seq.li
    let c := x.seq.cycle
    if !(d.valid && d.space == 0 && d.covers a 16 && inSp a 16) then ok (s.badAccess t c 2 o.sph)
    else match x.portUser c with
      | some u => ok (s.portConflict t c u 1)
      | none => ok (s.setTile t ((x.portTake 1 [c]).spWrite a.toNat (leBytes 16 (Sparse.get 0 x.da o.da.toNat))))
  else ok s

end Sys2Proof.Machine
end

