-- ==== Sys2Proof/Machine/Index.lean ====
section
/-!
DEFINITION. Index engines (03 R97–R104, 04 R119): a command issues into an engine's slot with its operands resolved; its whole
effect comes at the end of the slot, INDEX_SLOT_END.
-/

namespace Sys2Proof.Machine

/-! ### Operand access -/

/-- Bytes of an element: 1 at least. -/
def elemBytes (f : Nat) : Nat := Nat.max 1 (fmtBits f / 8)

/-- Bytes of a row of an operand. -/
def IxOperand.rowBytes (o : IxOperand) : Nat := o.width * fmtBits o.fmt / 8

/-- n bytes of an operand; a scratchpad bank that is not ON answers with free values (13 R365; log entry 13). -/
def State.ixRead (s : State) (o : IxOperand) (off n : Nat) : List Byte :=
  if o.hbm then Bytes.readN s.hbm.mem (o.addr + off) n
  else ((s.tile o.tile).spRead (o.addr + off) n (s.free + 2 ^ 20 * o.tile + o.addr + off)).data

def State.ixWrite (s : State) (o : IxOperand) (off : Nat) (bs : List Byte) : State :=
  if o.hbm then { s with hbm := { s.hbm with mem := Bytes.writeN s.hbm.mem (o.addr + off) bs } }
  else s.setTile o.tile ((s.tile o.tile).spWrite (o.addr + off) bs)

/-- Bytes that a command reads of an operand: offset and length. -/
abbrev IxUse := IxOperand × Nat × Nat

/-- Reads through a scratchpad's ECC: corrected granules are counted, the first double-bit error ends the work (03 R94). -/
def State.ixEcc (s : State) : List IxUse → State × Option (Nat × Nat)
  | [] => (s, none)
  | u :: l =>
    if u.1.hbm || u.1.null || u.2.2 == 0 then s.ixEcc l
    else
      let x := s.tile u.1.tile
      let r := x.spRead (u.1.addr + u.2.1) u.2.2 s.free
      match r.bad with
      | some row => (s, some (u.1.tile, row))
      | none => (s.setTile u.1.tile (x.countSpEcc r.fixed)).ixEcc l

/-- Entry p of a list operand as an integer of its format (UINT8, INT32, INT64). -/
def State.ixEntry (s : State) (o : IxOperand) (p : Nat) : Int :=
  let n := elemBytes o.fmt
  intVal o.fmt (leNat (s.ixRead o (p * n) n))

/-- The elements of row r of an operand. -/
def State.ixRow (s : State) (o : IxOperand) (r : Nat) : List Nat :=
  unpackElems o.fmt o.width (s.ixRead o (r * o.rowBytes) o.rowBytes)

/-- Rows a table holds within its extent. -/
def IxOperand.rows (o : IxOperand) : Nat := o.room / o.rowBytes

/-- Entries of a list operand: the elements of its logical row, or all that its extent holds when LROW is 0 (DESIGN CHOICE, log
entry 117: 03 R97–R104 name no field for the count). -/
def IxOperand.entries (o : IxOperand) : Nat := if o.lrow = 0 then o.room / elemBytes o.fmt else o.lrow

/-- What a gather delivers for an index: a table row; zeros for −1; zeros and one more out-of-range count otherwise
(03 R100). -/
def State.gatherRow (s : State) (tbl : IxOperand) (i : Int) : List Byte × Nat :=
  let z := List.replicate tbl.rowBytes (0 : Byte)
  if 0 ≤ i ∧ i < tbl.rows then (s.ixRead tbl (i.toNat * tbl.rowBytes) tbl.rowBytes, 0)
  else (z, b2n (i != -1))

/-! ### Arithmetic of the engines (03 R99) -/

/-- Correctly rounded addition, canonical NaN, flags of clause 7; integers wrap. -/
def ixAdd (f a b : Nat) : Res :=
  if isInt f then intAdd f a b
  else if (decodeVal f a).isNan || (decodeVal f b).isNan then (canonNan f, flagIf (anySignalling f [a, b]) fIV)
  else addCore true f a b

/-- Maximum and minimum of R42 with the canonical NaN. -/
def ixMaxMin (mx : Bool) (f a b : Nat) : Res :=
  let r := fpMaxMin mx false f a b
  (r.1, flagIf (!isInt f && anySignalling f [a, b]) fIV)

/-- The operation of SEG.SUM, SEG.MAX, SEG.MIN (IXOP 2, 3, 4). -/
def segOp (op f a b : Nat) : Res :=
  match op with | 2 => ixAdd f a b | 3 => ixMaxMin true f a b | _ => ixMaxMin false f a b

/-- What an empty segment yields: +0, −Inf, +Inf; for an integer maximum or minimum the manual states no value, and one that depends
on the operation and the format alone stands (00 R5; log entry 19). -/
def segEmpty (op f : Nat) : Nat :=
  match op with
  | 2 => 0
  | 3 => if isInt f then Config.emptySegment op f % 2 ^ fmtBits f else infBits f true
  | _ => if isInt f then Config.emptySegment op f % 2 ^ fmtBits f else infBits f false

/-- Two rows combined element by element. -/
def zipRes (op : Nat → Nat → Res) (a b : List Nat) : List Nat × Nat :=
  let rs := List.zipWith op a b
  (rs.map (·.1), rs.foldl (fun x r => x ||| r.2) 0)

/-- A segment's rows reduced in ascending position, from the first one on: a segment of one row is that row as it stands, a NaN and a
−0 included (DESIGN CHOICE, log entry 118). -/
def segReduce (op : Nat → Nat → Res) : List (List Nat) → List Nat × Nat
  | [] => ([], 0)
  | r :: rs => rs.foldl (fun acc x => let z := zipRes op acc.1 x; (z.1, acc.2 ||| z.2)) (r, 0)

/-! ### Results of a command -/

/-- A command's access outside an extent is not performed: the engine ends its work and the issuing tile stops, with the record of
04 R135 (slot 2, the handle of operand k). -/
def State.ixOutside (s : State) (e : Nat) (c : IxCmd) (k : Nat) : State :=
  let cyc := (s.tile c.tile).seq.cycle
  (s.setIxe e { s.ixe e with cmd := none }).stopTile c.tile cyc stInvalid
    [c.tile, cyc, c.bundle, 2, (c.handles.getD k 0x1FF).toNat]

/-- Runs a command's effect on what it reads: a double-bit error found by a read ends the command (03 R94). -/
def State.ixGuard (s : State) (e : Nat) (reads : List IxUse) (run : State → State) : State :=
  let r := s.ixEcc reads
  match r.2 with
  | some b => (r.1.setIxe e { r.1.ixe e with cmd := none }).eccFault b.1 b.2
  | none => run r.1

/-- The end of a command: count word, out-of-range count, flags, idle. -/
def State.ixDone (s : State) (e count oor fl : Nat) : State :=
  let x := s.ixe e
  s.setIxe e { x with flags := raise x.flags fl, oor := (x.oor + oor) % 2 ^ 32, count := count, cmd := none }

/-- CAPACITY: the fault record carries the item, the program's operation the status (03 R98, R102, R104). -/
def State.ixCapacity (s : State) (e item : Nat) : State :=
  (s.logCause { status := stCapacity, sev := 2, src := srcIndex, unit := e, tag := s.prog.tag,
                detail := [item] }).addStatus stCapacity

/-- Counts above the bound end the command with CAPACITY. -/
def State.ixBound (s : State) (e n count : Nat) : State := if n < count then s.ixCapacity e count else s

/-- Zeros at output rows from a position up to the bound. -/
def State.ixZero (s : State) (o : IxOperand) (row first n : Nat) : State :=
  if o.null then s else s.ixWrite o (first * row) (List.replicate ((n - first) * row) 0)

/-! ### The operations -/

/-- Gather (03 R100). -/
def State.ixGather (s : State) (e : Nat) (c : IxCmd) : State :=
  let cnt := c.h0.entries
  let m := Nat.min cnt c.bound
  let rb := c.h1.rowBytes
  let list := (List.range m).map (s.ixEntry c.h0)
  let rows : List IxUse := (list.filter fun (i : Int) => decide (0 ≤ i ∧ i < c.h1.rows)).map fun i => (c.h1, i.toNat * rb, rb)
  s.ixGuard e ((c.h0, 0, m * elemBytes c.h0.fmt) :: rows) fun s =>
    let r := ((List.range m).zip list).foldl
      (fun (acc : State × Nat) pi =>
        let g := s.gatherRow c.h1 pi.2
        (acc.1.ixWrite c.h2 (pi.1 * rb) g.1, acc.2 + g.2)) (s, 0)
    ((r.1.ixZero c.h2 rb m c.bound).ixDone e cnt r.2 0).ixBound e c.bound cnt

/-- Scatter-add (03 R101): contributions in ascending source position; an index outside the destination adds nothing
(log entry 19). -/
def State.ixScatter (s : State) (e : Nat) (c : IxCmd) : State :=
  let cnt := c.h0.entries
  let m := Nat.min cnt c.bound
  let rb := c.h2.rowBytes
  let list := (List.range m).map (s.ixEntry c.h0)
  let inside (i : Int) : Bool := decide (0 ≤ i ∧ i < c.h2.rows)
  let dest : List IxUse := (list.filter inside).map fun i => (c.h2, i.toNat * rb, rb)
  s.ixGuard e ((c.h0, 0, m * elemBytes c.h0.fmt) :: (c.h1, 0, m * c.h1.rowBytes) :: dest) fun s =>
    let r := ((List.range m).zip list).foldl
      (fun (acc : State × Nat) pi =>
        if inside pi.2 then
          let z := zipRes (ixAdd c.h2.fmt) (acc.1.ixRow c.h2 pi.2.toNat) (s.ixRow c.h1 pi.1)
          (acc.1.ixWrite c.h2 (pi.2.toNat * rb) (packElems c.h2.fmt z.1 []), acc.2 ||| z.2)
        else acc) (s, 0)
    (r.1.ixDone e cnt 0 r.2).ixBound e c.bound cnt

/-- The runs of equal IDs: start and length, in order. -/
def idRuns : Nat → List Int → List (Nat × Nat)
  | _, [] => []
  | p, i :: l =>
    match l with
    | [] => [(p, 1)]
    | j :: _ =>
      if i = j then (match idRuns (p + 1) l with | [] => [(p, 1)] | r :: rs => (p, r.2 + 1) :: rs)
      else (p, 1) :: idRuns (p + 1) l

/-- The first entry of a list that is below the one before it. -/
def firstDecrease : Nat → List Int → Option Nat
  | _, [] => none
  | _, [_] => none
  | k, a :: b :: l => if b < a then some (k + 1) else firstDecrease (k + 1) (b :: l)

/-- The segments of a command: first value and length, from offsets (MOD bit 0 clear) or from segment IDs. -/
def ixRuns (ids : Bool) (list : List Int) : List (Nat × Nat) :=
  if ids then idRuns 0 list else (list.zip list.tail).map fun ab => (ab.1.toNat, (ab.2 - ab.1).toNat)

/-- Segmented reduction (03 R102). The items are the values: beyond N of them nothing is read, and the segments that begin there are
not written (R98); with no more than N, rows behind the last segment up to N are zero. Offsets that decrease end the command before
any segment is written (log entry 118). -/
def State.ixSegment (s : State) (e : Nat) (c : IxCmd) : State :=
  let ids := c.mod % 2 == 1
  let n := c.h1.entries
  s.ixGuard e [(c.h1, 0, n * elemBytes c.h1.fmt)] fun s =>
    let list := (List.range n).map (s.ixEntry c.h1)
    let cnt := if ids then list.length else (list.getLastD 0).toNat
    match (if ids then none else firstDecrease 0 list) with
    | some k => (s.ixDone e cnt 0 0).ixCapacity e k
    | none =>
      let runs := (ixRuns ids list).filter fun r => decide (cnt ≤ c.bound ∨ r.1 < c.bound)
      let positions (r : Nat × Nat) : List Nat := ((List.range r.2).map (r.1 + ·)).filter fun p => decide (p < c.bound)
      let used := runs.flatMap positions
      let vb := c.h0.rowBytes
      let rb := c.h2.rowBytes
      let f := c.h2.fmt
      if used.any fun p => decide (c.h0.room < (p + 1) * vb) then s.ixOutside e c 0
      else if decide (c.h2.room < runs.length * rb) then s.ixOutside e c 2
      else
        s.ixGuard e (used.map fun p => (c.h0, p * vb, vb)) fun s =>
          let r := ((List.range runs.length).zip runs).foldl
            (fun (acc : State × Nat) kr =>
              let ps := positions kr.2
              let z := segReduce (segOp c.op f) (ps.map (s.ixRow c.h0))
              let row := if ps.isEmpty then List.replicate c.h2.width (segEmpty c.op f) else z.1
              (acc.1.ixWrite c.h2 (kr.1 * rb) (packElems f row []), acc.2 ||| z.2)) (s, 0)
          let s' := if cnt ≤ c.bound then r.1.ixZero c.h2 rb runs.length c.bound else r.1
          (s'.ixDone e cnt 0 r.2).ixBound e c.bound cnt

/-- The order of a 32-bit key as an unsigned number, by key mode (03 R103): 0 UINT32, 1 INT32, 2 FP32. -/
def sortKey (mode k : Nat) : Nat :=
  match mode with
  | 0 => k
  | 1 => (k + 2 ^ 31) % 2 ^ 32
  | _ => if k < 2 ^ 31 then k + 2 ^ 31 else 2 ^ 32 - 1 - k

/-- Inserts before the first key that is not lower, so that earlier entries stay first among equals. -/
def insertKey (mode : Nat) (x : Nat × Nat) : List (Nat × Nat) → List (Nat × Nat)
  | [] => [x]
  | y :: l => if sortKey mode x.1 ≤ sortKey mode y.1 then x :: y :: l else y :: insertKey mode x l

/-- A stable ascending sort. -/
def sortKeys (mode : Nat) (l : List (Nat × Nat)) : List (Nat × Nat) := l.foldr (insertKey mode) []

/-- Radix sort (03 R103). -/
def State.ixSort (s : State) (e : Nat) (c : IxCmd) : State :=
  let cnt := c.h0.entries
  let m := Nat.min cnt c.bound
  s.ixGuard e [(c.h0, 0, 4 * m), (c.h1, 0, 4 * m)] fun s =>
    let word (o : IxOperand) (p : Nat) : Nat := leNat (s.ixRead o (4 * p) 4)
    let l := sortKeys (c.op - 5) ((List.range m).map fun p => (word c.h0 p, word c.h1 p))
    let s' := s.ixWrite c.h2 0 (l.flatMap fun kp => leBytes 4 kp.1)
    let s' := s'.ixWrite c.h3 0 (l.flatMap fun kp => leBytes 4 kp.2)
    let s' := (s'.ixZero c.h2 4 m c.bound).ixZero c.h3 4 m c.bound
    (s'.ixDone e cnt 0 0).ixBound e c.bound cnt

/-- The stored entries of a row-pointer array: row and position, in ascending row, then position. -/
def walkEntries (ptrs : List Int) : List (Nat × Nat) :=
  ((List.range (ptrs.length - 1)).zip (ptrs.zip ptrs.tail)).flatMap fun rp =>
    (List.range (rp.2.2 - rp.2.1).toNat).map fun k => (rp.1, rp.2.1.toNat + k)

/-- The gather table of a walk: rows of a CSR walk, blocks of a block-sparse one. -/
def IxCmd.walkTable (c : IxCmd) : IxOperand :=
  if c.op = 9 then { c.h3 with width := (field c.dims 5 0 + 1) * (field c.dims 11 6 + 1) } else c.h3

/-- Bytes of one item of a walk: the row, the column and the position, 32 bits each, then the gathered row (log entry 19). -/
def IxCmd.itemBytes (c : IxCmd) : Nat := 12 + (if c.h3.null then 0 else c.walkTable.rowBytes)

/-- CSR and block-sparse walks (03 R104). An item holds the row, the column and the position, then the gathered row of a CSR walk
(index col_idx[j], under R100) or block j of a block-sparse walk (log entry 19). Row pointers that decrease end the walk before any
item is written, with a count word of 0 (log entry 118). -/
def State.ixWalk (s : State) (e : Nat) (c : IxCmd) : State :=
  let n := c.h0.entries
  s.ixGuard e [(c.h0, 0, n * elemBytes c.h0.fmt)] fun s =>
    let ptrs := (List.range n).map (s.ixEntry c.h0)
    match firstDecrease 0 ptrs with
    | some k => (s.ixDone e 0 0 0).ixCapacity e (k - 1)
    | none =>
      let all := walkEntries ptrs
      let cnt := all.length
      let m := Nat.min cnt c.bound
      let items := all.take m
      let eb := elemBytes c.h1.fmt
      let blk := c.walkTable
      let size := c.itemBytes
      if items.any fun i => decide (c.h1.room < (i.2 + 1) * eb) then s.ixOutside e c 1
      else
        let row (i : Nat × Nat) : Int := if c.op = 9 then (i.2 : Int) else s.ixEntry c.h1 i.2
        let rows : List IxUse := if c.h3.null then [] else
          (items.filter fun i => decide (0 ≤ row i ∧ row i < blk.rows)).map fun i => (blk, (row i).toNat * blk.rowBytes, blk.rowBytes)
        s.ixGuard e ((items.map fun i => (c.h1, i.2 * eb, eb)) ++ rows) fun s =>
          let r := ((List.range m).zip items).foldl
            (fun (acc : State × Nat) ki =>
              let g := if c.h3.null then ([], 0) else s.gatherRow blk (row ki.2)
              let item := leBytes 4 ki.2.1 ++ leBytes 4 (wrap 32 (s.ixEntry c.h1 ki.2.2)) ++ leBytes 4 ki.2.2 ++ g.1
              (acc.1.ixWrite c.h2 (ki.1 * size) item, acc.2 + g.2)) (s, 0)
          ((r.1.ixZero c.h2 size m c.bound).ixDone e cnt r.2 0).ixBound e c.bound cnt

/-! ### Slots (03 R97; 13 R357, R358) -/

/-- Bytes read and written in each pass with n items. -/
def ixPasses (op n : Nat) (a b c d : IxOperand) (item : Nat) : List (Nat × Nat) :=
  match op with
  | 0 => [(n * (elemBytes a.fmt + b.rowBytes), n * b.rowBytes)]
  | 1 => List.replicate 4 (8 * n, 8 * n) ++ [(n * (b.rowBytes + c.rowBytes), n * c.rowBytes)]
  | 5 => List.replicate 4 (8 * n, 8 * n)
  | 6 => List.replicate 4 (8 * n, 8 * n)
  | 7 => List.replicate 4 (8 * n, 8 * n)
  | 8 => [(n * (8 + (if d.null then 0 else d.rowBytes)), n * item)]
  | 9 => [(n * (8 + (item - 12)), n * item)]
  | _ => [(n * (a.rowBytes + 4), n * a.rowBytes)]

/-- Cycles of a pass: one line read and one line written in each. -/
def passCycles (p : Nat × Nat) : Nat := Nat.max (ceilDiv p.1 128) (ceilDiv p.2 128)

/-- The passes of a command. -/
def IxCmd.passes (c : IxCmd) : List (Nat × Nat) := ixPasses c.op c.bound c.h0 c.h1 c.h2 c.h3 c.itemBytes

/-- The length of a command's slot in cycles. -/
def IxCmd.slotCycles (c : IxCmd) : Nat := 64 + (c.passes.map passCycles).sum

/-- The cycle of the slot in which the last pass begins. -/
def IxCmd.lastPass (c : IxCmd) : Nat := 64 + ((c.passes.dropLast).map passCycles).sum

/-- Operand k of a command. -/
def IxCmd.opnd (c : IxCmd) (k : Nat) : IxOperand := match k with | 0 => c.h0 | 1 => c.h1 | 2 => c.h2 | _ => c.h3

/-- Operands that a command reads from end to end, with their length. -/
def IxCmd.inputs (c : IxCmd) : List (Nat × Nat) :=
  let m := Nat.min c.bound c.h0.entries
  let whole (o : IxOperand) : Nat := o.entries * elemBytes o.fmt
  let sort := [(0, 4 * m), (1, 4 * m)]
  match c.op with
  | 0 => [(0, m * elemBytes c.h0.fmt)]
  | 1 => [(0, m * elemBytes c.h0.fmt), (1, m * c.h1.rowBytes)]
  | 5 => sort
  | 6 => sort
  | 7 => sort
  | 8 => [(0, whole c.h0)]
  | 9 => [(0, whole c.h0)]
  | _ => (1, whole c.h1) :: (if c.mod % 2 = 1 then [(0, Nat.min c.bound c.h1.entries * c.h0.rowBytes)] else [])

/-- Outputs with the bytes that the last pass delivers into each. -/
def IxCmd.outputs (c : IxCmd) : List (Nat × Nat) :=
  let sort := [(2, 4 * c.bound), (3, 4 * c.bound)]
  match c.op with
  | 0 => [(2, c.bound * c.h1.rowBytes)]
  | 5 => sort
  | 6 => sort
  | 7 => sort
  | 8 => [(2, c.bound * c.itemBytes)]
  | 9 => [(2, c.bound * c.itemBytes)]
  | _ => [(2, c.bound * c.h2.rowBytes)]

/-- Operands that a command reaches at addresses only its data give: a gather's table, a scatter-add's destination, the values of
segments that offsets name, a walk's column indices and table. No slot can be assigned at load to their lines in HBM (log entry 119). -/
def IxCmd.scattered (c : IxCmd) : List IxOperand :=
  let ks := match c.op with
    | 0 => [1] | 1 => [2] | 5 => [] | 6 => [] | 7 => [] | 8 => [1, 3] | 9 => [1, 3] | _ => if c.mod % 2 = 1 then [] else [0]
  (ks.map c.opnd).filter fun o => o.hbm && !o.null

/-- Port cycles of a command's deliveries into scratchpads, user 6: tile and cycle after the issue. The lines of the last pass go one
by one from its first cycle on, those of two outputs in turn (DESIGN CHOICE, log entry 119: R92 and R97 give the slot, not the cycle). -/
def IxCmd.deliveries (c : IxCmd) : List (Nat × Nat) :=
  let outs := c.outputs
  outs.zipIdx.flatMap fun p =>
    let o := c.opnd p.1.1
    if o.hbm || o.null then [] else (List.range (ceilDiv p.1.2 128)).map fun i => (o.tile, c.lastPass + outs.length * i + p.2)

/-- Line accesses of a command to HBM at addresses known at load: cycle after the issue in which each is eligible, whether it writes,
its address and operand. Reads follow each other from cycle 64 on, writes from the end of the slot on (DESIGN CHOICE, log entry 119). -/
def IxCmd.lines (c : IxCmd) : List (Nat × Bool × Nat × Nat) :=
  let of (l : List (Nat × Nat)) : List (Nat × Nat) :=
    (l.filter fun p => (c.opnd p.1).hbm && !(c.opnd p.1).null).flatMap fun p =>
      (List.range (ceilDiv p.2 128)).map fun i => ((c.opnd p.1).addr + 128 * i, p.1)
  let wr := if c.op = 1 then [] else of c.outputs
  ((of c.inputs).zipIdx.map fun p => (64 + p.2, false, p.1.1, p.1.2)) ++ (wr.zipIdx.map fun p => (c.slotCycles + p.2, true, p.1.1, p.1.2))

/-! ### The end of the slot -/

/-- Accesses of an engine: its reads that have not been served; writes that wait for their data. -/
def Access.ofEngine (a : Access) (e : Nat) (wr : Bool) : Bool :=
  decide (a.engine = some e ∧ a.state = .issued) && a.write == wr && a.data.isEmpty

/-- A command's inputs are there: its reads have been served, and no write that a tile or an engine issued is still on its way to the
HBM operands it reaches by its data (13 R359). -/
def State.ixReady (s : State) (e : Nat) (c : IxCmd) : Bool :=
  !(s.hbm.plan.any fun a => a.ofEngine e false ||
    (a.state == .issued && a.write && a.engine != some e &&
      c.scattered.any fun o => decide (a.hbm < o.addr + o.room ∧ o.addr < a.hbm + 128)))

/-- The lines a command writes to HBM in assigned slots wait there with their data: the memory has them once they are served. -/
def State.ixStage (s u : State) (e : Nat) : State :=
  let mine := u.hbm.plan.filter (·.ofEngine e true)
  let plan := u.hbm.plan.map fun a => if a.ofEngine e true then { a with data := Bytes.readN u.hbm.mem a.hbm 128 } else a
  let mem := mine.foldl (fun m a => Bytes.writeN m a.hbm (Bytes.readN s.hbm.mem a.hbm 128)) u.hbm.mem
  { u with hbm := { u.hbm with plan := plan, mem := mem } }

/-- The effect of a command. -/
def State.ixRun (s : State) (e : Nat) (c : IxCmd) : State :=
  match c.op with
  | 0 => s.ixGather e c
  | 1 => s.ixScatter e c
  | 2 => s.ixSegment e c
  | 3 => s.ixSegment e c
  | 4 => s.ixSegment e c
  | 5 => s.ixSort e c
  | 6 => s.ixSort e c
  | 7 => s.ixSort e c
  | _ => s.ixWalk e c

/-- The slot of a command ends: its effect stands and the engine is idle (03 R97, R98). While its inputs are late it goes on
(05 R149). Free values that reads of a bank that is not ON took are used up. -/
def execIndexSlotEnd (e : Nat) (s : State) : Host.Outcome State Fault Refusal :=
  match (s.ixe e).cmd with
  | none => ok s
  | some c =>
    if s.ixReady e c then
      let u := s.ixStage (s.ixRun e c) e
      let off := [c.h0, c.h1, c.h2, c.h3].any fun o => !o.hbm && !o.null && decide ((s.tile o.tile).bankSp.state ≠ .on)
      ok (if off then u.useFree (2 ^ 31) else u)
    else ok s

/-! ### Issue (04 R119) -/

/-- Elements of a row of an operand: the block width, or the logical row when that is longer than the widest block (DESIGN CHOICE, log
entry 117: 03 R100 has rows of up to 64 KiB, and BWM1 reaches 4,096 elements). -/
def Desc.rowElems (d : Desc) : Nat := if d.bw = 4096 ∧ 4096 < d.lrow then d.lrow else d.bw

/-- An operand of an IXC: local or remote scratchpad or HBM, or null. -/
def ixOperand (t : Nat) (x : Tile) (h : BitVec 9) : Option IxOperand :=
  let d := x.desc h
  let a := d.addr x.seq.li
  let o : IxOperand := { hbm := d.space == 6, tile := if d.space = 5 then d.rtile else t, addr := a.toNat, fmt := d.fmt,
                         width := d.rowElems, room := d.base + 128 * d.extent - a.toNat, lrow := d.lrow, null := false }
  if h = 0x1FF then some { o with null := true, room := 0 }
  else if d.valid && (d.space == 0 || d.space == 5 || d.space == 6) && decide ((d.base : Int) ≤ a) then some o
  else none

/-- The command that an IXC issues with the bound CNT[NSEL] (04 R119), or the operand that is none. -/
def ixCmd (t : Nat) (x : Tile) (o : IxOp) (op : Nat) : Except (BitVec 9) IxCmd :=
  let n := (Sparse.get 0 x.seq.cnt o.nsel.toNat).toNat
  let dims := (Sparse.get 0 x.seq.cnt ((o.nsel.toNat + 1) % 16)).toNat
  match ixOperand t x o.h0, ixOperand t x o.h1, ixOperand t x o.h2, ixOperand t x o.h3 with
  | some a, some b, some c, some d =>
    .ok { op := op, tile := t, bundle := x.seq.bundle, handles := [o.h0, o.h1, o.h2, o.h3], bound := n, h0 := a, h1 := b, h2 := c,
          h3 := d, mod := o.mod.toNat, dims := dims }
  | none, _, _, _ => .error o.h0
  | _, none, _, _ => .error o.h1
  | _, _, none, _ => .error o.h2
  | _, _, _, none => .error o.h3

/-- The first operand whose extent is shorter than what the command touches there whatever its data: what R135 holds against the
extent at load and at issue. What depends on the data is held against it when the access is made. -/
def IxCmd.outside (c : IxCmd) : Option (BitVec 9) :=
  let io := c.inputs ++ (if c.op = 1 then [] else c.outputs)
  let short (k : Nat) : Bool := io.any fun p => p.1 == k && !(c.opnd k).null && decide ((c.opnd k).room < p.2)
  ((List.range 4).find? short).map fun k => c.handles.getD k 0x1FF

/-- The first delivery of a command that meets a taken port cycle: tile, cycle, the other user. -/
def State.ixClash (s : State) (base : Nat) (l : List (Nat × Nat)) : Option (Nat × Nat × Nat) :=
  l.findSome? fun p => ((s.tile p.1).portUser (base + p.2)).map fun u => (p.1, base + p.2, u)

/-- The access of the plan for a command's line. -/
def isEngineAccess (t e : Nat) (q : TileSeq) (line : Nat) (wr : Bool) (a : Access) : Bool :=
  decide (a.tile = t ∧ a.engine = some e ∧ a.sect = q.sect.toNat ∧ a.bundle = q.bundle ∧ a.line = line ∧ a.state = .assigned)
    && a.write == wr && a.pos == q.pos

/-- Issues a command's line accesses into their slots, or the operand of the first that has none (13 R479). -/
def State.ixAccesses (s : State) (t e : Nat) : List (Nat × Nat × Bool × Nat × Nat) → Except Nat State
  | [] => .ok s
  | l :: ls =>
    match issueAccess (isEngineAccess t e (s.tile t).seq l.1 l.2.2.1) ((s.tile t).now + l.2.1) [] none s.hbm.plan with
    | none => .error l.2.2.2.2
    | some plan => ({ s with hbm := { s.hbm with plan := plan } }).ixAccesses t e ls

/-- Issues an index-engine command: its slot starts (03 R97) with its port cycles and HBM slots. An operand outside its extent stops
the tile (04 R135), so does a line without a slot (13 R479) and a port cycle that another user has (03 R93). A busy engine takes no
command (log entry 19). -/
def State.ixIssue (s : State) (t : Nat) (o : IxOp) (op : Nat) : State :=
  if s.acts t o.pred then
    let x := s.tile t
    let cyc := x.seq.cycle
    match ixCmd t x o op with
    | .error h => s.badAccess t cyc 2 h
    | .ok c =>
      let e := o.ixe.toNat
      match c.outside with
      | some h => s.badAccess t cyc 2 h
      | none =>
        if (s.ixe e).cmd ≠ none then s
        else match s.ixClash cyc c.deliveries with
          | some q => s.portConflict q.1 q.2.1 q.2.2 6
          | none =>
            match s.ixAccesses t e (c.lines.zipIdx.map fun l => (l.2, l.1)) with
            | .error k => s.badAccess t cyc 2 (c.handles.getD k 0x1FF)
            | .ok s =>
              let s := c.deliveries.foldl (fun s p => s.setTile p.1 ((s.tile p.1).portTake 6 [cyc + p.2])) s
              s.setIxe e { s.ixe e with cmd := some c, tile := t }
  else s

/-- GTH. -/
def execGth (t : Nat) (o : IxOp) (s : State) : Host.Outcome State Fault Refusal := ok (s.ixIssue t o 0)
/-- GSC.ADD. -/
def execGscAdd (t : Nat) (o : IxOp) (s : State) : Host.Outcome State Fault Refusal := ok (s.ixIssue t o 1)
/-- SEG.SUM. -/
def execSegSum (t : Nat) (o : IxOp) (s : State) : Host.Outcome State Fault Refusal := ok (s.ixIssue t o 2)
/-- SEG.MAX. -/
def execSegMax (t : Nat) (o : IxOp) (s : State) : Host.Outcome State Fault Refusal := ok (s.ixIssue t o 3)
/-- SEG.MIN. -/
def execSegMin (t : Nat) (o : IxOp) (s : State) : Host.Outcome State Fault Refusal := ok (s.ixIssue t o 4)
/-- SORT.U32. -/
def execSortU32 (t : Nat) (o : IxOp) (s : State) : Host.Outcome State Fault Refusal := ok (s.ixIssue t o 5)
/-- SORT.I32. -/
def execSortI32 (t : Nat) (o : IxOp) (s : State) : Host.Outcome State Fault Refusal := ok (s.ixIssue t o 6)
/-- SORT.F32. -/
def execSortF32 (t : Nat) (o : IxOp) (s : State) : Host.Outcome State Fault Refusal := ok (s.ixIssue t o 7)
/-- WALK.CSR. -/
def execWalkCsr (t : Nat) (o : IxOp) (s : State) : Host.Outcome State Fault Refusal := ok (s.ixIssue t o 8)
/-- WALK.BSP. -/
def execWalkBsp (t : Nat) (o : IxOp) (s : State) : Host.Outcome State Fault Refusal := ok (s.ixIssue t o 9)

end Sys2Proof.Machine
end

