-- ==== Sys2Proof/Machine/Digest.lean ====
section
/-!
DEFINITION. Glint partials of an operand's elements at their logical indices (05 R152–R154), and the weight-stream sum of a
checked pass (R160).
-/

namespace Sys2Proof.Machine

/-- Elements per alignment unit (05 R154). -/
def alignUnit (f : Nat) : Nat := match fmtBits f with | 4 => 8 | 6 => 16 | 8 => 4 | 16 => 2 | _ => 1

/-- The word index of a logical element index; a negative one is taken modulo the order of G (log entry 17). -/
def wordIndex (f : Nat) (i : Int) : Nat := ((i * fmtBits f / 32) % ((ldP : Int) - 1)).toNat

/-- The partial of a run of elements that starts at element e0 of an operand. -/
def elemPartial (d : Desc) (li : List Nat) (e0 : Nat) (xs : List Nat) : Nat :=
  let au := alignUnit d.fmt
  let us := chunksOf au xs
  ((List.range us.length).zip us).foldl
    (fun acc ju =>
      let i := wordIndex d.fmt (d.index li (e0 + ju.1 * au))
      (acc + ldPartial i (wordsOf (packElems d.fmt ju.2 []))) % ldP) 0

/-- A partial added into a digest accumulator modulo P. -/
def Tile.addDa (x : Tile) (k part : Nat) : Tile :=
  { x with da := Sparse.set 0 x.da k ((Sparse.get 0 x.da k + part) % ldP) }

/-- A weight-stream path digests a pass when every loop level whose LSTRIDE is 0 has LI = 0 (05 R160). -/
def digestedPass (d : Desc) (li : List Nat) : Bool :=
  (List.range 4).all fun k => !(d.lstride.getD k 0 == 0) || li.getD k 0 == 0

/-- A checked pass adds its partial to the sum the step sequencer holds for the tensor (05 R160, R161). -/
def State.addWeightSum (s : State) (tid part : Nat) : State :=
  { s with seqr := { s.seqr with wsum := Sparse.set 0 s.seqr.wsum tid ((Sparse.get 0 s.seqr.wsum tid + part) % ldP) } }

end Sys2Proof.Machine
end

