-- ==== Sys2Proof/Machine/MSlot.lean ====
section
/-!
DEFINITION. The M slot (02; 04 R114–R116, R480): LDS, MMA, EWM, DRN, ACC.FLIP.
-/

namespace Sys2Proof.Machine

/-! ### Geometry (02 R49–R51, R478) -/

/-- Contraction elements per column. -/
def ksOf (f g : Nat) : Nat := if fmtBits f ≤ 6 ∧ fmtBits g ≤ 6 then 128 else 64

/-- Cycles per streamed vector of a class. -/
def vecCycles (cls : Nat) : Nat := match cls with | 0 => 1 | 1 => 4 | 2 => 6 | _ => 28

/-- Bytes of a streamed vector; a block-scaled one carries its scale bytes after its elements (log entry 18). -/
def vecBytes (f ks : Nat) : Nat := ks * fmtBits f / 8 + (if isBlock f then ks / 32 else 0)

/-- Elements of a run of bytes as values, element k scaled by scale byte k / 32 of a block-scaled format. -/
def scaledElems (f n : Nat) (data scales : List Byte) : List FVal :=
  let xs := unpackElems f n data
  ((List.range n).zip xs).map fun kx =>
    let v := decodeVal f kx.2
    if isBlock f then scaleVal (scaleExp (scales.getD (kx.1 / 32) 0).toNat) v else v

/-- Column c of a stationary set filled in format f. -/
def setColumn (x : Tile) (set f ks c : Nat) : List FVal :=
  let run := ks * fmtBits f / 8
  let data := Bytes.readN x.sets (set * 32768 + c * run) run
  let sc := Bytes.readN x.sets (set * 32768 + ks * fmtBits f / 16 * 128 + c * (ks / 32)) (ks / 32)
  scaledElems f ks data sc

/-- Ping-pong mode of the loaded program (04 R107). -/
def State.pingpong (s : State) : Bool := (Bytes.readLe s.prog.header 0x008 8).testBit 1

/-- The absolute row group of a field: the fill half for accumulation, the drain half for a drain (02 R71). -/
def State.rowGroup (s : State) (t : Nat) (drain : Bool) (g : Nat) : Nat :=
  if s.pingpong then g + (if (s.tile t).fillHalf != drain then 128 else 0) else g

/-! ### LDS (02 R53) -/

/-- One stationary line into the set. -/
def ldsLine (t : Nat) (o : LdsOp) (d : Desc) (a : Int) (c free i : Nat) (x : Tile) : Except LineStop Tile :=
  let k := if o.form then 2 * i else i
  match readSpLine t d o.handle 2 (c + k) 128 (free + 128 * i) (a + (128 * i : Nat)) x with
  | .error e => .error e
  | .ok r => .ok { r.1 with sets := Bytes.writeN r.1.sets (b2n o.set * 32768 + 128 * i) r.2 }

/-- An instruction with a network source issues, or tries again on the tile that it stalled (05 R147). -/
def State.retry (s : State) (t : Nat) (link : Bool) : State :=
  if link && decide ((s.tile t).seq.run = .stalled) then
    s.setSeq t { (s.tile t).seq with run := .running, need := none }
  else s

/-- The tile stalls: the instruction needs lines of a link input, each so long after its issue, that are not there (05 R147). -/
def State.stallOn (s : State) (t link : Nat) (offs : List Nat) : State :=
  s.setSeq t { (s.tile t).seq with run := .stalled, need := some (link, offs) }

/-- The bytes of the first n lines of a link input, and the tile without them. -/
def Tile.takeLines (x : Tile) (link n : Nat) : Tile × List (List Byte) :=
  let q := Sparse.get [] x.links link
  ({ x with links := Sparse.set [] x.links link (q.drop n) }, (q.take n).map (·.line))

/-- LDS from the scratchpad or from a network link; the set takes the descriptor's format (04 R480). An LDS whose lines do not
arrive in its cycles stalls the tile (05 R147). -/
def execLds (t : Nat) (o : LdsOp) (s : State) : Host.Outcome State Fault Refusal :=
  let s := s.retry t o.src
  if s.acts t o.pred then
    let x := s.tile t
    let d := x.desc o.handle
    let c := x.seq.cycle
    let n := o.lm1.toNat + 1
    let fill (y : Tile) : Tile :=
      { y with setFmt := Sparse.set 0 y.setFmt (b2n o.set) (d.fmt + 1), setTid := Sparse.set 0 y.setTid (b2n o.set) (d.tid + 1) }
    if o.src then
      let offs := (List.range n).map fun i => if o.form then 2 * i else i
      if !(d.valid && d.space == 7) then ok (s.badAccess t c 0 o.handle)
      else if x.linkReady d.link offs then
        let r := x.takeLines d.link n
        ok (s.setTile t (fill { r.1 with sets := Bytes.writeN r.1.sets (b2n o.set * 32768) r.2.flatten }))
      else ok (s.stallOn t d.link offs)
    else if !(d.valid && d.space == 0) then ok (s.badAccess t c 0 o.handle)
    else
      let r := runLines (ldsLine t o d (d.addr x.seq.li) c s.free) n 0 x
      let s' := (s.setTile t (fill r.1)).spFree t (128 * n)
      match r.2 with
      | none => ok s'
      | some e => ok (s'.lineStop t (c + (if o.form then 2 else 1) * e.1) 0 e.2)
  else ok s

/-! ### Streamed vectors (02 R55) -/

/-- Vectors per line, or lines per vector when a vector is longer than a line. -/
def vecsPerLine (vb : Nat) : Nat := 128 / vb

/-- Lines that n vectors take, and the cycle offset of line i. -/
def streamLines (vb n : Nat) : Nat := if vb ≤ 128 then ceilDiv n (vecsPerLine vb) else n * ceilDiv vb 128

def streamCycle (vb q i : Nat) : Nat :=
  if vb ≤ 128 then i * vecsPerLine vb * q else i / ceilDiv vb 128 * q + i % ceilDiv vb 128

/-- The vectors in lines read so far: whole vectors only. -/
def vectorsOf (vb n : Nat) (lines : List (List Byte)) : List (List Byte) :=
  let vs :=
    if vb ≤ 128 then lines.flatMap fun l => (List.range (vecsPerLine vb)).map fun j => (l.drop (j * vb)).take vb
    else ((chunksOf (ceilDiv vb 128) lines).filter fun c => c.length == ceilDiv vb 128).map fun c => c.flatten.take vb
  vs.take n

/-- One streamed line. -/
def streamLine (t : Nat) (d : Desc) (h : BitVec 9) (vb q : Nat) (a : Int) (c free i : Nat)
    (z : Tile × List (List Byte)) : Except LineStop (Tile × List (List Byte)) :=
  match readSpLine t d h 3 (c + streamCycle vb q i) 128 (free + 128 * i) (a + (128 * i : Nat)) z.1 with
  | .error e => .error e
  | .ok r => .ok (r.1, z.2 ++ [r.2])

/-- Cycles after its issue in which a stream's lines enter. -/
def streamOffs (vb q n : Nat) : List Nat := (List.range (streamLines vb n)).map (streamCycle vb q)

/-- What a stream gives: the tile after it, the vectors that entered, and a stop with its cycle; none when its link's lines
do not arrive in their cycles. -/
def State.stream (s : State) (t : Nat) (link : Bool) (d : Desc) (h : BitVec 9) (vb q n : Nat) :
    Option (Tile × List (List Byte) × Option (Nat × LineStop)) :=
  let x := s.tile t
  let c := x.seq.cycle
  let m := streamLines vb n
  if link then
    if x.linkReady d.link (streamOffs vb q n) then
      let r := x.takeLines d.link m
      some (r.1, vectorsOf vb n r.2, none)
    else none
  else
    let r := runLines (streamLine t d h vb q (d.addr x.seq.li) c s.free) m 0 (x, [])
    some (r.1.1, vectorsOf vb n r.1.2, r.2.map fun e => (c + streamCycle vb q e.1, e.2))

/-! ### Blocks (02 R61–R63, R65, R70) -/

/-- The row groups of the block a row group belongs to; a row group of no block stands alone. -/
def Tile.blockOf (x : Tile) (g : Nat) : List Nat :=
  let b := (rgUnpack (Sparse.get 0 x.rgw g)).base
  let gs := (List.range (Sparse.get 0 x.blkLen b)).map (b + ·)
  if gs.contains g && gs.all fun k => (rgUnpack (Sparse.get 0 x.rgw k)).base == b then gs else [g]

/-- Status words of row groups changed alike. -/
def Tile.mapWords (x : Tile) (gs : List Nat) (f : RgFields → RgFields) : Tile :=
  { x with rgw := gs.foldl (fun m g => Sparse.set 0 m g (rgPack (f (rgUnpack (Sparse.get 0 m g))))) x.rgw }

/-- Opens a block of n row groups at g: at the word's W with RC kept when it awaits replay there over the same span, else at
W with RC = 0; entries V = 0 with NZ set (02 R62). -/
def Tile.openBlock (x : Tile) (g n : Nat) (w : Int) (step : Bool) : Tile :=
  let old := rgUnpack (Sparse.get 0 x.rgw g)
  let again := old.pend && old.base == g && Sparse.get 0 x.blkLen g == n
  let f : RgFields := { w := if again then old.w else w, base := g, sat := false, rc := if again then old.rc else 0,
                        pend := false, step := step, frz := false, opn := true }
  let gs := (List.range n).map (g + ·)
  let y := x.mapWords gs fun _ => f
  { y with blkLen := Sparse.set 0 y.blkLen g n,
           idle := y.idle.filter fun k => !gs.contains k,
           acc := (List.range (64 * n)).foldl (fun m k => Sparse.set AccEntry.zero m (64 * g + k) AccEntry.opened) y.acc }

/-- The replay loop in its fourth execution (02 R70). -/
def TileSeq.fourth (q : TileSeq) : Bool := q.loops.any fun l => l.rpl && decide (4 ≤ l.execs)

/-- Whether an entry's ECC mark is m. -/
def Tile.accMarked (x : Tile) (g m : Nat) : List Nat :=
  ((List.range 64).map (64 * g + ·)).filter fun k => Sparse.get 0 x.accErr k == m

/-- What one row group's accumulation found. -/
structure AccNote where
  /-- entries that saturated -/
  sat : Nat
  /-- row group with a double-bit error -/
  bad : Option Nat
  deriving DecidableEq, Repr, Inhabited

/-- Adds 64 column sums, as a function of the window exponent, into row group g: frozen blocks take nothing, though IV is raised
where a product is formed (01 R26); an overflow freezes the block for replay or saturates (02 R58, R59, R62, R63, R65, R70). The
sum that overflows is tested before it is stored and is not stored (log entry 12). -/
def Tile.accumulate (x : Tile) (g : Nat) (sums : Int → List ColSum) : Tile × AccNote :=
  let f := rgUnpack (Sparse.get 0 x.rgw g)
  if f.frz then
    ({ x with flags := raise x.flags (((sums f.w).foldl (fun a c => a ||| c.fl) 0) &&& fIV) }, { sat := 0, bad := none })
  else if !(x.accMarked g 2).isEmpty then (x, { sat := 0, bad := some g })
  else
    let fixed := x.accMarked g 1
    let x := { x with accErr := fixed.foldl (fun m k => Sparse.set 0 m k 0) x.accErr,
                      ctr := { x.ctr with accEcc := satAdd 32 x.ctr.accEcc fixed.length } }
    let cs := (List.range 64).zip (sums f.w)
    let fl := cs.foldl (fun a c => a ||| c.2.fl) 0
    let x := { x with flags := raise x.flags fl }
    let ent (k : Nat) : AccEntry := Sparse.get AccEntry.zero x.acc (64 * g + k)
    let ovf := (cs.filter fun c => (ent c.1).overflows c.2).length
    let blk := x.blockOf g
    if ovf = 0 then
      ({ x with acc := cs.foldl (fun m (c : Nat × ColSum) => Sparse.set AccEntry.zero m (64 * g + c.1) ((ent c.1).store c.2)) x.acc },
        { sat := 0, bad := none })
    else if f.rc < 3 && !x.seq.fourth then
      let upd (c : Nat × ColSum) : AccEntry :=
        if (ent c.1).overflows c.2 then (ent c.1).withFlags c.2 else (ent c.1).store c.2
      let y := { x with acc := cs.foldl (fun m (c : Nat × ColSum) => Sparse.set AccEntry.zero m (64 * g + c.1) (upd c)) x.acc }
      let y := y.mapWords blk fun w => { w with frz := true, pend := true, w := w.w + 32, rc := w.rc + 1 }
      ({ y with ctr := { y.ctr with replays := satAdd 32 y.ctr.replays 1 } }, { sat := 0, bad := none })
    else
      let upd (c : Nat × ColSum) : AccEntry :=
        if (ent c.1).overflows c.2 then (ent c.1).saturate c.2 else (ent c.1).store c.2
      let y := { x with acc := cs.foldl (fun m (c : Nat × ColSum) => Sparse.set AccEntry.zero m (64 * g + c.1) (upd c)) x.acc,
                        flags := raise x.flags fOF,
                        ctr := { x.ctr with satEntries := satAdd 32 x.ctr.satEntries ovf } }
      (y.mapWords blk fun w => { w with sat := true }, { sat := ovf, bad := none })

/-- Several accumulations in order, up to one that meets a double-bit error. -/
def Tile.accumulateAll (x : Tile) : List (Nat × (Int → List ColSum)) → Tile × AccNote
  | [] => (x, { sat := 0, bad := none })
  | a :: l =>
    let r := x.accumulate a.1 a.2
    match r.2.bad with
    | some _ => r
    | none =>
      let z := r.1.accumulateAll l
      (z.1, { z.2 with sat := r.2.sat + z.2.sat })

/-! ### MMA and EWM (02 R49, R77; 04 R115) -/

/-- What MMA and EWM share: stationary set, streamed operand, base row group, class, open and its span, W, source. -/
structure PassOp where
  set : Bool
  opn : Bool
  step : Bool
  handle : BitVec 9
  g : Nat
  n : Nat
  w : Int
  link : Bool
  deriving DecidableEq, Repr, Inhabited

/-- The format of a stationary set: that of the LDS that last filled it; of a set that no LDS has filled since the load the streamed
operand's own, the set's bytes being zero (DESIGN CHOICE, log entry 115). -/
def Tile.stationaryFmt (x : Tile) (set streamed : Nat) : Nat :=
  let k := Sparse.get 0 x.setFmt set
  if k = 0 then streamed else k - 1

/-- The array's last update of a pass of n vectors at q cycles each, issued at cycle c: the end of cycle c + (n − 1) q + (q − 1) + 8
(02 R56, R66). -/
def TileSeq.occupy (z : TileSeq) (c n q : Nat) : TileSeq := { z with land := Nat.max z.land (c + n * q + 7) }

/-- A suppressed MMA or EWM occupies the array as if it executed (04 R112). -/
def State.idlePass (s : State) (t : Nat) (h : BitVec 9) (set n : Nat) : State :=
  let x := s.tile t
  if s.issues t then s.setSeq t (x.seq.occupy x.seq.cycle n (vecCycles ((matClass (x.stationaryFmt set (x.desc h).fmt)).getD 0)))
  else s

/-! ### W-passes (06 R168, R175, R178) -/

/-- The products of a W-pass. -/
inductive WProduct where
  | dw | a | g
  deriving DecidableEq, Repr, Inhabited

/-- The product that a stationary set and a streamed operand form, when both are saved tensors of one layer, with the layer's curvature
record: X with dY is dW, X with X is A, dY with dY is G (06 R168). -/
def State.wProduct (s : State) (t set : Nat) (h : BitVec 9) : Option (Nat × WProduct) :=
  let x := s.tile t
  match s.seqr.names.saved.find? fun v => v.tid == (x.desc h).tid,
        s.seqr.names.saved.find? fun v => v.tid + 1 == Sparse.get 0 x.setTid set with
  | some a, some b =>
    if s.seqr.tag.isNone ∨ a.record ≠ b.record then none
    else match a.dy, b.dy with
      | true, false => some (a.record, .dw)
      | false, false => some (a.record, .a)
      | true, true => some (a.record, .g)
      | false, true => none
  | _, _ => none

/-- The window exponent at which a span opens: that of the layer's curvature record for a product of a W-pass (06 R175), the
instruction's otherwise. -/
def State.spanWindow (s : State) (p : Option (Nat × WProduct)) (w : Int) : Int :=
  let f (r hi lo : Nat) : Int := (BitVec.ofNat 16 (s.recField r 0x28 hi lo)).toInt
  match p with
  | none => w
  | some (r, .dw) => f r 15 0
  | some (r, .a) => f r 31 16
  | some (r, .g) => f r 47 32

/-- A Gram span that this step does not run: the layer gathers no statistics in it, or not on that side (06 R178). -/
def State.gramIdle (s : State) (p : Option (Nat × WProduct)) : Bool :=
  match p with
  | some (r, .a) => !(s.gathers r && s.curvOn r false)
  | some (r, .g) => !(s.gathers r && s.curvOn r true)
  | _ => false

/-- A pass of a Gram span that does not run keeps its cycles as idle cycles: the array is occupied, its lines leave the link, and the row
groups it would open are marked for the drain (06 R178). -/
def State.idleGram (s : State) (t : Nat) (o : PassOp) : State :=
  let x := s.tile t
  let d := x.desc o.handle
  let fs := x.stationaryFmt (b2n o.set) d.fmt
  let vb := vecBytes d.fmt (ksOf fs d.fmt)
  let q := vecCycles ((matClass fs).getD 0)
  if o.link && !x.linkReady d.link (streamOffs vb q o.n) then s.stallOn t d.link (streamOffs vb q o.n)
  else
    let y := if o.link then (x.takeLines d.link (streamLines vb o.n)).1 else x
    let gs := (List.range o.n).map (s.rowGroup t false o.g + ·)
    let y := if o.opn then { y with idle := (y.idle.filter fun k => !gs.contains k) ++ gs } else y
    s.setTile t { y with seq := y.seq.occupy y.seq.cycle o.n q }

/-- A pass: the class check of R480, the stream, the opening, the accumulations `work` makes of the vectors that entered, the
weight-stream digest, and the stops. `span` is how many row groups an OPEN opens. -/
def State.pass (s : State) (t : Nat) (o : PassOp) (span : Nat → Nat)
    (work : Tile → Nat → Nat → Nat → Nat → List (List FVal) → List (Nat × (Int → List ColSum))) : State :=
  let x := s.tile t
  let d := x.desc o.handle
  let c := x.seq.cycle
  let set := b2n o.set
  let fs := x.stationaryFmt set d.fmt
  if !(d.valid && d.space == (if o.link then 7 else 0)) then s.badAccess t c 0 o.handle
  else match matClass fs, matClass d.fmt with
    | some cls, some cls' =>
      if cls ≠ cls' then s.badAccess t c 0 o.handle
      else
        let ks := ksOf fs d.fmt
        let vb := vecBytes d.fmt ks
        let q := vecCycles cls
        match s.stream t o.link d o.handle vb q o.n with
        | none => s.stallOn t d.link (streamOffs vb q o.n)
        | some r =>
          let g := s.rowGroup t false o.g
          let y := if o.opn then r.1.openBlock g (span ks) o.w o.step else r.1
          let el := ks * fmtBits d.fmt / 8
          let vecs := r.2.1.map fun v => scaledElems d.fmt ks (v.take el) (v.drop el)
          let z := y.accumulateAll (work y fs ks cls g vecs)
          let z' := { z.1 with seq := z.1.seq.occupy c o.n q }
          let s' := (s.setTile t z').spFree t (128 * streamLines vb o.n)
          let s' := if z.2.sat = 0 then s' else { s' with seqr := { s'.seqr with sat := true } }.addStatus stSaturated
          let raw := (r.2.1.map fun v => unpackElems d.fmt ks (v.take el)).flatten
          let s' := if d.dchk && digestedPass d x.seq.li then s'.addWeightSum d.tid (elemPartial d x.seq.li 0 raw) else s'
          let s' := match z.2.bad with | none => s' | some b => s'.eccFault t (4096 + b)
          match r.2.2 with
          | none => s'
          | some e => s'.lineStop t e.1 0 e.2
    | _, _ => s.badAccess t c 0 o.handle

/-- MMA: vector r adds its 64 column sums into row group g + r (02 R49). -/
def mmaWork (set : Nat) (x : Tile) (fs ks cls g : Nat) (vecs : List (List FVal)) : List (Nat × (Int → List ColSum)) :=
  let cols := (List.range 64).map (setColumn x set fs ks)
  ((List.range vecs.length).zip vecs).map fun rv => (g + rv.1, fun w => cols.map fun col => columnSum cls w col rv.2)

def execMma (t : Nat) (o : MmaOp) (s : State) : Host.Outcome State Fault Refusal :=
  let s := s.retry t o.src
  if s.acts t o.pred then
    let p : PassOp := { set := o.set, opn := o.opn, step := o.step, handle := o.handle, g := o.g.toNat,
                        n := o.nm1.toNat + 1, w := o.w.toInt, link := o.src }
    let w := s.wProduct t (b2n o.set) o.handle
    if s.gramIdle w then ok (s.idleGram t p)
    else ok (s.pass t { p with w := s.spanWindow w o.w.toInt } (fun _ => o.nm1.toNat + 1) (mmaWork (b2n o.set)))
  else ok (s.idlePass t o.handle (b2n o.set) (o.nm1.toNat + 1))

/-- EWM: vector r times stationary row K + r into row group G, and for 128 elements row K + r + 64 into G + 1 (04 R115). -/
def ewmWork (set k : Nat) (x : Tile) (fs ks cls g : Nat) (vecs : List (List FVal)) : List (Nat × (Int → List ColSum)) :=
  let cols := (List.range 64).map (setColumn x set fs ks)
  let row (r off : Nat) (v : List FVal) (w : Int) : List ColSum :=
    ((List.range 64).zip cols).map fun cc => productOf cls w (cc.2.getD (k + r + off) default) (v.getD (off + cc.1) default)
  ((List.range vecs.length).zip vecs).flatMap fun rv =>
    (g, row rv.1 0 rv.2) :: (if ks = 128 then [(g + 1, row rv.1 64 rv.2)] else [])

def execEwm (t : Nat) (o : EwmOp) (s : State) : Host.Outcome State Fault Refusal :=
  let s := s.retry t o.src
  if s.acts t o.pred then
    let p : PassOp := { set := o.set, opn := o.opn, step := o.step, handle := o.handle, g := o.g.toNat,
                        n := o.nm1.toNat + 1, w := o.w.toInt, link := o.src }
    ok (s.pass t p (fun ks => ks / 64) (ewmWork (b2n o.set) o.k.toNat))
  else ok (s.idlePass t o.handle (b2n o.set) (o.nm1.toNat + 1))

/-! ### DRN (02 R69, R73–R76; 04 R116) -/

/-- The outputs of a row group and the flags they raise. -/
def Tile.drainRow (x : Tile) (g d : Nat) (rm : Rm) (sat : Bool) : List Nat × Nat :=
  let f := rgUnpack (Sparse.get 0 x.rgw g)
  if f.frz && f.pend && f.step then (List.replicate 64 (frozenOutput d), 0)
  else
    let rs := (List.range 64).map fun k => drainEntry d rm sat f.w (Sparse.get AccEntry.zero x.acc (64 * g + k))
    (rs.map (·.1), rs.foldl (fun a r => a ||| r.2) 0)

/-- The row statistics of a drained row group: NaN for a frozen STEP-class block with floating-point outputs. -/
def Tile.drainStats (x : Tile) (g d : Nat) (outs : List Nat) : Nat × Nat :=
  let f := rgUnpack (Sparse.get 0 x.rgw g)
  if f.frz && f.pend && f.step then (if isInt d then (0, 0) else (canonNan (rowFmt d), canonNan (rowFmt d)))
  else rowStats d outs

/-- Line i of a drained row, to the scratchpad (port user 4) or to a vector buffer, in cycle c + i. -/
def drainLine (t : Nat) (d : Desc) (h : BitVec 9) (a : Int) (c : Nat) (bytes : List Byte) (i : Nat) (x : Tile) :
    Except LineStop Tile :=
  let p := (bytes.drop (128 * i)).take 128
  let a := a + (128 * i : Nat)
  match d.vb? with
  | some b =>
    let v : VbOpnd := { vb := b, off := a, d := d }
    if v.fits 128 then .ok (v.write x p) else .error (.bad h)
  | none =>
    if !(d.covers a 128 && inSp a 128) then .error (.bad h)
    else
      match x.portUser (c + i) with
      | some u => .error (.clash t (c + i) u 4)
      | none => .ok ((x.portTake 4 [c + i]).spWrite a.toNat p)

/-- One row group of a drain: read, flags, output lines, row statistics, Glint partial, each in its cycle (02 R76). RSP advances
also past a row's statistics that are not written (log entry 86). -/
def drainStep (t : Nat) (o : DrnOp) (d : Desc) (a : Int) (g0 c j : Nat) (x : Tile) : Tile × Option (Nat × LineStop) :=
  let g := g0 + j
  let size := 64 * fmtBits d.fmt / 8
  let lines := size / 128
  let c := c + lines * j
  if !(x.accMarked g 2).isEmpty then (x, some (c, .ecc (4096 + g)))
  else
    let outs := x.drainRow g d.fmt (rmOf o.rm) o.sat
    let y := { x with flags := raise x.flags outs.2
                      ctr := { x.ctr with accEcc := satAdd 32 x.ctr.accEcc (x.accMarked g 1).length } }
    let r := runLines (drainLine t d o.handle (a + (size * j : Nat)) (c + 3) (packElems d.fmt outs.1 [])) lines 0 y
    match r.2 with
    | some e => (r.1, some (c + 3 + e.1, e.2))
    | none =>
      let st := x.drainStats g d.fmt outs.1
      let half := fmtBits (rowFmt d.fmt) / 8
      let p := Sparse.get 0 x.seq.rsp o.vb.toNat
      let z := { r.1 with seq := { x.seq with rsp := Sparse.set 0 x.seq.rsp o.vb.toNat (p + 2 * half) } }
      if 16384 < p + 2 * half then (z, some (c + 3 + lines, .bad o.handle))
      else
        let z := { z with vb := Bytes.writeN z.vb (vbAt o.vb.toNat p) (leBytes half st.1 ++ leBytes half st.2) }
        (z.addDa o.da.toNat (elemPartial d x.seq.li (64 * j) outs.1), none)

/-- n row groups of a drain from row group j on, up to the first that stops, with its program cycle. -/
def drainRows (step : Nat → Tile → Tile × Option (Nat × LineStop)) : Nat → Nat → Tile → Tile × Option (Nat × LineStop)
  | 0, _, x => (x, none)
  | n + 1, j, x =>
    let r := step j x
    match r.2 with
    | none => drainRows step n (j + 1) r.1
    | some e => (r.1, some e)

/-- Bases of frozen STEP-class blocks among row groups (02 R69). -/
def Tile.frozenBases (x : Tile) (gs : List Nat) : List Nat :=
  gs.foldl
    (fun acc g =>
      let f := rgUnpack (Sparse.get 0 x.rgw g)
      if f.frz && f.pend && f.step && !acc.contains f.base then acc ++ [f.base] else acc) []

/-- The Glint partial a drain's frozen STEP-class row groups add (02 R69, 08 R235). -/
def Tile.frozenPartial (x : Tile) (d : Desc) (gs : List Nat) : Nat :=
  ((List.range gs.length).zip gs).foldl
    (fun acc jg =>
      let f := rgUnpack (Sparse.get 0 x.rgw jg.2)
      if f.frz && f.pend && f.step then
        (acc + elemPartial d x.seq.li (64 * jg.1) (List.replicate 64 (frozenOutput d.fmt))) % ldP
      else acc) 0

/-- Once its last row group has been read a drain clears OPEN and FRZ and reports frozen STEP-class blocks; `x` is the tile at its
issue (02 R69, R76). It clears them in the row groups that it names: of a block that it names in part, the others keep them
(DESIGN CHOICE, log entry 116). -/
def State.drainDone (s : State) (t : Nat) (x : Tile) (d : Desc) (gs : List Nat) : State :=
  let s' := s.setTile t ((s.tile t).mapWords gs fun w => { w with opn := false, frz := false })
  let bases := x.frozenBases gs
  let dig := if bases.isEmpty then [] else [(d.tid, x.frozenPartial d gs)]
  { s' with seqr := { s'.seqr with reports := s'.seqr.reports ++ bases.map fun b => { layer := s.layerOf d.tid, tile := t, base := b }
                                   frozenDig := s'.seqr.frozenDig ++ dig } }

/-- DRN: drains n row groups; one that cannot go on stops the tile in that cycle. The drain of a Gram span that did not run is idle
(06 R178). -/
def execDrn (t : Nat) (o : DrnOp) (s : State) : Host.Outcome State Fault Refusal :=
  if s.acts t o.pred then
    let x := s.tile t
    let d := x.desc o.handle
    let c := x.seq.cycle
    let n := o.nm1.toNat + 1
    let g := s.rowGroup t true o.g.toNat
    let gs := (List.range n).map (g + ·)
    if !(d.valid && d.space ≤ 4) then ok (s.badAccess t c 0 o.handle)
    else if gs.all x.idle.contains then ok (s.setTile t { x with idle := x.idle.filter fun k => !gs.contains k })
    else
      let r := drainRows (drainStep t o d (d.addr x.seq.li) g c) n 0 x
      let u := s.setTile t r.1
      match r.2 with
      | none => ok (u.drainDone t x d gs)
      | some e =>
        let lastRead := c + 64 * fmtBits d.fmt / 1024 * o.nm1.toNat
        ok ((if lastRead < e.1 then u.drainDone t x d gs else u).lineStop t e.1 0 e.2)
  else ok s

/-- ACC.FLIP exchanges the halves and leaves their contents (02 R71). -/
def execAccFlip (t : Nat) (p : Pred) (s : State) : Host.Outcome State Fault Refusal :=
  if s.acts t p then ok (s.setTile t { s.tile t with fillHalf := !(s.tile t).fillHalf }) else ok s

end Sys2Proof.Machine
end

