-- ==== Sys2Proof/Machine/SlotWords.lean ====
section
/-!
DEFINITION. The four slots of a bundle as words (04 R110–R120) and the instructions they hold. `none` is check code 0x03: a
reserved opcode or field value, a non-zero unused or reserved bit, an unused handle that is not null, PEN where it must be
clear (R112, R113, R137).
-/

namespace Sys2Proof.Machine

/-- OP, bits [63:58]. -/
def slotOp (w : Nat) : Nat := field w 63 58

/-- S, bit 57. -/
def slotS (w : Nat) : Bool := bitAt w 57

/-- The predicate fields of R111. -/
def slotPred (w : Nat) : Pred := { pen := bitAt w 56, pinv := bitAt w 55, psel := BitVec.ofNat 2 (field w 54 53) }

/-- Bits [hi:lo] as a bit vector. -/
def bits (n w hi lo : Nat) : BitVec n := BitVec.ofNat n (field w hi lo)

/-- Bits [hi:lo] are 0. -/
def zeroed (w hi lo : Nat) : Bool := field w hi lo == 0

/-- An instruction when a condition holds. -/
def when (c : Bool) (i : Instr) : Option Instr := if c then some i else none

/-- The M slot (04 R114). -/
def decodeM (t w : Nat) : Option Instr :=
  let p := slotPred w
  match slotOp w with
  | 0x00 => when (zeroed w 52 0) (.nop t .m)
  | 0x01 => when (zeroed w 32 0)
      (.lds t { pred := p, set := bitAt w 52, form := bitAt w 51, src := bitAt w 50, handle := bits 9 w 49 41,
                lm1 := bits 8 w 40 33 })
  | 0x02 => when (zeroed w 7 0)
      (.mma t { pred := p, set := bitAt w 52, opn := bitAt w 51, step := bitAt w 50, handle := bits 9 w 49 41,
                g := bits 8 w 40 33, nm1 := bits 8 w 32 25, w := bits 16 w 24 9, src := bitAt w 8 })
  | 0x03 => when (zeroed w 3 0)
      (.ewm t { pred := p, set := bitAt w 52, opn := bitAt w 51, step := bitAt w 50, handle := bits 9 w 49 41,
                g := bits 8 w 40 33, k := bits 6 w 32 27, nm1 := bits 6 w 26 21, w := bits 16 w 20 5, src := bitAt w 4 })
  | 0x04 => when (zeroed w 19 0)
      (.drn t { pred := p, handle := bits 9 w 52 44, g := bits 8 w 43 36, nm1 := bits 8 w 35 28, rm := bits 3 w 27 25,
                sat := bitAt w 24, vb := bits 2 w 23 22, da := bits 2 w 21 20 })
  | 0x05 => when (zeroed w 52 0) (.accFlip t p)
  | _ => none

/-- V-slot opcodes in order from 0x01 (04 R117): the constructor and the handles used: 1 A, 2 A B, 3 A B C. -/
def vecTable : List ((Nat → VecOp → Instr) × Nat) :=
  [(.add, 2), (.sub, 2), (.mul, 2), (.fma, 3), (.sqrt, 1), (.rcp, 1), (.rsq, 1), (.div, 2), (.exp2, 1), (.log2, 1), (.max, 2),
   (.min, 2), (.abs, 1), (.neg, 1), (.cpysgn, 2), (.cmpEq, 2), (.cmpNe, 2), (.cmpLt, 2), (.cmpLe, 2), (.cmpGt, 2), (.cmpGe, 2),
   (.sel, 3), (.iadd, 2), (.isub, 2), (.imul, 2), (.and, 2), (.or, 2), (.xor, 2), (.shl, 2), (.shr, 2), (.sar, 2), (.redAdd, 1),
   (.redSsq, 1), (.redMax, 1), (.redMin, 1), (.cvt, 1)]

/-- The V slot (04 R117): RM and SAT are CVT's alone. -/
def decodeV (t w : Nat) : Option Instr :=
  if slotOp w = 0 then when (zeroed w 52 0) (.nop t .v)
  else
    match vecTable[slotOp w - 1]? with
    | none => none
    | some r =>
      let o : VecOp := { pred := slotPred w, strict := slotS w, d := bits 9 w 52 44, a := bits 9 w 43 35, b := bits 9 w 34 26,
                         c := bits 9 w 25 17, rm := bits 3 w 16 14, sat := bitAt w 13 }
      when (zeroed w 12 0 && (2 ≤ r.2 || o.b == 0x1FF) && (3 ≤ r.2 || o.c == 0x1FF) && (slotOp w == 0x24 || zeroed w 16 13))
        (r.1 t o)

/-- Index operations (04 R119): constructor, whether H3 must be null, MOD values allowed. -/
def ixcTable : List ((Nat → IxOp → Instr) × Bool × Nat) :=
  [(.gth, true, 0), (.gscAdd, true, 0), (.segSum, true, 1), (.segMax, true, 1), (.segMin, true, 1), (.sortU32, false, 0),
   (.sortI32, false, 0), (.sortF32, false, 0), (.walkCsr, false, 0), (.walkBsp, false, 0)]

/-- The X slot (04 R118, R119). -/
def decodeX (t w : Nat) : Option Instr :=
  let p := slotPred w
  let atom : AtomOp := { pred := p, tgt := bits 9 w 52 44, val := bits 9 w 43 35, ret := bits 9 w 34 26,
                         msel := bits 3 w 25 23 }
  match slotOp w with
  | 0x00 => when (zeroed w 52 0) (.nop t .x)
  | 0x01 => when (zeroed w 26 0)
      (.ldVb t { pred := p, sph := bits 9 w 52 44, vbh := bits 9 w 43 35, lm1 := bits 8 w 34 27, msel := 0 })
  | 0x02 => when (zeroed w 23 0)
      (.stVb t { pred := p, sph := bits 9 w 52 44, vbh := bits 9 w 43 35, lm1 := bits 8 w 34 27, msel := bits 3 w 26 24 })
  | 0x03 => when (zeroed w 24 0 && field w 26 25 != 3)
      (.xfer t { pred := p, src := bits 9 w 52 44, dst := bits 9 w 43 35, lm1 := bits 8 w 34 27, cast := bits 2 w 26 25 })
  | 0x04 => when (zeroed w 26 0)
      (.hbmRd t { pred := p, hbm := bits 9 w 52 44, sph := bits 9 w 43 35, lm1 := bits 8 w 34 27 })
  | 0x05 => when (zeroed w 26 0)
      (.hbmWr t { pred := p, hbm := bits 9 w 52 44, sph := bits 9 w 43 35, lm1 := bits 8 w 34 27 })
  | 0x06 => when (zeroed w 22 0) (.atomAdd t atom)
  | 0x07 => when (zeroed w 22 0) (.atomSwap t atom)
  | 0x08 =>
    match ixcTable[field w 47 44]? with
    | none => none
    | some r =>
      let o : IxOp := { pred := p, ixe := bits 5 w 52 48, nsel := bits 4 w 43 40, h0 := bits 9 w 39 31, h1 := bits 9 w 30 22,
                        h2 := bits 9 w 21 13, h3 := bits 9 w 12 4, mod := bits 4 w 3 0 }
      when ((!r.2.1 || o.h3 == 0x1FF) && decide (o.mod.toNat ≤ r.2.2)) (r.1 t o)
  | 0x09 => when (zeroed w 41 0) (.dgSt t { pred := p, sph := bits 9 w 52 44, da := bits 2 w 43 42 })
  | _ => none

/-- The C slot (04 R120). -/
def decodeC (t w : Nat) : Option Instr :=
  let p := slotPred w
  match slotOp w with
  | 0x00 => when (zeroed w 52 0) (.nop t .c)
  | 0x01 => when (!p.pen && zeroed w 22 0)
      (.loop t { csel := bits 4 w 52 49, lenm1 := bits 12 w 48 37, rpl := bitAt w 36, vlset := bitAt w 35,
                 vlm1 := bits 12 w 34 23 })
  | 0x02 => when (zeroed w 48 32) (.setc t p (bits 4 w 52 49) (bits 32 w 31 0))
  | 0x03 => when (zeroed w 48 32) (.addc t p (bits 4 w 52 49) (bits 32 w 31 0))
  | 0x04 => when (zeroed w 39 0) (.ldc t p (bits 4 w 52 49) (bits 9 w 48 40))
  | 0x05 => when (zeroed w 42 32 && decide (field w 45 43 ≤ 5) && (!bitAt w 50 || decide (field w 49 46 ≤ 3)))
      (.setcmp t { pred := p, j := bits 2 w 52 51, src := bitAt w 50, idx := bits 4 w 49 46, rel := bits 3 w 45 43,
                   imm := bits 32 w 31 0 })
  | 0x06 => when (zeroed w 40 0) (.skip t p (bits 12 w 52 41))
  | 0x07 => when (!p.pen && zeroed w 39 32)
      (.wait t { flag := bits 8 w 52 45, ths := bitAt w 44, csel := bits 4 w 43 40, imm := bits 32 w 31 0 })
  | 0x08 => when (zeroed w 43 32) (.signal t p (bits 8 w 52 45) (bitAt w 44) (bits 32 w 31 0))
  | 0x09 => when (zeroed w 52 12) (.setvl t p (bits 12 w 11 0))
  | 0x0A => when (zeroed w 49 32) (.setmsk t p (bits 3 w 52 50) (bits 32 w 31 0))
  | 0x0B => when (zeroed w 39 0) (.setrsp t p (bits 2 w 52 51) (bits 11 w 50 40))
  | 0x0C => when (zeroed w 50 0) (.dgClr t p (bits 2 w 52 51))
  | 0x0D => when (!p.pen && zeroed w 52 0) (.safe t)
  | 0x0E => when (!p.pen && zeroed w 52 0) (.halt t)
  | _ => none

/-- The slots of a bundle in the order M, V, X, C (04 R110). -/
def decodeBundle (t : Nat) (b : BitVec 256) : List (Option Instr) :=
  [decodeM t (field b.toNat 63 0), decodeV t (field b.toNat 127 64), decodeX t (field b.toNat 191 128),
   decodeC t (field b.toNat 255 192)]

end Sys2Proof.Machine
end

