-- ==== Sys2Proof/Machine/Vector.lean ====
section
/-!
DEFINITION. The V slot (03 R80–R89, 04 R117): every vector instruction over the elements of its buffers.
-/

namespace Sys2Proof.Machine

/-- Whether a V-slot instruction runs in STRICT mode: its S bit or the program's default (01 R27). -/
def State.strict (s : State) (o : VecOp) : Bool := o.strict || (Bytes.readLe s.prog.header 0x008 8).testBit 0

/-- An operand that holds n elements of its format within its extent and its buffer; else the handle to name. -/
def vecOpnd (x : Tile) (h : BitVec 9) (n : Nat) : Except (BitVec 9) VbOpnd :=
  match vbOpnd x h with
  | none => .error h
  | some v => if v.fits (packedBytes v.d.fmt n) then .ok v else .error h

/-- Writes result elements and raises flags (01 R46). -/
def State.vecWrite (s : State) (t : Nat) (d : VbOpnd) (rs : List Res) : State :=
  let x := s.tile t
  let y := VbOpnd.setElems x d (rs.map (·.1))
  s.setTile t { y with flags := raise y.flags (rs.foldl (fun a r => a ||| r.2) 0) }

/-- The stop of a vector operand that overruns (03 R82, 04 R135; slot 1). -/
def State.vecBad (s : State) (t : Nat) (h : BitVec 9) : State := s.badAccess t (s.tile t).seq.cycle 1 h

/-- One-operand element instructions: d = f(a) for elements 0 to VL − 1. -/
def State.vec1 (s : State) (t : Nat) (o : VecOp) (f : Bool → Nat → Nat → Res) : State :=
  if s.issues t && s.runs t o.pred then
    let x := s.tile t
    let n := x.seq.vl
    match vecOpnd x o.d n, vecOpnd x o.a n with
    | .ok d, .ok a => s.vecWrite t d ((a.elems x n).map (f (s.strict o) d.d.fmt))
    | .error h, _ => s.vecBad t h
    | _, .error h => s.vecBad t h
  else s

/-- Two-operand element instructions: d = f(a, b). -/
def State.vec2 (s : State) (t : Nat) (o : VecOp) (f : Bool → Nat → Nat → Nat → Res) : State :=
  if s.issues t && s.runs t o.pred then
    let x := s.tile t
    let n := x.seq.vl
    match vecOpnd x o.d n, vecOpnd x o.a n, vecOpnd x o.b n with
    | .ok d, .ok a, .ok b => s.vecWrite t d (List.zipWith (f (s.strict o) d.d.fmt) (a.elems x n) (b.elems x n))
    | .error h, _, _ => s.vecBad t h
    | _, .error h, _ => s.vecBad t h
    | _, _, .error h => s.vecBad t h
  else s

/-- Three-operand element instructions: d = f(a, b, c). -/
def State.vec3 (s : State) (t : Nat) (o : VecOp) (f : Bool → Nat → Nat → Nat → Nat → Res) : State :=
  if s.issues t && s.runs t o.pred then
    let x := s.tile t
    let n := x.seq.vl
    match vecOpnd x o.d n, vecOpnd x o.a n, vecOpnd x o.b n, vecOpnd x o.c n with
    | .ok d, .ok a, .ok b, .ok c =>
      let abc := (a.elems x n).zip ((b.elems x n).zip (c.elems x n))
      s.vecWrite t d (abc.map fun e => f (s.strict o) d.d.fmt e.1 e.2.1 e.2.2)
    | .error h, _, _, _ => s.vecBad t h
    | _, .error h, _, _ => s.vecBad t h
    | _, _, .error h, _ => s.vecBad t h
    | _, _, _, .error h => s.vecBad t h
  else s

/-- Reductions: one element at the destination (03 R86, R87). -/
def State.vecRed (s : State) (t : Nat) (o : VecOp) (f : Bool → Nat → List Nat → Res) : State :=
  if s.issues t && s.runs t o.pred then
    let x := s.tile t
    let n := x.seq.vl
    match vecOpnd x o.d 1, vecOpnd x o.a n with
    | .ok d, .ok a => s.vecWrite t d [f (s.strict o) d.d.fmt (a.elems x n)]
    | .error h, _ => s.vecBad t h
    | _, .error h => s.vecBad t h
  else s

/-- ADD: d = a + b. -/
def execAdd (t : Nat) (o : VecOp) (s : State) : Host.Outcome State Fault Refusal :=
  ok (s.vec2 t o fun st f a b => fpAdd st f a b)

/-- SUB: d = a − b. -/
def execSub (t : Nat) (o : VecOp) (s : State) : Host.Outcome State Fault Refusal :=
  ok (s.vec2 t o fun st f a b => fpSub st f a b)

/-- MUL: d = a × b. -/
def execMul (t : Nat) (o : VecOp) (s : State) : Host.Outcome State Fault Refusal :=
  ok (s.vec2 t o fun st f a b => fpMul st f a b)

/-- FMA: d = a × b + c, one rounding. -/
def execFma (t : Nat) (o : VecOp) (s : State) : Host.Outcome State Fault Refusal :=
  ok (s.vec3 t o fun st f a b c => fpFma st f a b c)

/-- SQRT. -/
def execSqrt (t : Nat) (o : VecOp) (s : State) : Host.Outcome State Fault Refusal :=
  ok (s.vec1 t o fun st f a => fpSqrt st f a)

/-- RCP. -/
def execRcp (t : Nat) (o : VecOp) (s : State) : Host.Outcome State Fault Refusal :=
  ok (s.vec1 t o fun st f a => fpRcp st f a)

/-- RSQ. -/
def execRsq (t : Nat) (o : VecOp) (s : State) : Host.Outcome State Fault Refusal :=
  ok (s.vec1 t o fun st f a => fpRsq st f a)

/-- DIV: d = a ÷ b. -/
def execDiv (t : Nat) (o : VecOp) (s : State) : Host.Outcome State Fault Refusal :=
  ok (s.vec2 t o fun st f a b => fpDiv st f a b)

/-- EXP2. -/
def execExp2 (t : Nat) (o : VecOp) (s : State) : Host.Outcome State Fault Refusal :=
  ok (s.vec1 t o fun st f a => fpExp2 st f a)

/-- LOG2. -/
def execLog2 (t : Nat) (o : VecOp) (s : State) : Host.Outcome State Fault Refusal :=
  ok (s.vec1 t o fun st f a => fpLog2 st f a)

/-- MAX (01 R42). -/
def execMax (t : Nat) (o : VecOp) (s : State) : Host.Outcome State Fault Refusal :=
  ok (s.vec2 t o fun st f a b => fpMaxMin true st f a b)

/-- MIN (01 R42). -/
def execMin (t : Nat) (o : VecOp) (s : State) : Host.Outcome State Fault Refusal :=
  ok (s.vec2 t o fun st f a b => fpMaxMin false st f a b)

/-- ABS clears the sign bit. -/
def execAbs (t : Nat) (o : VecOp) (s : State) : Host.Outcome State Fault Refusal :=
  ok (s.vec1 t o fun _ f a => fpAbs f a)

/-- NEG inverts the sign bit. -/
def execNeg (t : Nat) (o : VecOp) (s : State) : Host.Outcome State Fault Refusal :=
  ok (s.vec1 t o fun _ f a => fpNeg f a)

/-- CPYSGN: the magnitude of a with the sign of b. -/
def execCpysgn (t : Nat) (o : VecOp) (s : State) : Host.Outcome State Fault Refusal :=
  ok (s.vec2 t o fun _ f a b => fpCpysgn f a b)

/-- CMP.EQ (01 R43). -/
def execCmpEq (t : Nat) (o : VecOp) (s : State) : Host.Outcome State Fault Refusal :=
  ok (s.vec2 t o fun st f a b => fpCmp .eq st f a b)

/-- CMP.NE (01 R43). -/
def execCmpNe (t : Nat) (o : VecOp) (s : State) : Host.Outcome State Fault Refusal :=
  ok (s.vec2 t o fun st f a b => fpCmp .ne st f a b)

/-- CMP.LT (01 R43). -/
def execCmpLt (t : Nat) (o : VecOp) (s : State) : Host.Outcome State Fault Refusal :=
  ok (s.vec2 t o fun st f a b => fpCmp .lt st f a b)

/-- CMP.LE (01 R43). -/
def execCmpLe (t : Nat) (o : VecOp) (s : State) : Host.Outcome State Fault Refusal :=
  ok (s.vec2 t o fun st f a b => fpCmp .le st f a b)

/-- CMP.GT (01 R43). -/
def execCmpGt (t : Nat) (o : VecOp) (s : State) : Host.Outcome State Fault Refusal :=
  ok (s.vec2 t o fun st f a b => fpCmp .gt st f a b)

/-- CMP.GE (01 R43). -/
def execCmpGe (t : Nat) (o : VecOp) (s : State) : Host.Outcome State Fault Refusal :=
  ok (s.vec2 t o fun st f a b => fpCmp .ge st f a b)

/-- SEL: d = c ≠ 0 ? a : b, bit for bit. -/
def execSel (t : Nat) (o : VecOp) (s : State) : Host.Outcome State Fault Refusal :=
  ok (s.vec3 t o fun _ _ a b c => selBits a b c)

/-- IADD wraps (01 R16). -/
def execIadd (t : Nat) (o : VecOp) (s : State) : Host.Outcome State Fault Refusal :=
  ok (s.vec2 t o fun _ f a b => intAdd f a b)

/-- ISUB wraps. -/
def execIsub (t : Nat) (o : VecOp) (s : State) : Host.Outcome State Fault Refusal :=
  ok (s.vec2 t o fun _ f a b => intSub f a b)

/-- IMUL wraps. -/
def execImul (t : Nat) (o : VecOp) (s : State) : Host.Outcome State Fault Refusal :=
  ok (s.vec2 t o fun _ f a b => intMul f a b)

/-- AND. -/
def execAnd (t : Nat) (o : VecOp) (s : State) : Host.Outcome State Fault Refusal :=
  ok (s.vec2 t o fun _ _ a b => intAnd a b)

/-- OR. -/
def execOr (t : Nat) (o : VecOp) (s : State) : Host.Outcome State Fault Refusal :=
  ok (s.vec2 t o fun _ _ a b => intOr a b)

/-- XOR. -/
def execXor (t : Nat) (o : VecOp) (s : State) : Host.Outcome State Fault Refusal :=
  ok (s.vec2 t o fun _ _ a b => intXor a b)

/-- SHL by b mod width. -/
def execShl (t : Nat) (o : VecOp) (s : State) : Host.Outcome State Fault Refusal :=
  ok (s.vec2 t o fun _ f a b => intShl f a b)

/-- SHR by b mod width. -/
def execShr (t : Nat) (o : VecOp) (s : State) : Host.Outcome State Fault Refusal :=
  ok (s.vec2 t o fun _ f a b => intShr f a b)

/-- SAR by b mod width. -/
def execSar (t : Nat) (o : VecOp) (s : State) : Host.Outcome State Fault Refusal :=
  ok (s.vec2 t o fun _ f a b => intSar f a b)

/-- RED.ADD. -/
def execRedAdd (t : Nat) (o : VecOp) (s : State) : Host.Outcome State Fault Refusal :=
  ok (s.vecRed t o fun st f l => redAddOf st f l)

/-- RED.SSQ. -/
def execRedSsq (t : Nat) (o : VecOp) (s : State) : Host.Outcome State Fault Refusal :=
  ok (s.vecRed t o fun st f l => redSsqOf st f l)

/-- RED.MAX. -/
def execRedMax (t : Nat) (o : VecOp) (s : State) : Host.Outcome State Fault Refusal :=
  ok (s.vecRed t o fun st f l => redMaxMinOf true st f l)

/-- RED.MIN. -/
def execRedMin (t : Nat) (o : VecOp) (s : State) : Host.Outcome State Fault Refusal :=
  ok (s.vecRed t o fun st f l => redMaxMinOf false st f l)

/-! ### CVT (01 R35–R40) -/

/-- The scale bytes of n blocks: the E8M0 array that the descriptor's SCALE names, in a vector buffer. -/
def scaleOpnd (x : Tile) (d : Desc) (n : Nat) : Except (BitVec 9) VbOpnd :=
  let h := BitVec.ofNat 9 d.scale
  match vbOpnd x h with
  | none => .error h
  | some v => if v.fits n then .ok v else .error h

/-- The random words of a destination's elements (01 R35): only SR reads them. -/
def State.srWords (s : State) (t : Nat) (d : Desc) (rm : Rm) (n : Nat) : List Nat :=
  let li := (s.tile t).seq.li
  (List.range n).map fun e => if rm = .sr then crgWord s.prog.seed s.gbl.step d.tid 0 (d.index li e) else 0

/-- Source elements as values, with their scales. -/
def cvtSource (a : VbOpnd) (x : Tile) (n : Nat) (scales : List Byte) : List FVal :=
  ((List.range n).zip (a.elems x n)).map fun ke =>
    let v := decodeVal a.d.fmt ke.2
    if isBlock a.d.fmt then scaleVal (scaleExp (scales.getD (ke.1 / 32) 0).toNat) v else v

/-- The source of a CVT: its operand and, for a block-scaled one, its scale bytes. -/
def cvtInput (x : Tile) (h : BitVec 9) (n : Nat) : Except (BitVec 9) (List FVal) :=
  match vecOpnd x h n with
  | .error e => .error e
  | .ok a =>
    if isBlock a.d.fmt then
      match scaleOpnd x a.d (ceilDiv n 32) with
      | .error e => .error e
      | .ok sc => .ok (cvtSource a x n (sc.read x (ceilDiv n 32)))
    else .ok (cvtSource a x n [])

/-- CVT: D names the destination format, A the source format. -/
def execCvt (t : Nat) (o : VecOp) (s : State) : Host.Outcome State Fault Refusal :=
  if s.issues t && s.runs t o.pred then
    let x := s.tile t
    let n := x.seq.vl
    let rm := rmOf o.rm
    match vecOpnd x o.d n, cvtInput x o.a n with
    | .error h, _ => ok (s.vecBad t h)
    | _, .error h => ok (s.vecBad t h)
    | .ok d, .ok vs =>
      let us := s.srWords t d.d rm n
      if isBlock d.d.fmt then
        match scaleOpnd x d.d (ceilDiv n 32) with
        | .error h => ok (s.vecBad t h)
        | .ok sc =>
          let bs := ((chunksOf 32 us).zip (chunksOf 32 vs)).map fun uv => cvtBlock d.d.fmt rm uv.1 uv.2
          let x1 := VbOpnd.setElems x d (bs.flatMap (·.2.1))
          let x2 := sc.write x1 (bs.map fun b => BitVec.ofNat 8 b.1)
          ok (s.setTile t { x2 with flags := raise x2.flags (bs.foldl (fun a b => a ||| b.2.2) 0) })
      else ok (s.vecWrite t d ((us.zip vs).map fun uv => cvtVal d.d.fmt rm o.sat uv.1 uv.2))
  else ok s

end Sys2Proof.Machine
end

