-- ==== Sys2Proof/Machine/Image.lean ====
section
/-!
DEFINITION. The program image (04 R106–R108), its static checks, and the issue sequence under declared counts (04 R137) with
the accesses each bundle makes. The checks that rest on that sequence are in Validator.lean.
-/

namespace Sys2Proof.Machine

/-! ### The image in HBM (04 R106–R108) -/

/-- A program image: the memory it lies in, its address and IMAGE_LEN. -/
structure ProgImage where
  mem : Bytes
  addr : Nat
  len : Nat
  deriving DecidableEq, Repr, Inhabited

def ProgImage.le (p : ProgImage) (off n : Nat) : Nat := Bytes.readLe p.mem (p.addr + off) n

def ProgImage.flags (p : ProgImage) : Nat := p.le 0x008 8
def ProgImage.section (p : ProgImage) (q : Nat) : Nat := p.le (0x050 + 2 * q) 2
def ProgImage.power (p : ProgImage) (i : Nat) : Nat := p.le (0x060 + 4 * i) 4
def ProgImage.stepctl (p : ProgImage) : Nat := p.le 0x0A0 2
def ProgImage.imageOff (p : ProgImage) (t : Nat) : Nat := p.le (0x100 + 8 * t) 8
def ProgImage.pingpong (p : ProgImage) : Bool := bitAt p.flags 1
def ProgImage.strict (p : ProgImage) : Bool := bitAt p.flags 0
def ProgImage.preempt (p : ProgImage) : Bool := bitAt p.flags 3
def ProgImage.rrf (p : ProgImage) : Nat := field p.flags 6 5

/-- CNT_DECL as a count file. -/
def ProgImage.decl (p : ProgImage) : Sparse W32 :=
  (List.range 16).foldl (fun m i => Sparse.set 0 m i (BitVec.ofNat 32 (p.le (0x010 + 4 * i) 4))) []

/-- Logical tiles that run code. -/
def ProgImage.tiles (p : ProgImage) : List Nat := (List.range 1024).filter fun t => p.imageOff t != 0

/-- The 8-byte word of a tile image. -/
def ProgImage.word (p : ProgImage) (t : Nat) : Nat := p.le (p.imageOff t) 8
def ProgImage.nb (p : ProgImage) (t : Nat) : Nat := field (p.word t) 12 0
def ProgImage.nd (p : ProgImage) (t : Nat) : Nat := field (p.word t) 24 16

/-- The descriptors and bundles of a tile image. -/
def ProgImage.descs (p : ProgImage) (t : Nat) : List (BitVec 512) :=
  (List.range (p.nd t)).map fun k => BitVec.ofNat 512 (p.le (p.imageOff t + 8 + 64 * k) 64)

def ProgImage.bundles (p : ProgImage) (t : Nat) : List (BitVec 256) :=
  (List.range (p.nb t)).map fun k => BitVec.ofNat 256 (p.le (p.imageOff t + 8 + 64 * p.nd t + 32 * k) 32)

/-! ### Failures (04 R137) -/

/-- A failed check: 0 for the header and 1 otherwise, tile, bundle + 1 (0 when none applies), slot, code. The least comes
first. -/
structure Fail where
  rank : Nat
  tile : Nat
  bundle : Nat
  slot : Nat
  code : Nat
  deriving DecidableEq, Repr, Inhabited

def Fail.key (f : Fail) : List Nat := [f.rank, f.tile, f.bundle, f.slot, f.code]

/-- The first failure. -/
def firstFail : List Fail → Option Fail
  | [] => none
  | f :: l =>
    match firstFail l with
    | none => some f
    | some g => if posLt g.key f.key then some g else some f

/-- DETAIL[0..3] of the record: a field that does not apply holds 0xFFFF_FFFF. -/
def Fail.detail (f : Fail) : List Nat :=
  let na := 0xFFFFFFFF
  [f.code, if f.rank = 0 then na else f.tile, if f.bundle = 0 then na else f.bundle - 1, if f.bundle = 0 then na else f.slot]

def headerFail : Fail := { rank := 0, tile := 0, bundle := 0, slot := 0, code := 1 }

/-- Code 0x02: the tile images. -/
def ProgImage.imageFails (p : ProgImage) (t : Nat) : List Fail :=
  let off := p.imageOff t
  let w := p.word t
  let bad :=
    decide (off < 0x2100) || decide (p.len < off + 8) || p.nb t == 0 || decide (4096 < p.nb t) || decide (511 < p.nd t)
    || field w 15 13 != 0 || field w 63 25 != 0 || decide (p.len < off + 8 + 64 * p.nd t + 32 * p.nb t)
  if bad then [{ rank := 1, tile := t, bundle := 0, slot := 0, code := 2 }] else []

/-- Code 0x01: the header. A BADDR is held against the NB of the tiles whose image is sound (log entry 20). -/
def ProgImage.headerFails (p : ProgImage) : List Fail :=
  let f := p.flags
  let bad :=
    decide (p.len < 0x2100) || field f 15 8 != 1 || field f 63 16 != 0 || bitAt f 7 || (bitAt f 4 && !bitAt f 2)
    || p.section 0 == 0xFFFF || field p.stepctl 14 8 != 0 || p.le 0x0A2 94 != 0
    || ((List.range 16).any fun i => let e := p.power i; bitAt e 31 && field e 9 0 != 0)
    || ((p.tiles.filter fun t => (p.imageFails t).isEmpty).any fun t =>
        ((List.range 8).any fun q => p.section q != 0xFFFF && decide (p.nb t ≤ p.section q))
        || ((List.range 16).any fun i =>
            let e := p.power i
            bitAt e 31 && p.section (field e 30 28) != 0xFFFF && decide (p.nb t ≤ field e 27 16)))
  if bad then [headerFail] else []

/-! ### A tile's code -/

/-- Decoded code of a tile: descriptors and slots by bundle. -/
structure Code where
  tile : Nat
  descs : List Desc
  raw : List (BitVec 512)
  slots : List (List (Option Instr))
  deriving DecidableEq, Repr, Inhabited

def ProgImage.code (p : ProgImage) (t : Nat) : Code :=
  let r := p.descs t
  { tile := t, descs := r.map descOf, raw := r, slots := (p.bundles t).map (decodeBundle t) }

def Code.desc (c : Code) (h : BitVec 9) : Desc := if h = 0x1FF then descOf 0 else c.descs.getD h.toNat (descOf 0)

/-- An instruction of a bundle; one that does not decode reads as a NOP. -/
def Code.at_ (c : Code) (b k : Nat) : Instr := ((c.slots.getD b []).getD k none).getD (.nop c.tile .c)

/-! ### Descriptors on their own (code 0x04, 0x05) -/

/-- Bytes of HBM that programs may name: 510 GiB (13 R358). -/
def hbmAlloc : Nat := 510 * 2 ^ 30

/-- Codes that a descriptor fails by itself (01 R14, R20, R21; 04 R132, R136, R137; 13 R358): of one that is not valid the reserved
bits alone are looked at. -/
def Code.selfCodes (c : Code) (k : Nat) : List Nat :=
  let d := c.descs.getD k (descOf 0)
  let n := (c.raw.getD k 0).toNat
  let sc := c.desc (BitVec.ofNat 9 d.scale)
  let four := field n 63 62 != 0 || decide (7 < d.space) || (d.space == 7 && decide (4 < d.link)) || !fmtKnown d.fmt
    || (isBlock d.fmt && !(sc.valid && sc.fmt == fmtE8M0))
  let top := d.base + 128 * d.extent
  let five := (d.res && decide (1 ≤ d.space ∧ d.space ≤ 4)) || ((d.space == 0 || d.space == 5) && decide (0x100000 < top))
    || (d.space == 6 && decide (hbmAlloc < top))
    || (isBlock d.fmt && (d.lrow % 32 != 0 || d.bw % 32 != 0 || d.loff % 32 != 0 || d.lstride.any fun x => x % 32 != 0))
  if d.valid then (if four then [4] else []) ++ (if five then [5] else []) else if field n 63 62 != 0 then [4] else []

/-- The alignment-unit check of a digested operand (05 R154). -/
def digestCodes (d : Desc) : List Nat :=
  let au := alignUnit d.fmt
  if d.loff % au != 0 || d.lrow % au != 0 || d.bw % au != 0 || (d.lstride.any fun x => x % au != 0) then [5] else []

/-- The codes of a handle in a role: a valid descriptor in one of the spaces, with its own checks. -/
def Code.role (c : Code) (spaces : List Nat) (h : BitVec 9) : List Nat :=
  let d := c.desc h
  if !d.valid then [4] else (if spaces.contains d.space then [] else [4]) ++ c.selfCodes h.toNat

/-! ### Vector instructions by kind (03 R80, R88) -/

/-- What a V-slot instruction is: operands, sources used, formats accepted (0 floating, 1 floating but FP64, 2 floating and
integer, 3 integer, 4 CVT), cycles per lane group, latency (of one level for a reduction), reduction. -/
structure VecKind where
  o : VecOp
  srcs : Nat
  fmts : Nat
  c : Nat
  lat : Nat
  red : Bool
  deriving DecidableEq, Repr, Inhabited

def vecKind : Instr → Option VecKind
  | .add _ o => some ⟨o, 2, 0, 1, 4, false⟩
  | .sub _ o => some ⟨o, 2, 0, 1, 4, false⟩
  | .mul _ o => some ⟨o, 2, 0, 1, 4, false⟩
  | .fma _ o => some ⟨o, 3, 0, 1, 5, false⟩
  | .sqrt _ o => some ⟨o, 1, 0, 4, 12, false⟩
  | .rcp _ o => some ⟨o, 1, 0, 4, 10, false⟩
  | .rsq _ o => some ⟨o, 1, 0, 4, 10, false⟩
  | .div _ o => some ⟨o, 2, 0, 4, 14, false⟩
  | .exp2 _ o => some ⟨o, 1, 1, 4, 14, false⟩
  | .log2 _ o => some ⟨o, 1, 1, 4, 14, false⟩
  | .max _ o => some ⟨o, 2, 2, 1, 2, false⟩
  | .min _ o => some ⟨o, 2, 2, 1, 2, false⟩
  | .abs _ o => some ⟨o, 1, 0, 1, 2, false⟩
  | .neg _ o => some ⟨o, 1, 0, 1, 2, false⟩
  | .cpysgn _ o => some ⟨o, 2, 0, 1, 2, false⟩
  | .cmpEq _ o => some ⟨o, 2, 2, 1, 2, false⟩
  | .cmpNe _ o => some ⟨o, 2, 2, 1, 2, false⟩
  | .cmpLt _ o => some ⟨o, 2, 2, 1, 2, false⟩
  | .cmpLe _ o => some ⟨o, 2, 2, 1, 2, false⟩
  | .cmpGt _ o => some ⟨o, 2, 2, 1, 2, false⟩
  | .cmpGe _ o => some ⟨o, 2, 2, 1, 2, false⟩
  | .sel _ o => some ⟨o, 3, 2, 1, 2, false⟩
  | .iadd _ o => some ⟨o, 2, 3, 1, 3, false⟩
  | .isub _ o => some ⟨o, 2, 3, 1, 3, false⟩
  | .imul _ o => some ⟨o, 2, 3, 1, 3, false⟩
  | .and _ o => some ⟨o, 2, 3, 1, 2, false⟩
  | .or _ o => some ⟨o, 2, 3, 1, 2, false⟩
  | .xor _ o => some ⟨o, 2, 3, 1, 2, false⟩
  | .shl _ o => some ⟨o, 2, 3, 1, 2, false⟩
  | .shr _ o => some ⟨o, 2, 3, 1, 2, false⟩
  | .sar _ o => some ⟨o, 2, 3, 1, 2, false⟩
  | .redAdd _ o => some ⟨o, 1, 0, 1, 4, true⟩
  | .redSsq _ o => some ⟨o, 1, 0, 1, 4, true⟩
  | .redMax _ o => some ⟨o, 1, 2, 1, 2, true⟩
  | .redMin _ o => some ⟨o, 1, 2, 1, 2, true⟩
  | .cvt _ o => some ⟨o, 1, 4, 1, 4, false⟩
  | _ => none

/-- The source handles in use. -/
def VecKind.sources (k : VecKind) : List (BitVec 9) := [k.o.a, k.o.b, k.o.c].take k.srcs

def floatFmts : List Nat := [fmtFP16, fmtBF16, fmtFP32, fmtFP64]

/-- Formats a kind accepts. -/
def fmtsOf : Nat → List Nat
  | 0 => floatFmts
  | 1 => [fmtFP16, fmtBF16, fmtFP32]
  | 2 => floatFmts ++ [fmtINT32, fmtINT64]
  | _ => [fmtINT32, fmtINT64]

def vbSpaces : List Nat := [1, 2, 3, 4]

/-- Codes of a V-slot instruction (01 R38; 03 R82; 04 R117). -/
def Code.vecCodes (c : Code) (k : VecKind) : List Nat :=
  let d := c.desc k.o.d
  let ss := k.sources.map c.desc
  let roles := c.role vbSpaces k.o.d ++ k.sources.flatMap (c.role vbSpaces)
  let scale (x : Desc) : List Nat := if isBlock x.fmt then c.role vbSpaces (BitVec.ofNat 9 x.scale) else []
  let buf := ss.map (·.space)
  let twice := decide (buf.eraseDups.length ≠ buf.length)
  let fm :=
    if k.fmts = 4 then
      let a := ss.headD (descOf 0)
      (if d.fmt = fmtE8M0 ∨ a.fmt = fmtE8M0 ∨ (isBlock d.fmt ∧ !([fmtFP32, fmtBF16, fmtFP16].contains a.fmt)) then [4] else [])
      ++ (if 4 < k.o.rm.toNat then [0x0A] else []) ++ scale d ++ scale a
    else if (fmtsOf k.fmts).contains d.fmt && ss.all fun x => x.fmt == d.fmt then [] else [4]
  roles ++ fm ++ (if twice then [9] else [])

/-! ### Static codes of M and X instructions -/

/-- Row groups a mode allows (02 R71). -/
def groupLimit (pp : Bool) : Nat := if pp then 128 else 256

/-- W outside −32,768 to 32,671 (02 R60). -/
def wCodes (w : BitVec 16) : List Nat := if 32671 < w.toInt then [7] else []

def drainFmts : List Nat := [fmtFP64, fmtFP32, fmtBF16, fmtFP16, fmtINT32, fmtINT64]

/-- Codes of a stationary or streamed operand. -/
def Code.matCodes (c : Code) (link : Bool) (h : BitVec 9) (digest : Bool) : List Nat :=
  let d := c.desc h
  c.role [if link then 7 else 0] h ++ (if (matClass d.fmt).isSome then [] else [4])
    ++ (if digest && d.dchk then digestCodes d else [])

/-- Codes of an index operand: null only where allowed. -/
def Code.ixCodes (c : Code) (null : Bool) (h : BitVec 9) : List Nat :=
  if h = 0x1FF then (if null then [] else [4]) else c.role [0, 5, 6] h

/-- A gather's row is 64 bytes to 64 KiB long in multiples of 64 bytes (03 R100); the load rejects another with code 0x04 (DESIGN
CHOICE, log entry 117: the manual names no outcome). -/
def Code.rowCodes (c : Code) (h : BitVec 9) : List Nat :=
  let d := c.desc h
  let n := d.rowElems * fmtBits d.fmt
  if h = 0x1FF ∨ (n % 512 = 0 ∧ 512 ≤ n ∧ n ≤ 8 * 65536) then [] else [4]

/-- Codes of an atomic's operands (04 R118). -/
def Code.atomCodes (c : Code) (o : AtomOp) (swap : Bool) : List Nat :=
  let f := (c.desc o.tgt).fmt
  let fine := if swap then fmtBits f == 32 || fmtBits f == 64 else f == fmtINT32 || f == fmtINT64 || f == fmtFP32
  c.role [0, 5] o.tgt ++ (if fine then [] else [4]) ++ c.role vbSpaces o.val
    ++ (if o.ret = 0x1FF then [] else c.role vbSpaces o.ret)

/-- Codes an instruction fails by itself. -/
def Code.instrCodes (c : Code) (pp : Bool) (i : Instr) : List Nat :=
  match vecKind i with
  | some k => c.vecCodes k
  | none =>
    match i with
    | .lds _ o => c.matCodes o.src o.handle false
    | .mma _ o =>
      c.matCodes o.src o.handle true ++ wCodes o.w
        ++ (if groupLimit pp < o.g.toNat + o.nm1.toNat + 1 then [7] else [])
    | .ewm _ o =>
      c.matCodes o.src o.handle true ++ wCodes o.w ++ (if 64 < o.k.toNat + o.nm1.toNat + 1 then [6] else [])
        ++ (if groupLimit pp ≤ o.g.toNat then [7] else [])
    | .drn _ o =>
      let d := c.desc o.handle
      c.role [0, 1, 2, 3, 4] o.handle ++ (if drainFmts.contains d.fmt then [] else [4]) ++ digestCodes d
        ++ (if 3 < o.rm.toNat then [0x0A] else [])
        ++ (if groupLimit pp < o.g.toNat + o.nm1.toNat + 1 then [7] else [])
    | .ldVb _ o => c.role [0] o.sph ++ c.role vbSpaces o.vbh
    | .stVb _ o => c.role [0] o.sph ++ c.role vbSpaces o.vbh
    | .xfer _ o => c.role [0] o.src ++ c.role [5, 7] o.dst
    | .hbmRd _ o => c.role [6] o.hbm ++ c.role [0] o.sph
    | .hbmWr _ o => c.role [6] o.hbm ++ c.role [0] o.sph
    | .atomAdd _ o => c.atomCodes o false
    | .atomSwap _ o => c.atomCodes o true
    | .dgSt _ o => c.role [0] o.sph
    | .gth _ o => [o.h0, o.h1, o.h2].flatMap (c.ixCodes false) ++ c.rowCodes o.h1
    | .gscAdd _ o => [o.h0, o.h1, o.h2].flatMap (c.ixCodes false)
    | .segSum _ o => [o.h0, o.h1, o.h2].flatMap (c.ixCodes false)
    | .segMax _ o => [o.h0, o.h1, o.h2].flatMap (c.ixCodes false)
    | .segMin _ o => [o.h0, o.h1, o.h2].flatMap (c.ixCodes false)
    | .sortU32 _ o => [o.h0, o.h1, o.h2, o.h3].flatMap (c.ixCodes false)
    | .sortI32 _ o => [o.h0, o.h1, o.h2, o.h3].flatMap (c.ixCodes false)
    | .sortF32 _ o => [o.h0, o.h1, o.h2, o.h3].flatMap (c.ixCodes false)
    | .walkCsr _ o => [o.h0, o.h1, o.h2].flatMap (c.ixCodes false) ++ c.ixCodes true o.h3 ++ c.rowCodes o.h3
    | .walkBsp _ o => [o.h0, o.h1, o.h2].flatMap (c.ixCodes false) ++ c.ixCodes true o.h3
    | .ldc _ _ _ h => c.role [0] h
    | _ => []

/-- Handles an instruction names. -/
def instrHandles (i : Instr) : List (BitVec 9) :=
  match vecKind i with
  | some k => k.o.d :: k.sources
  | none =>
    match i with
    | .lds _ o => [o.handle]
    | .mma _ o => [o.handle]
    | .ewm _ o => [o.handle]
    | .drn _ o => [o.handle]
    | .ldVb _ o => [o.sph, o.vbh]
    | .stVb _ o => [o.sph, o.vbh]
    | .xfer _ o => [o.src, o.dst]
    | .hbmRd _ o => [o.hbm, o.sph]
    | .hbmWr _ o => [o.hbm, o.sph]
    | .atomAdd _ o => [o.tgt, o.val, o.ret]
    | .atomSwap _ o => [o.tgt, o.val, o.ret]
    | .dgSt _ o => [o.sph]
    | .gth _ o => [o.h0, o.h1, o.h2]
    | .gscAdd _ o => [o.h0, o.h1, o.h2]
    | .segSum _ o => [o.h0, o.h1, o.h2]
    | .segMax _ o => [o.h0, o.h1, o.h2]
    | .segMin _ o => [o.h0, o.h1, o.h2]
    | .sortU32 _ o => [o.h0, o.h1, o.h2, o.h3]
    | .sortI32 _ o => [o.h0, o.h1, o.h2, o.h3]
    | .sortF32 _ o => [o.h0, o.h1, o.h2, o.h3]
    | .walkCsr _ o => [o.h0, o.h1, o.h2, o.h3]
    | .walkBsp _ o => [o.h0, o.h1, o.h2, o.h3]
    | .ldc _ _ _ h => [h]
    | _ => []

/-! ### Structure (code 0x06, 0x0B; 02 R67, 04 R123, R125, R127) -/

/-- The body of a LOOP at bundle b: last bundle and replay attribute. -/
def loopBody (b : Nat) : Instr → Option (Nat × Bool)
  | .loop _ o => some (b + o.lenm1.toNat + 1, o.rpl)
  | _ => none

/-- What a replay body may not hold: network transfers (link sources, remote scratchpads), HBM commands. -/
def Code.offTile (c : Code) : Instr → Bool
  | .xfer _ _ => true
  | .hbmRd _ _ => true
  | .hbmWr _ _ => true
  | .lds _ o => o.src
  | .mma _ o => o.src
  | .ewm _ o => o.src
  | .atomAdd _ o => (c.desc o.tgt).space == 5
  | .atomSwap _ o => (c.desc o.tgt).space == 5
  | _ => false

/-- A LOOP-class MMA or EWM. -/
def loopClass : Instr → Bool
  | .mma _ o => !o.step
  | .ewm _ o => !o.step
  | _ => false

/-- The structure failures of the bundles from b on, with the stack of active bodies (innermost first). -/
def Code.structure (c : Code) (nb : Nat) : Nat → Nat → List (Nat × Bool) → List Fail
  | 0, _, _ => []
  | n + 1, b, stack =>
    let st := stack.filter fun e => decide (b ≤ e.1)
    let inRpl := st.any (·.2)
    let outer := (st.headD (nb - 1, false)).1
    let f (k code : Nat) : Fail := { rank := 1, tile := c.tile, bundle := b + 1, slot := k, code := code }
    let ci := c.at_ b 3
    let cf : List Fail × List (Nat × Bool) :=
      match ci with
      | .loop _ o =>
        let last := b + o.lenm1.toNat + 1
        let bad := decide (outer < last) || decide (4 ≤ st.length) || (o.rpl && (o.csel != 0 || inRpl))
        (if bad then [f 3 6] else [], (last, o.rpl) :: st)
      | .skip _ _ nm1 =>
        let last := b + nm1.toNat + 1
        let hasLoop := (List.range (nm1.toNat + 1)).any fun k => (loopBody 0 (c.at_ (b + 1 + k) 3)).isSome
        (if decide (outer < last) || hasLoop then [f 3 6] else [], st)
      | .safe _ => (if inRpl then [f 3 0x0B] else [], st)
      | _ => ([], st)
    let mi := c.at_ b 0
    let mx := (if (inRpl && c.offTile mi) || (!inRpl && loopClass mi) then [f 0 6] else [])
      ++ (if inRpl && c.offTile (c.at_ b 2) then [f 2 6] else [])
    mx ++ cf.1 ++ c.structure nb n (b + 1) cf.2

/-- Static failures of a tile. -/
def Code.staticFails (c : Code) (pp : Bool) : List Fail :=
  let nb := c.slots.length
  let named := (List.range nb).flatMap fun b => (List.range 4).flatMap fun k => instrHandles (c.at_ b k)
  let enc := (List.range nb).flatMap fun b => (List.range 4).flatMap fun k =>
    let f (code : Nat) : Fail := { rank := 1, tile := c.tile, bundle := b + 1, slot := k, code := code }
    match (c.slots.getD b []).getD k none with
    | none => [f 3]
    | some i => (c.instrCodes pp i).map f
  let alone := (List.range c.descs.length).flatMap fun k =>
    if named.any fun h => h.toNat == k then []
    else (c.selfCodes k).map fun code => { rank := 1, tile := c.tile, bundle := 0, slot := 0, code := code }
  enc ++ alone ++ c.structure nb nb 0 []

/-! ### The issue sequence under declared counts -/

/-- A bundle as it issues: the sequencer's state (its cycle is the issue cycle), the fill half, whether it lies in a skip
region, its four instructions. -/
structure Ev where
  q : TileSeq
  fill : Bool
  skippable : Bool
  m : Instr
  v : Instr
  x : Instr
  c : Instr
  deriving DecidableEq, Repr, Inhabited

/-- Rows a drain advances RSP by, and its step. -/
def drainAdvance (f n : Nat) : Nat := n * (2 * (fmtBits (rowFmt f) / 8))

/-- Cycles per streamed vector of a pass, by its streamed format's class. -/
def Code.passCyc (c : Code) (h : BitVec 9) : Nat := vecCycles ((matClass (c.desc h).fmt).getD 0)

/-- The sequencer at the end of a bundle, with declared counts and every predicated instruction executing; `skip` counts the bundles
that some skip region still covers, the longest of them where they overlap (04 R480). A HALT in a skip region ends the walk (DESIGN
CHOICE, log entry 120). -/
def Code.bundleEnd (c : Code) (p : ProgImage) (e : Ev) : TileSeq :=
  let q := e.q
  let q := match e.m with
    | .mma _ o => q.occupy q.cycle (o.nm1.toNat + 1) (c.passCyc o.handle)
    | .ewm _ o => q.occupy q.cycle (o.nm1.toNat + 1) (c.passCyc o.handle)
    | .drn _ o =>
      let k := o.vb.toNat
      { q with rsp := Sparse.set 0 q.rsp k (Sparse.get 0 q.rsp k + drainAdvance (c.desc o.handle).fmt (o.nm1.toNat + 1)) }
    | _ => q
  let q := { q with skip := q.skip - 1 }
  let q := match e.c with
    | .loop _ o => loopStart o { q with cnt := p.decl } q
    | .setvl _ _ vlm1 => { q with vl := vlm1.toNat + 1 }
    | .setmsk _ _ ms imm => { q with msk := Sparse.set 0 q.msk ms.toNat imm }
    | .setrsp _ _ vb slot => { q with rsp := Sparse.set 0 q.rsp vb.toNat (slot.toNat * 8) }
    | .skip _ _ nm1 => { q with skip := Nat.max q.skip (nm1.toNat + 1) }
    | .halt _ => { q with run := .halted }
    | _ => q
  let q := if q.run = .running then q.advance c.slots.length else q
  { q with cycle := q.cycle + 1 }

/-- The cycle length B of the execution of a replay loop that ends here: up to its last bundle or its last accumulator update
(02 R66, R68). -/
def TileSeq.execLen (q : TileSeq) (f : LoopFrame) : Nat := Nat.max q.cycle (q.land + 1) - f.start

/-- The sequencer after a bundle; a replay loop that ends there ends at its start + (1 + F) × B (02 R68). -/
def Code.after (c : Code) (p : ProgImage) (e : Ev) : TileSeq :=
  let q := c.bundleEnd p e
  if q.run = .replayEnd then
    match q.loops.reverse with
    | [] => { q with run := .halted }
    | f :: fs =>
      { q with run := .running, cycle := f.start + (1 + p.rrf) * q.execLen f, loops := fs.reverse, bundle := f.last }.advance
        c.slots.length
  else q

/-- The replay loop that ends at an event, by its number in Prog.bodies, with its B (02 R68). -/
def Code.bodyAt (c : Code) (p : ProgImage) (e : Ev) : Option (Nat × Nat) :=
  let q := c.bundleEnd p e
  if q.run = .replayEnd then (q.loops.getLast?).map fun f => (bodyKey q.sect.toNat c.tile f.first, q.execLen f) else none

/-- The bundles from a state on, in issue order; the fuel bounds their number. -/
def Code.trace (c : Code) (p : ProgImage) : Nat → TileSeq → Bool → List Ev
  | 0, _, _ => []
  | n + 1, q, fill =>
    if q.run = .running then
      let ci := c.at_ q.bundle 3
      let q := match ci with | .wait _ _ => { q with cycle := q.cycle + 1 } | _ => q
      let e : Ev := { q := q, fill := fill, skippable := q.skip != 0, m := c.at_ q.bundle 0, v := c.at_ q.bundle 1,
                      x := c.at_ q.bundle 2, c := ci }
      let fill := match e.m with | .accFlip _ _ => !fill | _ => fill
      e :: c.trace p n (c.after p e) fill
    else []

/-- The sequencer at the start of a section, as a load leaves it (04 R139, 03 R105). -/
def ProgImage.start (p : ProgImage) (q : Nat) : TileSeq :=
  { TileSeq.reset with run := .running, sect := BitVec.ofNat 3 q, bundle := p.section q, cnt := p.decl,
                       msk := (List.range 8).map fun k => (k, 0xFFFFFFFF) }

/-- A bound on the bundles of one section: four loops of up to 2^32 iterations over 4,096 bundles. -/
def traceFuel : Nat := 2 ^ 140

/-- The issue sequence of a section of a tile. -/
def Code.events (c : Code) (p : ProgImage) (q : Nat) : List Ev :=
  if p.section q = 0xFFFF then [] else c.trace p traceFuel (p.start q) false

end Sys2Proof.Machine
end

