-- ==== Sys2Proof/Machine/Validator.lean ====
section
/-!
DEFINITION. The load validator's checks on the issue sequence (04 R137 codes 0x04–0x0B; 02 R54, R56, R60, R67, R71, R72;
03 R82, R84, R89, R92, R93; 04 R116, R131, R480; 05 R146; 08 R238; 13 R368), the HBM slot assignment (13 R356–R358), and the
verdict on a whole image. Each section is traced from its own start at cycle 0 (log entry 20).
-/

namespace Sys2Proof.Machine

/-! ### What an event touches -/

/-- An event of a tile with its number in the sequence and the formats of the LDS instructions that can have filled the set
its MMA or EWM uses (04 R480). -/
structure TEv where
  e : Ev
  no : Nat
  cands : List Nat
  deriving DecidableEq, Repr, Inhabited

/-- The tile as an event's operands see it: descriptors and sequencer. -/
def Code.tileAt (c : Code) (e : Ev) : Tile :=
  { Tile.reset with
    dstore := ((List.range c.raw.length).zip c.raw).foldl (fun m (k : Nat × BitVec 512) => Sparse.set 0 m k.1 k.2) [],
    seq := e.q }

/-- The candidate formats after an LDS: one that always executes replaces the earlier ones (04 R480). -/
def Code.ldsCands (c : Code) (e : Ev) (s : List Nat × List Nat) : List Nat × List Nat :=
  match e.m with
  | .lds _ o =>
    let f := (c.desc o.handle).fmt
    let upd (l : List Nat) : List Nat := if o.pred.pen || e.skippable then l ++ [f] else [f]
    if o.set then (s.1, upd s.2) else (upd s.1, s.2)
  | _ => s

/-- The set an MMA or EWM uses. -/
def passSet : Instr → Option Bool
  | .mma _ o => some o.set
  | .ewm _ o => some o.set
  | _ => none

/-- The events numbered, with their candidates. -/
def Code.number (c : Code) : Nat → List Nat × List Nat → List Ev → List TEv
  | _, _, [] => []
  | n, s, e :: l =>
    let cs := match passSet e.m with | some true => s.2 | some false => s.1 | none => []
    { e := e, no := n, cands := cs } :: c.number (n + 1) (c.ldsCands e s) l

/-- A failure at an event's slot. -/
def Code.failAt (c : Code) (e : TEv) (slot code : Nat) : Fail :=
  { rank := 1, tile := c.tile, bundle := e.e.q.bundle + 1, slot := slot, code := code }

/-- One operand of an event: slot, descriptor, address, bytes, alignment. -/
structure OpndAt where
  slot : Nat
  d : Desc
  a : Int
  n : Nat
  al : Nat
  deriving DecidableEq, Repr, Inhabited

/-- The element size that aligns a buffer operand: packing groups for formats below 8 bits (03 R83, 01 R15). -/
def elemAlign (f : Nat) : Nat := match fmtBits f with | 4 => 1 | 6 => 3 | b => Nat.max 1 (b / 8)

/-- Geometry of a pass: K_s, bytes per vector, cycles per vector. -/
def Code.passGeom (c : Code) (e : TEv) (h : BitVec 9) : Nat × Nat × Nat :=
  let f := (c.desc h).fmt
  let ks := ksOf (e.cands.getLastD f) f
  (ks, vecBytes f ks, vecCycles ((matClass f).getD 0))

/-- Operands of an event's four slots (04 R133). -/
def Code.operands (c : Code) (e : TEv) : List OpndAt :=
  let q := e.e.q
  let li := q.li
  let lines (slot : Nat) (h : BitVec 9) (n : Nat) : OpndAt :=
    let d := c.desc h
    { slot := slot, d := d, a := d.addr li, n := 128 * n, al := 128 }
  let vb (slot : Nat) (h : BitVec 9) (n : Nat) : OpndAt :=
    let d := c.desc h
    { slot := slot, d := d, a := d.addr li, n := n, al := elemAlign d.fmt }
  let at16 (slot : Nat) (h : BitVec 9) (n al : Nat) : OpndAt :=
    let d := c.desc h
    { slot := slot, d := d, a := d.addr li, n := n, al := al }
  let m : List OpndAt := match e.e.m with
    | .lds _ o => if o.src then [] else [lines 0 o.handle (o.lm1.toNat + 1)]
    | .mma _ o => if o.src then [] else [lines 0 o.handle (streamLines (c.passGeom e o.handle).2.1 (o.nm1.toNat + 1))]
    | .ewm _ o => if o.src then [] else [lines 0 o.handle (streamLines (c.passGeom e o.handle).2.1 (o.nm1.toNat + 1))]
    | .drn _ o =>
      let d := c.desc o.handle
      let n := (o.nm1.toNat + 1) * (8 * fmtBits d.fmt)
      if d.space = 0 then [at16 0 o.handle n 128] else [vb 0 o.handle n]
    | _ => []
  let v : List OpndAt := match vecKind e.e.v with
    | none => []
    | some k =>
      let whole (h : BitVec 9) (n : Nat) : List OpndAt :=
        let d := c.desc h
        vb 1 h (packedBytes d.fmt n)
          :: (if isBlock d.fmt then [vb 1 (BitVec.ofNat 9 d.scale) (ceilDiv n 32)] else [])
      whole k.o.d (if k.red then 1 else q.vl) ++ k.sources.flatMap fun h => whole h q.vl
  let atom (o : AtomOp) : List OpndAt :=
    [lines 2 o.tgt 1, vb 2 o.val 128] ++ (if o.ret = 0x1FF then [] else [vb 2 o.ret 128])
  let x : List OpndAt := match e.e.x with
    | .ldVb _ o => [lines 2 o.sph (o.lm1.toNat + 1), vb 2 o.vbh (128 * (o.lm1.toNat + 1))]
    | .stVb _ o => [lines 2 o.sph (o.lm1.toNat + 1), vb 2 o.vbh (128 * (o.lm1.toNat + 1))]
    | .xfer _ o =>
      lines 2 o.src (o.lm1.toNat + 1) :: (if (c.desc o.dst).space = 5 then [lines 2 o.dst (o.lm1.toNat + 1)] else [])
    | .hbmRd _ o => [lines 2 o.hbm (o.lm1.toNat + 1), lines 2 o.sph (o.lm1.toNat + 1)]
    | .hbmWr _ o => [lines 2 o.hbm (o.lm1.toNat + 1), lines 2 o.sph (o.lm1.toNat + 1)]
    | .atomAdd _ o => atom o
    | .atomSwap _ o => atom o
    | .dgSt _ o => [at16 2 o.sph 16 16]
    | _ => []
  let cc : List OpndAt := match e.e.c with | .ldc _ _ _ h => [at16 3 h 4 4] | _ => []
  m ++ v ++ x ++ cc

/-- The operation number and operands of an index-engine command. -/
def ixcOf : Instr → Option (Nat × IxOp)
  | .gth _ o => some (0, o) | .gscAdd _ o => some (1, o) | .segSum _ o => some (2, o) | .segMax _ o => some (3, o)
  | .segMin _ o => some (4, o) | .sortU32 _ o => some (5, o) | .sortI32 _ o => some (6, o) | .sortF32 _ o => some (7, o)
  | .walkCsr _ o => some (8, o) | .walkBsp _ o => some (9, o) | _ => none

/-- The command that an event issues into an index engine, with the engine. -/
def Code.ixCmdAt (c : Code) (e : TEv) : Option (Nat × Except (BitVec 9) IxCmd) :=
  (ixcOf e.e.x).map fun p => (p.2.ixe.toNat, ixCmd c.tile (c.tileAt e.e) p.2 p.1)

/-- The operands of an IXC: alignment, and the bytes that it touches whatever its data (04 R119, R135). -/
def Code.ixFails (c : Code) (e : TEv) : List Fail :=
  match c.ixCmdAt e with
  | none => []
  | some (_, .error _) => [c.failAt e 2 5]
  | some (_, .ok x) =>
    if x.outside.isSome || (List.range 4).any fun k => !(x.opnd k).null && (x.opnd k).addr % 128 != 0 then [c.failAt e 2 5] else []

/-- Code 0x05 on an event. -/
def Code.addrFails (c : Code) (e : TEv) : List Fail :=
  ((c.operands e).filter fun o => !(o.d.covers o.a o.n) || o.a % (o.al : Int) != 0).map (fun o => c.failAt e o.slot 5)
    ++ c.ixFails e

/-- Code 0x04 on an event: operand classes (R480, 01 R22) and VL above 2,048 (03 R84). -/
def Code.formatFails (c : Code) (e : TEv) : List Fail :=
  let m : List Fail := match e.e.m with
    | .mma _ o => if e.cands.any fun f => matClass f != matClass (c.desc o.handle).fmt then [c.failAt e 0 4] else []
    | .ewm _ o => if e.cands.any fun f => matClass f != matClass (c.desc o.handle).fmt then [c.failAt e 0 4] else []
    | _ => []
  let v : List Fail := match vecKind e.e.v with
    | none => []
    | some k =>
      let wide := ((k.o.d :: k.sources).any fun h => fmtBits (c.desc h).fmt == 64)
      if wide && decide (2048 < e.e.q.vl) then [c.failAt e 1 4] else []
  m ++ v

/-! ### Conflicts -/

/-- A use of something that serves one user in a cycle: the resource with its cycle, the order of issue, and the failure it
makes when an earlier one has it. -/
structure Touch where
  res : List Nat
  key : List Nat
  fail : Fail
  deriving DecidableEq, Repr, Inhabited

/-- Later users of a resource that is taken fail. -/
def clashes (l : List Touch) : List Fail :=
  (l.filter fun a => l.any fun b => b.res == a.res && posLt b.key a.key).map (·.fail)

/-- A touch by slot k of an event, the n-th of its kind there. -/
def Code.touch (c : Code) (e : TEv) (k n code : Nat) (res : List Nat) : Touch :=
  { res := res, key := [0, e.e.q.cycle, c.tile, k, n], fail := c.failAt e k code }

/-! ### Scratchpad port, links (code 0x08) -/

/-- Port cycles of an event by tile and slot, but for HBM.RD deliveries (03 R92): of an index-engine command its deliveries (log entry
119; R92 names no user for what an engine reads). -/
def Code.ports (c : Code) (e : TEv) : List (Nat × Nat × Nat) :=
  let q := e.e.q
  let t := q.cycle
  let mine (slot : Nat) (cs : List Nat) : List (Nat × Nat × Nat) := cs.map fun k => (c.tile, t + k, slot)
  let pass (src : Bool) (h : BitVec 9) (n : Nat) : List (Nat × Nat × Nat) :=
    if src then []
    else
      let g := c.passGeom e h
      mine 0 ((List.range (streamLines g.2.1 n)).map (streamCycle g.2.1 g.2.2))
  let m : List (Nat × Nat × Nat) := match e.e.m with
    | .lds _ o => if o.src then [] else mine 0 ((List.range (o.lm1.toNat + 1)).map fun i => if o.form then 2 * i else i)
    | .mma _ o => pass o.src o.handle (o.nm1.toNat + 1)
    | .ewm _ o => pass o.src o.handle (o.nm1.toNat + 1)
    | .drn _ o =>
      let d := c.desc o.handle
      if d.space = 0 then mine 0 ((List.range ((o.nm1.toNat + 1) * (fmtBits d.fmt / 16))).map (· + 3)) else []
    | _ => []
  let atom (o : AtomOp) : List (Nat × Nat × Nat) :=
    let d := c.desc o.tgt
    let u := if d.space = 5 then d.rtile else c.tile
    let a := if d.space = 5 then t + routeCycles c.tile u else t
    [(u, a, 2), (u, a + 1, 2)]
  let x : List (Nat × Nat × Nat) := match e.e.x with
    | .ldVb _ o => mine 2 (List.range (o.lm1.toNat + 1))
    | .stVb _ o =>
      mine 2 (List.range ((if wholeGranules (Sparse.get 0 q.msk o.msel.toNat) then 1 else 2) * (o.lm1.toNat + 1)))
    | .xfer _ o =>
      let d := c.desc o.dst
      let us := if d.space = 5 then receivers c.tile d.rtile o.cast.toNat else []
      let far := us.foldl (fun a u => Nat.max a (routeCycles c.tile u)) 0
      mine 2 (List.range (o.lm1.toNat + 1))
        ++ us.flatMap fun u => (List.range (o.lm1.toNat + 1)).map fun i => (u, t + i + far, 2)
    | .hbmWr _ o => mine 2 (List.range (o.lm1.toNat + 1))
    | .atomAdd _ o => atom o
    | .atomSwap _ o => atom o
    | .dgSt _ _ => mine 2 [0]
    | _ => match c.ixCmdAt e with
      | some (_, .ok i) => i.deliveries.map fun p => (p.1, t + p.2, 2)
      | _ => []
  let cc : List (Nat × Nat × Nat) := match e.e.c with | .ldc _ _ _ _ => mine 3 [0] | _ => []
  m ++ x ++ cc

/-- Cycles that no program access may use (13 R370). -/
def inTestSlot (c : Nat) : Bool := decide (32768 ≤ c % 65536 ∧ c % 65536 < 32832)

/-- Links a transfer takes, with the cycles: the link to a neighbour for SPACE 0x7, the route of each receiver otherwise, of an atomic
the route to its bank (05 R146; log entry 20). A link is named by its number; link k of tile t is 5 t + k. -/
def Code.linkUses (c : Code) (e : TEv) : List (List Nat) :=
  let atom (o : AtomOp) : List (List Nat) :=
    let d := c.desc o.tgt
    if d.space = 5 then (Config.route c.tile d.rtile).map fun p => [1, p.1, e.e.q.cycle + p.2] else []
  match e.e.x with
  | .atomAdd _ o => atom o
  | .atomSwap _ o => atom o
  | .xfer _ o =>
    let d := c.desc o.dst
    let t := e.e.q.cycle
    let offs : List (Nat × Nat) :=
      if d.space = 7 then [(5 * c.tile + d.link, 0)]
      else ((receivers c.tile d.rtile o.cast.toNat).flatMap fun u => Config.route c.tile u).eraseDups
    (List.range (o.lm1.toNat + 1)).flatMap fun i => offs.map fun p => [1, p.1, t + i + p.2]
  | _ => []

/-- The touches of an event for code 0x08, each a user of its own. -/
def Code.portTouches (c : Code) (e : TEv) : List Touch :=
  let l := (c.ports e).map (fun p => (p.2.2, [0, p.1, p.2.1])) ++ (c.linkUses e).map (fun r => (2, r))
  l.zipIdx.map fun x => c.touch e x.1.1 x.2 8 x.1.2

/-! ### Bank power (13 R366, R368) -/

/-- Cycles of a transition: scratchpad or accumulator half. -/
def bankCycles (sp : Bool) (a b : BankState) : Nat :=
  match a, b with
  | .on, .retain => if sp then 8 else 4
  | .retain, .on => if sp then 64 else 32
  | .on, .off => if sp then 16 else 8
  | .retain, .off => if sp then 16 else 8
  | .off, .on => if sp then 8448 else 192
  | .off, .retain => if sp then 8448 + 8 else 192 + 4
  | _, _ => 0

def bankOf : Nat → Option BankState
  | 0 => some .on | 1 => some .retain | 2 => some .off | _ => none

/-- The targets that an event's bundle triggers for the bank whose code lies at bits [lo+1:lo]. -/
def ProgImage.triggers (p : ProgImage) (q : Nat) (e : TEv) (lo : Nat) : List BankState :=
  (List.range 16).filterMap fun i =>
    let w := p.power i
    if bitAt w 31 && field w 30 28 == q && field w 27 16 == e.e.q.bundle then bankOf (field w (lo + 1) lo) else none

/-- Cycles in which a bank may not be accessed: from, and the first free one (none: to the end). -/
def ProgImage.shut (p : ProgImage) (q : Nat) (lo : Nat) (sp : Bool) :
    List TEv → BankState → Option Nat → List (Nat × Option Nat)
  | [], _, none => []
  | [], _, some a => [(a, none)]
  | e :: l, st, from_ =>
    let t := e.e.q.cycle
    match (p.triggers q e lo).getLast? with
    | none => p.shut q lo sp l st from_
    | some b =>
      if b = st then p.shut q lo sp l st from_
      else
        let start := if sp && inTestSlot t then t / 65536 * 65536 + 32831 else t
        let a := from_.getD (t + 1)
        if b = .on then (a, some (start + bankCycles sp st b + 1)) :: p.shut q lo sp l b none
        else p.shut q lo sp l b (some a)

def isShut (w : List (Nat × Option Nat)) (c : Nat) : Bool :=
  w.any fun x => decide (x.1 ≤ c) && (match x.2 with | none => true | some b => decide (c < b))

/-! ### Array and accumulator (code 0x07) -/

/-- What the walk over a section's M slots carries: when each set is ready (none: no LDS has filled it), when each is done streaming, array and drain
busy through, landings so far (row group, cycle), cycles in which each accumulating or draining instruction is in progress. -/
structure MState where
  ready0 : Option Nat
  ready1 : Option Nat
  use0 : Nat
  use1 : Nat
  array : Nat
  drain : Nat
  lands : List (Nat × Nat)
  busy : Nat
  deriving DecidableEq, Repr, Inhabited

/-- First free cycles are kept: all 0 at the start. Section 0 starts with sets that no LDS has filled, which are not ready (02 R54); a
later section may find what an earlier one left in them (log entry 20). -/
def MState.start (q : Nat) : MState :=
  let r : Option Nat := if q = 0 then none else some 0
  { ready0 := r, ready1 := r, use0 := 0, use1 := 0, array := 0, drain := 0, lands := [], busy := 0 }

/-- An absolute row group (02 R71). -/
def absGroup (pp fill drain : Bool) (g : Nat) : Nat := if pp && (fill != drain) then g + 128 else g

/-- One pass: set ready, array free, row groups in range, landing in an accumulator half that is ON; the state after it. -/
def Code.passStep (c : Code) (pp : Bool) (w0 w1 : List (Nat × Option Nat)) (s : MState) (e : TEv) (set : Bool)
    (h : BitVec 9) (g n : Nat) (ewm : Bool) : List Fail × MState :=
  let t := e.e.q.cycle
  let geo := c.passGeom e h
  let q := geo.2.2
  let wide := if geo.1 = 128 then 2 else 1
  let span := if ewm then wide else n
  let g0 := absGroup pp e.e.fill false g
  let lands : List (Nat × Nat) := (List.range n).flatMap fun r =>
    if ewm then (List.range wide).map fun k => (g0 + k, t + (r + 1) * q + 7) else [(g0 + r, t + (r + 1) * q + 7)]
  let shut := lands.any fun l => isShut (if l.1 < 128 then w0 else w1) l.2
  let late := match (if set then s.ready1 else s.ready0) with | none => true | some r => decide (t < r)
  let bad := late || decide (t < s.array) || decide (groupLimit pp < g + span) || shut
  let fin := t + n * q
  (if bad then [c.failAt e 0 7] else [],
    { s with array := fin, use0 := if set then s.use0 else fin, use1 := if set then fin else s.use1,
             lands := s.lands ++ lands, busy := Nat.max s.busy (fin + 8) })

/-- The walk over the M slots. Landings after a drain's read by later passes are caught at the drain, whose reads are checked
against every landing that comes before or in their cycle's reach. -/
def Code.mStep (c : Code) (pp : Bool) (w0 w1 : List (Nat × Option Nat)) (all : List (Nat × Nat)) (s : MState) (e : TEv) :
    List Fail × MState :=
  let t := e.e.q.cycle
  match e.e.m with
  | .lds _ o =>
    let n := o.lm1.toNat + 1
    let r := if o.form then t + 2 * n - 1 else t + n
    (if t < (if o.set then s.use1 else s.use0) then [c.failAt e 0 7] else [],
      if o.set then { s with ready1 := some (Nat.max r (s.ready1.getD 0)) } else { s with ready0 := some (Nat.max r (s.ready0.getD 0)) })
  | .mma _ o => c.passStep pp w0 w1 s e o.set o.handle o.g.toNat (o.nm1.toNat + 1) false
  | .ewm _ o => c.passStep pp w0 w1 s e o.set o.handle o.g.toNat (o.nm1.toNat + 1) true
  | .drn _ o =>
    let d := c.desc o.handle
    let k := fmtBits d.fmt / 16
    let n := o.nm1.toNat + 1
    let g0 := absGroup pp e.e.fill true o.g.toNat
    let reads := (List.range n).map fun j => (g0 + j, t + k * j)
    let hit := reads.any fun r =>
      (s.lands.any fun l => l.1 == r.1 && decide (r.2 ≤ l.2)) || (all.any fun l => l == r)
        || isShut (if r.1 < 128 then w0 else w1) r.2
    let rsp := Sparse.get 0 e.e.q.rsp o.vb.toNat
    let ovf := decide (16384 < rsp + drainAdvance d.fmt n)
    (if decide (t < s.drain) || hit || ovf then [c.failAt e 0 7] else [],
      { s with drain := t + k * (n - 1) + 1, busy := Nat.max s.busy (t + k * n + 5) })
  | .accFlip _ _ => (if t < s.busy then [c.failAt e 0 7] else [], s)
  | _ => ([], s)

def Code.mWalk (c : Code) (pp : Bool) (w0 w1 : List (Nat × Option Nat)) (all : List (Nat × Nat)) :
    MState → List TEv → List Fail
  | _, [] => []
  | s, e :: l => let r := c.mStep pp w0 w1 all s e; r.1 ++ c.mWalk pp w0 w1 all r.2 l

/-- Every landing of a section: the passes' alone. -/
def Code.allLands (c : Code) (pp : Bool) (es : List TEv) : List (Nat × Nat) :=
  (es.foldl (fun s e => (c.mStep pp [] [] [] s e).2) (MState.start 0)).lands

/-! ### Spans of replay loops (code 0x06; 02 R67) -/

/-- The replay body an event lies in: the cycle at which it began. -/
def Ev.replayBody (e : Ev) : Option Nat := (e.q.loops.find? fun l => l.rpl).map (·.start)

/-- LOOP-class passes: open flag and row group. -/
def loopPass : Instr → Option (Bool × Nat)
  | .mma _ o => if o.step then none else some (o.opn, o.g.toNat)
  | .ewm _ o => if o.step then none else some (o.opn, o.g.toNat)
  | _ => none

/-- A LOOP-class pass without OPEN must belong to a block opened earlier in the same body. -/
def Code.spanFails (c : Code) (pp : Bool) : List (Nat × Nat) → List TEv → List Fail
  | _, [] => []
  | opened, e :: l =>
    match e.e.replayBody, loopPass e.e.m with
    | some b, some p =>
      let g := absGroup pp e.e.fill false p.2
      if p.1 then c.spanFails pp ((b, g) :: opened) l
      else (if opened.contains (b, g) then [] else [c.failAt e 0 6]) ++ c.spanFails pp opened l
    | _, _ => c.spanFails pp opened l

/-! ### Vector engine (code 0x09) -/

/-- Lanes of a format (03 R80). -/
def lanesOf (f : Nat) : Nat :=
  match fmtBits f with | 64 => 16 | 32 => 64 | 16 => 128 | _ => 256

/-- Lane count of an instruction: a CVT takes that of its wider operand. -/
def Code.lanes (c : Code) (k : VecKind) : Nat :=
  k.sources.foldl (fun m h => Nat.min m (lanesOf (c.desc h).fmt)) (lanesOf (c.desc k.o.d).fmt)

/-- Levels of a reduction: ceil(log2 n). -/
def treeLevels (n : Nat) : Nat := if n ≤ 1 then 0 else Nat.log2 (n - 1) + 1

/-- Lane groups, issue cycles per group, latency (03 R85, R88). -/
def Code.vecTime (c : Code) (strict : Bool) (k : VecKind) (vl : Nat) : Nat × Nat × Nat :=
  let f := if strict || k.o.strict then 4 else 1
  let lat := if k.red then k.lat * treeLevels vl + 2 else k.lat
  (ceilDiv vl (c.lanes k), f * k.c, f * lat)

/-- R89: each vector instruction issues no earlier than the end of the one before; `free` is the first allowed cycle. -/
def Code.vecSpacing (c : Code) (strict : Bool) : Nat → List TEv → List Fail
  | _, [] => []
  | free, e :: l =>
    match vecKind e.e.v with
    | none => c.vecSpacing strict free l
    | some k =>
      let t := e.e.q.cycle
      let g := c.vecTime strict k e.e.q.vl
      (if t < free then [c.failAt e 1 9] else []) ++ c.vecSpacing strict (t + g.1 * g.2.1) l

/-- A buffer access: buffer, cycle, first byte, byte after the last, event number, touch. -/
structure BufUse where
  buf : Nat
  cycle : Nat
  lo : Int
  hi : Int
  no : Nat
  touch : Touch
  deriving DecidableEq, Repr, Inhabited

/-- A use of a buffer operand's bytes [lo, hi) by slot k of an event, the first of its kind there. -/
def Code.bufUse (c : Code) (e : TEv) (k : Nat) (h : BitVec 9) (wr : Bool) (cycle lo hi : Nat) : List BufUse :=
  let d := c.desc h
  match d.vb? with
  | none => []
  | some b =>
    let a := d.addr e.e.q.li
    [{ buf := b, cycle := cycle, lo := a + lo, hi := a + hi, no := e.no, touch := c.touch e k 0 9 [2 + b2n wr, b, cycle] }]

/-- The scale bytes of a block-scaled operand that a CVT reads or writes with the elements lo to hi − 1 (01 R21): in the elements' own
buffer they are part of one access with them (log entry 121). -/
def Code.scaleUse (c : Code) (e : TEv) (h : BitVec 9) (wr : Bool) (cycle lo hi : Nat) : List BufUse :=
  let d := c.desc h
  if isBlock d.fmt then c.bufUse e 1 (BitVec.ofNat 9 d.scale) wr cycle (lo / 32) (ceilDiv hi 32) else []

/-- Reads of an event (03 R81, R82, R88, R95). -/
def Code.bufReads (c : Code) (strict : Bool) (e : TEv) : List BufUse :=
  let t := e.e.q.cycle
  let vl := e.e.q.vl
  let v : List BufUse := match vecKind e.e.v with
    | none => []
    | some k =>
      let g := c.vecTime strict k vl
      let L := c.lanes k
      k.sources.flatMap fun h => (List.range g.1).flatMap fun i =>
        let f := (c.desc h).fmt
        c.bufUse e 1 h false (t + i * g.2.1) (packedBytes f (i * L)) (packedBytes f (Nat.min vl ((i + 1) * L)))
          ++ c.scaleUse e h false (t + i * g.2.1) (i * L) (Nat.min vl ((i + 1) * L))
  let x : List BufUse := match e.e.x with
    | .stVb _ o =>
      let s := if wholeGranules (Sparse.get 0 e.e.q.msk o.msel.toNat) then 1 else 2
      (List.range (o.lm1.toNat + 1)).flatMap fun i => c.bufUse e 2 o.vbh false (t + s * i) (128 * i) (128 * i + 128)
    | .atomAdd _ o => c.bufUse e 2 o.val false t 0 128
    | .atomSwap _ o => c.bufUse e 2 o.val false t 0 128
    | _ => []
  v ++ x

/-- Writes of an event. -/
def Code.bufWrites (c : Code) (strict : Bool) (e : TEv) : List BufUse :=
  let t := e.e.q.cycle
  let vl := e.e.q.vl
  let v : List BufUse := match vecKind e.e.v with
    | none => []
    | some k =>
      let g := c.vecTime strict k vl
      let L := c.lanes k
      let f := (c.desc k.o.d).fmt
      if k.red then c.bufUse e 1 k.o.d true (t + (g.1 - 1) * g.2.1 + g.2.2) 0 (packedBytes f 1)
      else (List.range g.1).flatMap fun i =>
        c.bufUse e 1 k.o.d true (t + i * g.2.1 + g.2.2) (packedBytes f (i * L)) (packedBytes f (Nat.min vl ((i + 1) * L)))
          ++ c.scaleUse e k.o.d true (t + i * g.2.1 + g.2.2) (i * L) (Nat.min vl ((i + 1) * L))
  let m : List BufUse := match e.e.m with
    | .drn _ o =>
      let d := c.desc o.handle
      let k := fmtBits d.fmt / 16
      let n := o.nm1.toNat + 1
      let out := (List.range (k * n)).flatMap fun i => c.bufUse e 0 o.handle true (t + i + 3) (128 * i) (128 * i + 128)
      let half := fmtBits (rowFmt d.fmt) / 8
      let rsp := Sparse.get 0 e.e.q.rsp o.vb.toNat
      let stat : List BufUse := (List.range n).map fun j =>
        let cyc := t + k * j + 3 + k
        { buf := o.vb.toNat, cycle := cyc, lo := (rsp + 2 * half * j : Nat), hi := (rsp + 2 * half * (j + 1) : Nat),
          no := e.no, touch := c.touch e 0 1 9 [3, o.vb.toNat, cyc] }
      out ++ stat
    | _ => []
  let ret (o : AtomOp) : List BufUse :=
    let d := c.desc o.tgt
    let a := if d.space = 5 then t + routeCycles c.tile d.rtile else t
    if o.ret = 0x1FF then [] else c.bufUse e 2 o.ret true (a + 2) 0 128
  let x : List BufUse := match e.e.x with
    | .ldVb _ o => (List.range (o.lm1.toNat + 1)).flatMap fun i => c.bufUse e 2 o.vbh true (t + i) (128 * i) (128 * i + 128)
    | .atomAdd _ o => ret o
    | .atomSwap _ o => ret o
    | _ => []
  v ++ m ++ x

/-- Code 0x09 of a section: R89, one read and one write per buffer and cycle, reads after the writes before them have landed,
operands within their buffers. -/
def Code.vecFails (c : Code) (strict : Bool) (es : List TEv) : List Fail :=
  let rd := es.flatMap (c.bufReads strict)
  let wr := es.flatMap (c.bufWrites strict)
  let early := (rd.filter fun r => wr.any fun w =>
    w.buf == r.buf && decide (w.no < r.no ∧ r.cycle ≤ w.cycle ∧ w.lo < r.hi ∧ r.lo < w.hi)).map (·.touch.fail)
  let past := es.flatMap fun e =>
    let out (o : OpndAt) : Bool := decide (1 ≤ o.d.space ∧ o.d.space ≤ 4) && decide (o.a < 0 ∨ 16384 < o.a + o.n)
    ((c.operands e).filter out).map fun o => c.failAt e o.slot 9
  c.vecSpacing strict 0 es ++ clashes (rd.map (·.touch)) ++ clashes (wr.map (·.touch)) ++ early ++ past

/-! ### Rounding and safe points (codes 0x0A, 0x0B) -/

/-- Issue cycles of the SIGNALs on the step flag (08 R238). -/
def stepSignals (flag : Nat) (es : List TEv) : List Nat :=
  es.filterMap fun e => match e.e.c with
    | .signal _ _ f _ _ => if f.toNat = flag then some e.e.q.cycle else none
    | _ => none

/-- CVT with SR in cycles t to t + 39 of such a SIGNAL. -/
def Code.srFails (c : Code) (sigs : List Nat) (es : List TEv) : List Fail :=
  es.filterMap fun e => match e.e.v with
    | .cvt _ o =>
      if o.rm.toNat = 4 ∧ sigs.any (fun s => decide (s ≤ e.e.q.cycle ∧ e.e.q.cycle ≤ s + 39)) = true then
        some (c.failAt e 1 0x0A)
      else none
    | _ => none

/-- The cycle to which a section runs whose last event this is: that of its HALT, else the cycle in which the section ends past its
last bundle (04 R109), the reserve of a replay loop included. -/
def Code.sectionEnd (c : Code) (p : ProgImage) (e : TEv) : Nat :=
  match e.e.c with | .halt _ => e.e.q.cycle | _ => (c.after p e.e).cycle

/-- Spacing of safe points from the section's start to its end (04 R131). A SAFE in a skip region counts as one (DESIGN CHOICE, log
entry 120). -/
def Code.safeFails (c : Code) (p : ProgImage) : Nat → List TEv → List Fail
  | _, [] => []
  | last, e :: l =>
    let t := e.e.q.cycle
    let safe := match e.e.c with | .safe _ => true | _ => false
    let last' := if safe then t else last
    let far := (safe && decide (70000 < t - last)) || (l.isEmpty && decide (70000 < c.sectionEnd p e - last'))
    (if far then [c.failAt e 3 0x0B] else []) ++ c.safeFails p last' l

/-! ### HBM slots (13 R356–R358) -/

/-- A line access before it has a slot. -/
structure HbmReq where
  elig : Nat
  acc : Access
  ev : Fail
  deriving DecidableEq, Repr, Inhabited

/-- Requests of an event (13 R357). -/
def Code.hbmReqs (c : Code) (q : Nat) (e : TEv) : List HbmReq :=
  let t := e.e.q.cycle
  let go (o : HbmOp) (wr : Bool) : List HbmReq :=
    let h := (c.desc o.hbm).addr e.e.q.li
    let s := (c.desc o.sph).addr e.e.q.li
    (List.range (o.lm1.toNat + 1)).map fun i =>
      { elig := t + i + (if wr then 24 else 16), ev := c.failAt e 2 8,
        acc := { tile := c.tile, engine := none, sect := q, bundle := e.e.q.bundle, pos := e.e.q.pos, line := i, write := wr,
                 hbm := h.toNat + 128 * i, sp := s.toNat + 128 * i, frame := 0, slot := 0,
                 elig := t + i + (if wr then 24 else 16), state := .assigned, data := [], fails := 0, save := none } }
  let ix : List HbmReq := match c.ixCmdAt e with
    | some (g, .ok x) => x.lines.zipIdx.map fun l =>
      { elig := t + l.1.1, ev := c.failAt e 2 8,
        acc := { tile := c.tile, engine := some g, sect := q, bundle := e.e.q.bundle, pos := e.e.q.pos, line := l.2,
                 write := l.1.2.1, hbm := l.1.2.2.1, sp := 0, frame := 0, slot := 0, elig := t + l.1.1, state := .assigned,
                 data := [], fails := 0, save := none } }
    | _ => []
  match e.e.x with | .hbmRd _ o => go o false | .hbmWr _ o => go o true | _ => ix

/-- The first free slot of a pseudo-channel at or after a cycle, searching from slot n. -/
def freeSlot (taken : List (Nat × Nat)) (pc elig : Nat) : Nat → Nat → Nat
  | 0, n => n
  | k + 1, n =>
    if elig ≤ slotStart n ∧ isRefresh pc (n / 8) = false ∧ taken.contains (pc, n) = false then n
    else freeSlot taken pc elig k (n + 1)

/-- Slots given in order of eligible cycle, tile and line. -/
def assignSlots : List (Nat × Nat) → List HbmReq → List HbmReq
  | _, [] => []
  | taken, r :: l =>
    let pc := hbmPc r.acc.hbm
    let n := freeSlot taken pc r.elig (2 * taken.length + 64) (8 * (r.elig / 41))
    { r with acc := { r.acc with frame := n / 8, slot := n % 8 } } :: assignSlots ((pc, n) :: taken) l

/-- The place of a request in the assignment (13 R358): eligible cycle, tiles before engines, tile or engine, line. -/
def HbmReq.key (a : HbmReq) : List Nat := [a.elig, b2n a.acc.engine.isSome, a.acc.engine.getD a.acc.tile, a.acc.line]

/-- The order in which the assignment takes the accesses. -/
def HbmReq.before (a b : HbmReq) : Bool := !posLt b.key a.key

/-- Inserts a request behind those that come before it. -/
def insertReq (r : HbmReq) : List HbmReq → List HbmReq
  | [] => [r]
  | x :: l => if x.before r then x :: insertReq r l else r :: x :: l

/-- The requests of a section with their slots. -/
def planRequests (rs : List HbmReq) : List HbmReq := assignSlots [] (rs.foldr insertReq [])

/-- The delivery of a read takes its tile's port at its slot's start + 288 (13 R357). The deliveries follow from the
assignment, so they come behind the accesses that the issue sequence itself makes: the HBM.RD fails (log entry 20). -/
def HbmReq.touch (r : HbmReq) : Option Touch :=
  if r.acc.write || r.acc.engine.isSome then none
  else some { res := [0, r.acc.tile, slotStart (8 * r.acc.frame + r.acc.slot) + 288],
              key := [1, r.elig, r.acc.tile, r.acc.line], fail := r.ev }

/-! ### The verdict -/

/-- A tile's events in a section. -/
def ProgImage.tileEvents (p : ProgImage) (q : Nat) (c : Code) : List TEv := c.number 0 ([], []) (c.events p q)

/-- Failures of one tile in one section that rest on its own events. -/
def ProgImage.tileFails (p : ProgImage) (q : Nat) (c : Code) (es : List TEv) : List Fail :=
  let w0 := p.shut q 12 false es .on none
  let w1 := p.shut q 10 false es .on none
  es.flatMap c.addrFails ++ es.flatMap c.formatFails ++ c.spanFails p.pingpong [] es
    ++ c.mWalk p.pingpong w0 w1 (c.allLands p.pingpong es) (MState.start q) es ++ c.vecFails p.strict es
    ++ (if p.preempt then c.safeFails p 0 es else [])

/-- Port touches in a test slot or while the touched tile's scratchpad is not ON. -/
def shutTouches (shut : List (Nat × List (Nat × Option Nat))) (l : List Touch) : List Fail :=
  (l.filter fun x =>
    match x.res with
    | [0, t, c] => inTestSlot c || shut.any fun w => w.1 == t && isShut w.2 c
    | _ => false).map (·.fail)

/-- What the load validator hands to a program that passes: the slot plan (13 R358) and the lengths B of its replay loops (02 R68). -/
structure Plan where
  accesses : List Access
  bodies : Sparse Nat
  deriving DecidableEq, Repr, Inhabited

/-- Failures of a section over all tiles, its slot plan and the lengths of its replay loops. -/
def ProgImage.sectionCheck (p : ProgImage) (cs : List Code) (q : Nat) : List Fail × Plan :=
  let all := cs.map fun c => (c, p.tileEvents q c)
  let own := all.flatMap fun (x : Code × List TEv) => p.tileFails q x.1 x.2
  let reqs := planRequests (all.flatMap fun (x : Code × List TEv) => x.2.flatMap (x.1.hbmReqs q))
  let touches := all.flatMap (fun (x : Code × List TEv) => x.2.flatMap x.1.portTouches) ++ reqs.filterMap HbmReq.touch
  let shut := all.map fun (x : Code × List TEv) => (x.1.tile, p.shut q 14 true x.2 .on none)
  let sigs := if bitAt p.stepctl 15 then
    all.flatMap fun (x : Code × List TEv) => stepSignals (field p.stepctl 7 0) x.2 else []
  let sr := all.flatMap fun (x : Code × List TEv) => x.1.srFails sigs x.2
  let bodies := (all.flatMap fun (x : Code × List TEv) => x.2.filterMap fun e => x.1.bodyAt p e.e).foldl
    (fun m b => Sparse.set 0 m b.1 b.2) []
  (own ++ clashes touches ++ shutTouches shut touches ++ sr, { accesses := reqs.map (·.acc), bodies := bodies })

/-- What the validator answers: the first failure, or the plan of every section. Every tile whose image can be read is traced, in
which a word that encodes no instruction stands as a NOP (log entry 20). -/
def ProgImage.validate (p : ProgImage) : Except Fail Plan :=
  match p.headerFails with
  | f :: _ => .error f
  | [] =>
    let ts := p.tiles
    let img := ts.flatMap p.imageFails
    let good := ts.filter fun t => (p.imageFails t).isEmpty
    let codes := good.map p.code
    let static := codes.flatMap fun c => c.staticFails p.pingpong
    let secs := (List.range 8).map (p.sectionCheck codes)
    match firstFail (img ++ static ++ secs.flatMap (·.1)) with
    | some f => .error f
    | none => .ok { accesses := secs.flatMap (·.2.accesses), bodies := secs.foldl (fun m x => x.2.bodies.foldl (fun m b => Sparse.set 0 m b.1 b.2) m) [] }

end Sys2Proof.Machine
end

