-- ==== Sys2Proof/Machine/Program.lean ====
section
/-!
DEFINITION. LOAD_PROGRAM and its unloading form, LAUNCH_AT, and COLL_TABLE_LOAD (04 R136–R139; 08 R227–R229; 11 R298,
R303–R308; 12 R332, R345).
-/

namespace Sys2Proof.Machine

/-! ### The allocation table (08 R227, R228; 12 R345) -/

/-- Allocatable HBM of a part: 510 GiB. -/
def allocLimit : Nat := 510 * 2 ^ 30

/-- Entries of the allocation table at an address. -/
def State.readAlloc (s : State) (base n : Nat) : List Alloc :=
  (List.range n).map fun i =>
    let w := Bytes.readLe s.hbm.mem (base + 16 * i + 8) 8
    { base := Bytes.readLe s.hbm.mem (base + 16 * i) 8, size := field w 47 0, kind := field w 55 48, stage := field w 63 56 }

def sumSizes (l : List Alloc) : Nat := l.foldl (fun n a => n + a.size) 0

/-- Two byte ranges share a byte. -/
def rangesMeet (a n b m : Nat) : Bool := decide (0 < n ∧ 0 < m ∧ a < b + m ∧ b < a + n)

def Alloc.overlaps (a b : Alloc) : Bool := rangesMeet a.base a.size b.base b.size

/-- The virtual stage whose entries sum largest; 0xFF when none names a stage, the lowest on a tie. -/
def worstStage (l : List Alloc) : Nat :=
  let sum (k : Nat) : Nat := sumSizes (l.filter fun a => a.stage == k)
  let named := (List.range 255).filter fun k => l.any fun a => a.stage == k
  match named with
  | [] => 0xFF
  | k :: ks => ks.foldl (fun b x => if sum b < sum x then x else b) k

/-- The first failing entry: a reserved KIND, an end above 510 GiB, an overlap with an entry of lower index. -/
def badAlloc (l : List Alloc) : Option (Nat × Nat) :=
  let bad (i : Nat) : Option (Nat × Nat) :=
    match l[i]? with
    | none => none
    | some a =>
      let low := (List.range i).find? fun j => match l[j]? with | none => false | some b => a.overlaps b
      if 10 < a.kind ∨ allocLimit < a.base + a.size ∨ low.isSome then some (i, low.getD 0xFFFFFFFF) else none
  ((List.range l.length).map bad).findSome? id

/-- An entry that meets an allocation entry or the image of the pre-empted program. -/
def Saved.meets (v : Saved) (l : List Alloc) : Option Nat :=
  (List.range l.length).find? fun i =>
    match l[i]? with
    | none => false
    | some a => v.prog.alloc.any a.overlaps || rangesMeet a.base a.size v.prog.addr v.prog.len

/-! ### What a load does to a tile (04 R136, R139; 02 R79; 03 R105; 13 R369) -/

/-- A scratchpad address lies in a line that a resident descriptor covers. -/
def coveredBy (ds : List Desc) (a : Nat) : Bool :=
  ds.any fun d => d.valid && d.space == 0 && d.res && decide (d.base ≤ a) && decide (a < d.base + 128 * d.extent)

/-- The word poison-on-load writes. -/
def poisonWord : Nat := 0x7FC00000

/-- The scratchpad after a load: resident lines keep their bytes, the others are cleared or poisoned. A bank that is OFF has
lost its contents. -/
def loadSp (x : Tile) (ds : List Desc) (poison : Bool) : Bytes :=
  let old : Bytes := if x.bankSp.state = .off then [] else x.sp
  let kept := Bytes.keep old (coveredBy ds)
  if poison then
    (List.range (2 ^ 18)).foldl (fun m w => if coveredBy ds (4 * w) then m else Bytes.writeLe m (4 * w) 4 poisonWord) kept
  else kept

/-- A store that holds a list of words from 0 on. -/
def storeOf {w : Nat} (l : List (BitVec w)) : Sparse (BitVec w) :=
  ((List.range l.length).zip l).foldl (fun m k => Sparse.set 0 m k.1 k.2) []

/-- The instruction and descriptor stores of a tile as its image gives them. -/
def Tile.withStores (x : Tile) (p : ProgImage) (t : Nat) : Tile :=
  if p.imageOff t = 0 then { x with istore := [], dstore := [] }
  else { x with istore := storeOf (p.bundles t), dstore := storeOf (p.descs t) }

/-- A tile after a load. -/
def loadTile (p : ProgImage) (t : Nat) (x : Tile) : Tile :=
  let ds := if p.imageOff t = 0 then [] else (p.descs t).map descOf
  { x.withStores p t with
    sp := loadSp x ds (bitAt p.flags 4)
    spErr := x.spErr.filter fun c => coveredBy ds (16 * c.1)
    vb := [], sets := [], setFmt := [], setTid := [], idle := [], acc := [], accErr := [], rgw := [], blkLen := [], fillHalf := false
    flags := 0, da := [], links := [], atoms := []
    seq := { TileSeq.reset with bundle := p.section 0, cnt := p.decl,
                                msk := (List.range 8).map fun k => (k, 0xFFFFFFFF) }
    ctr := TileCtr.reset
    bankSp := Bank.resetOn, bank0 := Bank.resetOn, bank1 := Bank.resetOn
    port := [], stopAt := none }

/-- Signal flags that the program's code names (12 R341). -/
def ProgImage.flagSet (p : ProgImage) : List Nat :=
  (p.tiles.flatMap fun t => (p.code t).slots.flatMap fun b => b.filterMap fun i =>
    match i with | some (.signal _ _ f _ _) => some f.toNat | _ => none).eraseDups

/-- The state after a load that has passed every check: tiles, engines, slots, collective position, step sequencer, shadow
stream staging and replay records (04 R139, 05 R167, 08 R239, 09 R261, 11 R322, 13 R377, 14 R396, 16 R451). -/
def State.loadAll (s : State) (p : ProgImage) (plan : Nat) (alloc : List Alloc) (slots : Plan) : State :=
  let tiles := (List.range 1024).foldl (fun m t => Sparse.set Tile.reset m t (loadTile p t (s.tile t))) s.tiles
  let entries := (List.range s.coll.entries.length).zip s.coll.entries
  let prog : Prog := {
    header := Bytes.writeN [] 0 (Bytes.readN p.mem p.addr 0x2100), addr := p.addr, len := p.len, plan := plan, alloc := alloc,
    flagSet := p.flagSet, tag := none, launch := 0, seed := 0, paused := 0, s0 := 0, f0 := 0, stopped := false
    nb := p.tiles.foldl (fun m t => Sparse.set 4096 m t (p.nb t)) [], bodies := slots.bodies
    dig := ld64 (wordsOf (Bytes.readN p.mem p.addr p.len)) }
  { s with
    tiles := tiles
    ix := []
    hbm := { s.hbm with plan := slots.accesses, deliver := [] }
    coll := { s.coll with pos := 0, refused := false, due := [], runs := [], thr := entries.foldl (fun m e => Sparse.set 0 m e.1 e.2.tinc) [] }
    tb := { s.tb with discard := 0 }
    seqr := StepSeq.reset
    ss := { s.ss with stall := 0, drop := 0, segs := [], left := none, hostSkip := false, stallFrom := none, hostOut := [] }
    recov := { s.recov with current := none, previous := none, log := [], logFull := false, undo := [], carried := [], want := [] }
    prog := prog
    gbl := { s.gbl with prog := if s.saved.isSome then 3 else 1, progId := BitVec.ofNat 64 (p.le 0 8) } }

/-! ### LOAD_PROGRAM (08 R228, 04 R137) -/

/-- A load fails: its record, and the operation ends. -/
def State.loadFails (s : State) (tag : Nat) (st : BitVec 8) (detail : List Nat) (result : Nat) : State :=
  (s.logCause { status := st, sev := 2, src := srcValidator, unit := 0, tag := some tag, detail := detail }).finish tag [st]
    (BitVec.ofNat 64 result)

/-- Accumulator entries that a layer's W-pass needs on a step that gathers: dW, and the blocks of every enabled side (06 R171, R176). -/
def State.wpassEntries (s : State) (r : Nat) : Nat :=
  let side (g : Bool) : Nat := if s.curvOn r g then s.curvDim r g * (s.curvB r g + 64) / 2 else 0
  s.curvDim r false * s.curvDim r true + side false + side true

/-- Accumulator entries of a tile (02 R57). -/
def tileEntries : Nat := 16384

/-- The first layer whose W-pass does not fit in the accumulator entries of its tiles, with the entries it lacks; a load with no step
plan has no layers (06 R176; log entry 68). -/
def State.wpassShort (s : State) (plan : Nat) (image : List Byte) : Option (Nat × Nat) :=
  if plan = 0 then none
  else ((Config.wpass image).map fun x => (x.1, s.wpassEntries x.1 - tileEntries * x.2.length)).find? fun x => decide (0 < x.2)

/-- The checks of a load in their order, then the load itself. -/
def State.loadProgram (s : State) (tag : Nat) (o : Op) : State :=
  let plan := o.word 0x18
  let alloc := if plan = 0 then s.readAlloc (o.word 0x20) (o.field 0x28 15 0)
    else s.readAlloc (Bytes.readLe s.hbm.mem (plan + 0x28) 8) (Bytes.readLe s.hbm.mem (plan + 0x30) 2)
  let both := match s.saved with | none => alloc | some v => alloc ++ v.prog.alloc
  if allocLimit < sumSizes both then
    let short := sumSizes both - allocLimit
    s.loadFails tag stCapacity [short, worstStage alloc, s.rank] short
  else match badAlloc alloc with
    | some b => s.loadFails tag stInvalid [5, b.1, b.2, 0xFFFFFFFF] 0
    | none =>
      match (match s.saved with | none => none | some v => v.meets alloc) with
      | some i => s.loadFails tag stInvalid [5, i, 0xFFFFFFFF, 0xFFFFFFFF] 0
      | none =>
        let p : ProgImage := { mem := s.hbm.mem, addr := o.word 0x08, len := o.field 0x10 39 0 }
        match p.validate with
        | .error f => s.loadFails tag stInvalid f.detail 0
        | .ok slots =>
          match s.wpassShort plan (Bytes.readN p.mem p.addr p.len) with
          | some x => s.loadFails tag stCapacity [s.recField x.1 0 15 0, x.2, 16 * x.2] (16 * x.2)
          | none => (s.loadAll p plan alloc slots).finish tag [] 0

def execLoadProgram (tag : Nat) (s : State) : Host.Outcome State Fault Refusal :=
  match s.op tag with
  | none => ok s
  | some o => if o.field 0x10 40 40 = 0 then ok (s.startOp tag opLoad fun o s => s.loadProgram tag o) else ok s

/-- UNLOAD: the program is removed and the tiles go idle; refused while a program runs or is pre-empted. -/
def execUnload (tag : Nat) (s : State) : Host.Outcome State Fault Refusal :=
  match s.op tag with
  | none => ok s
  | some o =>
    if o.field 0x10 40 40 = 1 then
      ok (s.startOp tag opLoad fun _ s =>
        if s.noProgram then
          let each (_ : Nat) (x : Tile) : Tile := { x with seq := { x.seq with run := .idle } }
          let s := { s with tiles := Sparse.mapVals Tile.reset each s.tiles, prog := Prog.reset
                            hbm := { s.hbm with plan := [] }, gbl := { s.gbl with prog := 0, progId := 0 } }
          s.finish tag [] 0
        else s.finish tag [stInvalid] 0)
    else ok s

/-! ### LAUNCH_AT (11 R298) -/

/-- A program is loaded and not running. -/
def State.launchable (s : State) : Bool := !s.prog.header.isEmpty && s.prog.tag.isNone

/-- The code of a time state (11 R321). -/
def TimeState.code : TimeState → Nat
  | .unlocked => 0 | .locking => 1 | .locked => 2 | .holdover => 3

/-- An UNLOCKED part launches nothing: TIMEOUT at once, with a record of the time state. -/
def State.launchUnlocked (s : State) (tag : Nat) : State :=
  (s.logCause { status := stTimeout, sev := 2, src := srcRouter, unit := 0, tag := some tag, detail := [s.tb.state.code] }).finishOpen
    tag [stTimeout]

/-- A launch at a count begins to be agreed: READY goes to the coordinator. -/
def State.beginLaunch (s : State) (tag c : Nat) : State :=
  ({ s with ag := { s.ag with launch := some { tag := tag, c := c, go := none } } }).sendReady

def execLaunchAt (tag : Nat) (s : State) : Host.Outcome State Fault Refusal :=
  ok (s.startOp tag opLaunch fun o s =>
    if s.launchable = false then s.finishOpen tag [stInvalid]
    else if s.tb.state = .unlocked then s.launchUnlocked tag
    else s.beginLaunch tag (o.word 0x08))

/-! ### COLL_TABLE_LOAD (11 R303–R308) -/

/-- A rule broken in a table: table (0 rank map, 1 communicators, 2 entries, 3 order), index, field by its lowest bit
(log entry 41). -/
abbrev TableFail := Nat × Nat × Nat

/-- Numbers of n bytes in a row from an address. -/
def State.hbmArray (s : State) (base size n : Nat) : List Nat :=
  (List.range n).map fun i => Bytes.readLe s.hbm.mem (base + size * i) size

/-- A communicator record: its members and its broken fields. -/
def State.readComm (s : State) (rmap : List Nat) (base i : Nat) : Comm × List Nat :=
  let w := Bytes.readLe s.hbm.mem (base + 16 * i) 8
  let n := field w 12 0
  let shape := field w 14 13
  let ms := s.hbmArray (Bytes.readLe s.hbm.mem (base + 16 * i + 8) 8) 2 (Nat.min n 4112)
  let rising := (ms.zip (ms.drop 1)).all fun p => decide (p.1 < p.2)
  let present := ms.all fun m => rmap.getD m 0xFFFF != 0xFFFF
  let tree := ld64 ([shape, n] ++ ms) % 2 ^ 32
  ({ n := n, chain := shape == 1, placeRoot := bitAt w 15, tree := tree, members := ms },
   (if n = 0 ∨ 4112 < n then [0] else []) ++ (if 1 < shape then [13] else []) ++ (if field w 31 16 = 0 then [] else [16])
     ++ (if rising && present then [] else [64]))

/-- The formats a type and operation accept (11 R308). -/
def collFmtOk (type op f : Nat) : Bool :=
  if type = 6 then f == 0
  else if !fmtKnown f then false
  else if type ≤ 1 then
    f != fmtUINT8 && f != fmtE8M0 && (op != 3 || !(f == fmtINT8 || f == fmtINT32 || f == fmtINT64))
  else !(type == 5 && isBlock f)

/-- ELEMS fits the members and the blocks (11 R307). -/
def collElemsOk (type f elems n : Nat) : Bool :=
  let per := if type = 1 ∨ type = 4 then n else 1
  let blk := if isBlock f ∧ type ≠ 6 then 32 else 1
  elems % (per * blk) == 0

/-- An entry record and its broken fields (11 R305). -/
def State.readEntry (s : State) (comms : List Comm) (base i : Nat) : CollEntry × List Nat :=
  let w (k : Nat) : Nat := Bytes.readLe s.hbm.mem (base + 64 * i + 8 * k) 8
  let e : CollEntry := {
    type := field (w 0) 2 0, op := field (w 0) 4 3, ifmt := field (w 0) 9 5, comm := field (w 0) 17 10, tflag := field (w 0) 25 18,
    dflag := field (w 0) 33 26, rootm := field (w 0) 46 34, tinc := field (w 1) 31 0, csz := field (w 1) 38 32,
    infl := field (w 1) 45 39, elems := field (w 2) 47 0, src := BitVec.ofNat 64 (w 3), dst := BitVec.ofNat 64 (w 4),
    bufOff := field (w 5) 23 0, bufSize := field (w 5) 36 24, idx := BitVec.ofNat 64 (w 6), rowb := field (w 7) 31 0,
    rpm := field (w 7) 63 32 }
  let n := match comms[e.comm]? with | none => 0 | some c => c.n
  let no (c : Bool) (bit : Nat) : List Nat := if c then [] else [bit]
  let gbi := e.type == 5
  (e, no (decide (e.type ≤ 6)) 0 ++ no (decide (e.type ≤ 1) || e.op == 0) 3 ++ no (collFmtOk e.type e.op e.ifmt) 5
    ++ no (decide (e.comm < comms.length)) 10 ++ no (if e.type = 3 then decide (e.rootm < n) else e.rootm == 0) 34
    ++ no (field (w 0) 63 47 == 0) 47 ++ no (e.tinc != 0) 64 ++ no (decide (1 ≤ e.csz ∧ e.csz ≤ 64)) 96
    ++ no (decide (1 ≤ e.infl ∧ e.infl ≤ 64)) 103 ++ no (field (w 1) 63 46 == 0) 110
    ++ no (decide (n = 0) || collElemsOk e.type e.ifmt e.elems n) 128 ++ no (field (w 2) 63 48 == 0) 176
    ++ no (e.bufOff % 4096 == 0 && decide (e.bufOff + e.bufSize * 4096 ≤ 2 ^ 24)) 320
    ++ no (decide (1 ≤ e.bufSize ∧ e.bufSize ≤ 4096 ∧ e.infl * e.csz ≤ e.bufSize)) 344 ++ no (field (w 5) 63 37 == 0) 357
    ++ no (gbi || e.idx == 0) 384 ++ no (if gbi then e.rowb % 64 == 0 else e.rowb == 0) 448 ++ no (gbi || e.rpm == 0) 480)

/-- Entries whose trigger flag an earlier entry has. -/
def sharedFlags (es : List CollEntry) : List Nat :=
  (List.range es.length).filter fun i =>
    match es[i]? with
    | none => false
    | some e => (es.take i).any fun d => d.tflag == e.tflag

/-- The first failure: ascending table, index, field. -/
def leastFail (l : List TableFail) : Option TableFail :=
  match l with
  | [] => none
  | x :: xs =>
    let lt (a b : TableFail) : Bool :=
      decide (a.1 < b.1) || (a.1 == b.1 && (decide (a.2.1 < b.2.1) || (a.2.1 == b.2.1 && decide (a.2.2 < b.2.2))))
    some (xs.foldl (fun b y => if lt y b then y else b) x)

/-- TREE, written into each communicator record. -/
def State.writeTrees (s : State) (base : Nat) (cs : List Comm) : State :=
  ((List.range cs.length).zip cs).foldl (fun s c => s.hbmWrite (base + 16 * c.1 + 4) (leBytes 4 c.2.tree)) s

/-- The four tables, replaced as a whole. -/
def State.loadTables (s : State) (tag : Nat) (o : Op) : State :=
  let rmap := s.hbmArray (o.word 0x08) 2 4112
  let cs := (List.range (o.field 0x28 8 0)).map (s.readComm rmap (o.word 0x10))
  let comms := cs.map (·.1)
  let es := (List.range (o.field 0x28 21 9)).map (s.readEntry comms (o.word 0x18))
  let entries := es.map (·.1)
  let order := s.hbmArray (o.word 0x20) 4 (o.field 0x28 42 22)
  let number {α : Type} (l : List α) : List (Nat × α) := (List.range l.length).zip l
  let fails : List TableFail :=
    ((number cs).flatMap fun c => c.2.2.map fun f => (1, c.1, f)) ++ ((number es).flatMap fun e => e.2.2.map fun f => (2, e.1, f))
      ++ ((sharedFlags entries).map fun i => (2, i, 18))
      ++ ((number order).filterMap fun w => if field w.2 11 0 < entries.length then none else some (3, w.1, 0))
  match leastFail fails with
  | some f =>
    (s.logCause { status := stInvalid, sev := 2, src := srcRouter, unit := 0, tag := some tag,
                  detail := [f.1, f.2.1, f.2.2] }).finishOpen tag [stInvalid]
  | none =>
    let s := s.writeTrees (o.word 0x10) comms
    let coll := { s.coll with
      rankMap := (number rmap).foldl (fun m r => Sparse.set 0xFFFF m r.1 r.2) [], comms := comms, entries := entries,
      order := order.map (BitVec.ofNat 32), pos := 0, due := [], refused := false, runs := [],
      thr := (number entries).foldl (fun m e => Sparse.set 0 m e.1 e.2.tinc) [] }
    { s with coll := coll }.finishOpen tag []

/-- Refused while a program runs: the tables are unchanged (11 R303, R319; log entry 42). -/
def execCollTableLoad (tag : Nat) (s : State) : Host.Outcome State Fault Refusal :=
  ok (s.startOp tag opCollLoad fun o s => if s.programRuns then s.finishOpen tag [stInvalid] else s.loadTables tag o)

end Sys2Proof.Machine
end

