-- ==== Sys2Proof/Machine/Shadow.lean ====
section
/-!
DEFINITION. The shadow stream (09 R252–R259, R261; 12 R348): registered writes, segments and their packing, frames to the host
ring and P31, and the standby that applies them.
-/

namespace Sys2Proof.Machine

/-! ### Registered regions (09 R252, R253) -/

/-- Region i of the region table: base and length in words. -/
def State.region (s : State) (i : Nat) : Nat × Nat :=
  (Bytes.readLe s.hbm.mem (s.ss.rtBase.toNat + 16 * i) 8, Bytes.readLe s.hbm.mem (s.ss.rtBase.toNat + 16 * i + 8) 5)

/-- The region a byte address lies in, with the word offset in it. -/
def State.regionAt (s : State) (a : Nat) : Option (Nat × Nat) :=
  ((List.range s.ss.rtCount).find? fun i => decide ((s.region i).1 ≤ a ∧ a < (s.region i).1 + 4 * (s.region i).2)).map
    fun i => (i, (a - (s.region i).1) / 4)

def State.ssMode (s : State) : Nat := field s.ss.ctrl.toNat 5 4
def State.hostEn (s : State) : Bool := s.ss.ctrl.getLsbD 0
def State.p31En (s : State) : Bool := s.ss.ctrl.getLsbD 1
def State.hostPol (s : State) : Bool := s.ss.ctrl.getLsbD 2

/-- A destination is enabled: the engine collects differences (09 R261). -/
def State.engineOn (s : State) : Bool := s.ssMode == 0 && (s.hostEn || s.p31En)

/-- Words a segment covers at most. -/
def segmentWords : Nat := 16777216

/-- One difference word joins the segments of the frame: the last one when it goes on there, else a new one (09 R255). -/
def pushDiff (writer region off : Nat) (d : W32) (l : List Segment) : List Segment :=
  match l.getLast? with
  | none => [{ writer := writer, region := region, offset := off, words := [d] }]
  | some g =>
    if g.writer = writer ∧ g.region = region ∧ g.offset + g.words.length = off ∧ g.words.length < segmentWords then
      l.dropLast ++ [{ g with words := g.words ++ [d] }]
    else l ++ [{ writer := writer, region := region, offset := off, words := [d] }]

/-- One word written at a byte address that is a multiple of 4, with its difference noted when it is registered. After the commit point
its old value is kept for a recovery that redoes what writes it (09 R260). -/
def State.ownWord (s : State) (writer a : Nat) (v : Nat) : State :=
  let old := leNat (s.hbmRead a 4)
  let s1 := s.hbmWrite a (leBytes 4 v)
  let s1 := if 7 ≤ s.seqr.phase then { s1 with recov := { s1.recov with undo := (a, old) :: s1.recov.undo } } else s1
  if s.engineOn then
    match s.regionAt a with
    | none => s1
    | some r => { s1 with ss := { s1.ss with segs := pushDiff writer r.1 r.2 (BitVec.ofNat 32 (old ^^^ v)) s1.ss.segs } }
  else s1

/-- Words written in ascending address. -/
def State.ownWords (s : State) (writer a : Nat) : List Nat → State
  | [] => s
  | v :: l => (s.ownWord writer a (v % 2 ^ 32)).ownWords writer (a + 4) l

/-- A 64-bit value, low word first. -/
def State.ownWord64 (s : State) (writer a v : Nat) : State := s.ownWords writer a [v % 2 ^ 32, v / 2 ^ 32]

/-! ### Packing (09 R256) -/

/-- A literal token and its words. -/
def literalToken (l : List W32) : List W32 := if l.isEmpty then [] else BitVec.ofNat 32 (2 ^ 31 + l.length) :: l

/-- What a run of z zeros behind pending literals gives: its own token, or zeros that join the literals. -/
def endZeros (lit : List W32) (z : Nat) : List W32 :=
  if 2 ≤ z then literalToken lit ++ [BitVec.ofNat 32 z] else literalToken (lit ++ List.replicate z 0)

/-- The canonical encoding: pending literals, zeros counted, words left. -/
def packRun : List W32 → Nat → List W32 → List W32
  | lit, z, [] => endZeros lit z
  | lit, z, w :: l =>
    if w = 0 then packRun lit (z + 1) l
    else if 2 ≤ z then literalToken lit ++ BitVec.ofNat 32 z :: packRun [w] 0 l
    else packRun (lit ++ List.replicate z 0 ++ [w]) 0 l

def packDiffs (l : List W32) : List W32 := packRun [] 0 l

/-- The words of a payload: the number of literals still to come, the words left. -/
def unpackDiffs : Nat → List W32 → List W32
  | _, [] => []
  | n + 1, w :: l => w :: unpackDiffs n l
  | 0, w :: l =>
    let n := w.toNat % 2 ^ 31
    if w.getLsbD 31 then unpackDiffs n l else List.replicate n 0 ++ unpackDiffs 0 l

/-! ### Frames (09 R254, R255) -/

def wordBytes (l : List W32) : List Byte := l.flatMap fun w => leBytes 4 w.toNat

def Segment.payload (g : Segment) : List Byte := wordBytes (packDiffs g.words)

/-- SEGDIG: LD64 of the payload's words. -/
def payloadDigest (bs : List Byte) : Nat := ld64 (wordsOf bs)

def Segment.bytes (g : Segment) : List Byte :=
  let p := g.payload
  leBytes 8 g.region ++ leBytes 8 g.offset ++ leBytes 4 g.words.length ++ leBytes 4 p.length ++ leBytes 8 (payloadDigest p) ++ p

/-- The first word of a header or trailer. -/
def State.frameWord (s : State) (gap : Bool) : Nat := 1 + b2n s.seqr.skipped * 2 ^ 16 + b2n gap * 2 ^ 17

def State.frameHeader (s : State) (gap : Bool) : List Byte :=
  leBytes 8 (s.frameWord gap) ++ leBytes 8 s.gbl.step.toNat ++ leBytes 2 s.rank ++ leBytes 2 s.dpw ++ leBytes 4 0 ++ leBytes 8 0
    ++ leBytes 8 s.prog.dig ++ List.replicate 24 0

/-- SEGDIG of the segments that have left, then of those in staging. -/
def State.frameDigs (s : State) : List Nat :=
  (match s.ss.left with | none => [] | some l => l.2) ++ s.ss.segs.map fun g => payloadDigest g.payload

/-- Bytes of the frame's parts that have left. -/
def State.frameLeft (s : State) : Nat := match s.ss.left with | none => 0 | some l => l.1

def State.frameTrailer (s : State) (gap : Bool) (len : Nat) : List Byte :=
  let digs := s.frameDigs
  leBytes 8 (s.frameWord gap) ++ leBytes 8 s.gbl.step.toNat ++ leBytes 2 s.rank ++ leBytes 2 s.dpw ++ leBytes 4 digs.length
    ++ leBytes 8 len ++ leBytes 8 (ld64Pairs digs) ++ List.replicate 24 0

/-- Bytes of parts. -/
def partsSize (l : List (List Byte)) : Nat := l.foldl (fun n p => n + p.length) 0

/-- The parts of the step's frame that have still to leave, for a destination: header, segments, trailer. -/
def State.frameParts (s : State) (gap : Bool) : List (List Byte) :=
  let body := (if s.ss.left.isNone then [s.frameHeader gap] else []) ++ s.ss.segs.map Segment.bytes
  body ++ [s.frameTrailer gap (s.frameLeft + partsSize body + 64)]

/-! ### Destinations (09 R257, R258; 12 R348) -/

/-- Free bytes of the host ring. -/
def State.hostRoom (s : State) : Nat := s.ss.hsize.toNat - (s.ss.head - s.ss.tail)

/-- Bytes written at SS_HEAD, round the end of the ring. -/
def State.hostAppend (s : State) (bs : List Byte) : State :=
  let b := s.ss.ctrl.getLsbD 3
  let size := s.ss.hsize.toNat
  let at_ := s.ss.head % size
  let n := size - at_
  let put (a : Nat) (l : List Byte) (s : State) : State := (s.translate b a l.length).hostWrite b a l
  let s1 := put s.ss.hbase.toNat (bs.drop n) (put (s.ss.hbase.toNat + at_) (bs.take n) s)
  { s1 with ss := { s1.ss with head := s1.ss.head + bs.length } }

/-- The first denied page's address among the bytes that a part takes from SS_HEAD on; a held access waits (12 R352). -/
def State.ringDenied (s : State) (n : Nat) : Option Nat :=
  let h := s.hp (s.ss.ctrl.getLsbD 3)
  let size := s.ss.hsize.toNat
  let at_ := s.ss.head % size
  let first := Nat.min n (size - at_)
  let scan (a k : Nat) : Option Nat := match h.reach a k with | (m, some _) => some (a + m) | (_, none) => none
  if n = 0 then none
  else match scan (s.ss.hbase.toNat + at_) first with
    | some a => some a
    | none => if n ≤ first then none else scan s.ss.hbase.toNat (n - first)

/-- Parts waiting for the host ring leave while they fit; with HOSTPOL 1 the rest of the frame is dropped when one does not. A part that
meets a denied page waits, with a page request (12 R342, R352). -/
def State.drainHost (s : State) : List (List Byte) → State
  | [] => { s with ss := { s.ss with hostOut := [] } }
  | p :: l =>
    if s.hostRoom < p.length then
      if s.hostPol then
        let open_ := s.ss.left.isSome
        let s := { s with ss := { s.ss with hostOut := [], drop := satAdd 32 s.ss.drop 1, gap := true, hostSkip := open_ } }
        s.logCause { status := stOk, sev := 0, src := srcStep, unit := 0, tag := s.seqr.tag, detail := [s.gbl.step.toNat] }
      else { s with ss := { s.ss with hostOut := p :: l } }
    else
      match s.ringDenied p.length with
      | some a => { s with ss := { s.ss with hostOut := p :: l } }.askStep (s.ss.ctrl.getLsbD 3) a
      | none => (s.hostAppend p).drainHost l

/-! ### Staging (09 R257, R260; log entry 130) -/

/-- Bytes of the staging area: allocation KIND 9 (08 R227). -/
def State.stagingSize (s : State) : Nat := (s.prog.alloc.filter fun a => a.kind == 9).foldl (fun n a => n + a.size) 0

/-- Bytes that segments take. -/
def segsSize (l : List Segment) : Nat := partsSize (l.map Segment.bytes)

/-- Bytes in staging: segments of the step's frame, and parts that wait for the host ring. -/
def State.staged (s : State) : Nat := segsSize s.ss.segs + partsSize s.ss.hostOut

def State.p31On (s : State) : Bool := s.ssMode == 0 && s.p31En && (s.port 31).state.works
def State.hostOn (s : State) : Bool := s.ssMode == 0 && s.hostEn

/-- Parts leave staging for the destinations: `f` gives them with the GAP bit of the destination. -/
def State.sendParts (s : State) (f : Bool → List (List Byte)) : State :=
  let s := if s.p31On then (f false).foldl (fun s p => s.emit (.frame p)) s else s
  if s.hostOn && !s.ss.hostSkip then { s with ss := { s.ss with hostOut := s.ss.hostOut ++ f s.ss.gap } } else s

/-- The frame's header leaves, if it has not, with some of its segments: those that can grow no more, or all. -/
def State.sendSegs (s : State) (all : Bool) : State :=
  let out := if all then s.ss.segs else s.ss.segs.dropLast
  if out.isEmpty then s
  else
    let head (gap : Bool) : List (List Byte) := if s.ss.left.isNone then [s.frameHeader gap] else []
    let old := s.ss.left.getD (64, [])
    let s1 := s.sendParts fun gap => head gap ++ out.map Segment.bytes
    let left := (old.1 + segsSize out, old.2 ++ out.map fun g => payloadDigest g.payload)
    { s1 with ss := { s1.ss with segs := s1.ss.segs.drop out.length, left := some left } }

/-- A writer goes on: what it has waited is counted. -/
def State.unstall (s : State) : State :=
  match s.ss.stallFrom with
  | none => s
  | some c => { s with ss := { s.ss with stallFrom := none, stall := (s.ss.stall + s.cyclesOf (s.tb.count - c)) % 2 ^ 64 } }

/-- A writer waits for staging, from now on when it has not waited yet. -/
def State.stallWriter (s : State) : State :=
  { s with ss := { s.ss with stallFrom := some (s.ss.stallFrom.getD s.tb.count) } }

/-- A writer of registered words: `f` runs when its segments fit behind those in staging, which leave first where room is short. It
waits when staging is still too full and the host ring can free some of it; RUN_STEPS checks that no writer of the sweep is larger than
staging (09 R257, R260). -/
def State.writes (s : State) (f : State → State) : State :=
  if s.engineOn = false ∨ (f s).staged ≤ s.stagingSize then (f s).unstall
  else
    let s1 := s.sendSegs false
    let s1 := s1.drainHost s1.ss.hostOut
    if (f s1).staged ≤ s.stagingSize ∨ s1.ss.hostOut.isEmpty = true then (f s1).unstall else s1.stallWriter

/-- Provenance records of a step that was applied: one for each parameter tensor, with the LD64 of this rank's shard of its compute copy
at its logical indices in the tensor (05 R158, R162; log entry 39). -/
def State.stepProv (s : State) : State :=
  (s.urecs s.seqr.optRec).foldl
    (fun s r =>
      let d := s.shardDigest (s.ccFmt r) (s.mem64 (r + 0x30)) (s.nown r) s.dataPos
      s.writeProv (s.provRecord (s.recField r 0 15 0) (ldFinal d.1 d.2)))
    s

/-- Emission and sweep go: their program runs, the domain is not paused, and no stop holds them (08 R236, 09 R260). -/
def State.emits (s : State) : Bool :=
  s.seqr.tag.isSome && !s.gbl.paused
    && (match s.ag.stop with | none => true | some n => decide (s.tb.count < n.c))

/-- The state becomes the replay point of what the sequencer does next: the next tensor of the sweep, or what follows the frame
(09 R251, 14 R382). -/
def State.newPoint (s : State) : State :=
  let idx := match s.recov.current with | none => 0 | some r => r.idx + 1
  if s.recov.stage = .none then
    { s with recov := { s.recov with previous := s.recov.current, current := some (s.replayPoint idx), log := [], logFull := false,
                                     upTo := [], undo := [], carried := [], want := [] } }
  else s

/-- Phase 8: what is left of the frame leaves through staging once the frame before it has left and it has room; provenance records are
written. -/
def execShadowFrameEmit (s : State) : Host.Outcome State Fault Refusal :=
  if s.emits = false ∨ s.seqr.phase ≠ 8 then ok s
  else
    let s := s.drainHost s.ss.hostOut
    if s.hostOn && !s.ss.hostOut.isEmpty && decide (s.stagingSize < partsSize s.ss.hostOut + partsSize (s.frameParts s.ss.gap)) then
      ok s.stallWriter
    else
      let s := if s.seqr.skipped then s else s.stepProv
      let s := s.unstall.sendParts s.frameParts
      let s := { s with ss := { s.ss with segs := [], left := none, gap := if s.hostOn then s.ss.hostSkip else s.ss.gap, hostSkip := false }, seqr := { s.seqr with phase := 9 } }
      ok (s.drainHost s.ss.hostOut).newPoint

/-! ### Registers (16 R441, 12 R348) -/

/-- SS_CTRL: ignored while RUN_STEPS runs, and for a reserved MODE. Enabling the host destination zeroes the ring's indices. -/
def execSsCtrlWrite (v : W64) (s : State) : Host.Outcome State Fault Refusal :=
  if s.ready = false then ok s
  else if s.seqr.tag.isSome then ok (s.logIgnored 0x081000)
  else if 2 ≤ field v.toNat 5 4 then ok s
  else
    let c := v &&& 0x3F
    let fresh := c.getLsbD 0 && !s.hostEn
    ok { s with ss := { s.ss with ctrl := c, head := if fresh then 0 else s.ss.head, tail := if fresh then 0 else s.ss.tail } }

/-- SS_TAIL: bytes the host has consumed; beyond SS_HEAD it is ignored and logged. Waiting parts go on. -/
def execSsTailWrite (v : W64) (s : State) : Host.Outcome State Fault Refusal :=
  if s.ready = false then ok s
  else if s.ss.head < v.toNat then ok (s.logIgnored 0x081040)
  else
    let s := { s with ss := { s.ss with tail := v.toNat } }
    ok (s.drainHost s.ss.hostOut)

/-! ### The standby (09 R259, 14 R387) -/

/-- A check of the standby fails: the mirror is no longer valid, and the step and the failing field are logged. -/
def State.mirrorFails (s : State) (step fld : Nat) : State :=
  let s := { s with ss := { s.ss with mirrorValid := false, rx := none } }
  s.logCause { status := stOk, sev := 0, src := srcStep, unit := 0, tag := none, detail := [step, fld] }

/-- The part mirrors a rank. -/
def State.mirrors (s : State) : Bool := s.ssMode == 1 && s.ss.mirrorValid

/-- A header: VERSION and STEP. A header of the step whose frame is open starts that frame again. -/
def execShadowFrameHeader (bytes : List Byte) (s : State) : Host.Outcome State Fault Refusal :=
  if s.mirrors then
    let step := leNat ((bytes.drop 8).take 8)
    if step ≠ s.ss.mirrorStep.toNat then ok (s.mirrorFails step 0x08)
    else if leNat (bytes.take 2) ≠ 1 then ok (s.mirrorFails step 0x00)
    else ok { s with ss := { s.ss with rx := some { step := BitVec.ofNat 64 step, nseg := 0, bytes := 64, digs := [] } } }
  else ok s

/-- Difference words applied to consecutive words of HBM. -/
def State.xorWords (s : State) (a : Nat) : List W32 → State
  | [] => s
  | w :: l => (s.hbmWrite a (leBytes 4 (leNat (s.hbmRead a 4) ^^^ w.toNat))).xorWords (a + 4) l

/-- A segment: SEGDIG over its payload, then the differences; one that does not fit its region fails at REGION. -/
def execShadowSegment (bytes : List Byte) (s : State) : Host.Outcome State Fault Refusal :=
  match s.ss.rx with
  | none => ok s
  | some f =>
    if s.mirrors then
      let region := leNat (bytes.take 2) % 2 ^ 12
      let off := leNat ((bytes.drop 8).take 5)
      let dig := leNat ((bytes.drop 0x18).take 8) % 2 ^ 61
      let pay := bytes.drop 32
      let ws := unpackDiffs 0 ((wordsOf pay).map (BitVec.ofNat 32))
      if payloadDigest pay ≠ dig then ok (s.mirrorFails f.step.toNat 0x18)
      else if s.ss.rtCount ≤ region ∨ (s.region region).2 < off + ws.length then ok (s.mirrorFails f.step.toNat 0x00)
      else
        let s1 := s.xorWords ((s.region region).1 + 4 * off) ws
        ok { s1 with ss := { s1.ss with rx := some { f with nseg := f.nseg + 1, bytes := f.bytes + bytes.length,
                                                            digs := f.digs ++ [dig] } } }
    else ok s

/-- The trailer: NSEG, FRAME_LEN and FRAME_DIG; SS_MIRROR_STEP moves on. -/
def execShadowFrameTrailer (bytes : List Byte) (s : State) : Host.Outcome State Fault Refusal :=
  match s.ss.rx with
  | none => ok s
  | some f =>
    if s.mirrors then
      if leNat ((bytes.drop 0x14).take 4) ≠ f.nseg then ok (s.mirrorFails f.step.toNat 0x10)
      else if leNat ((bytes.drop 0x18).take 8) ≠ f.bytes + 64 then ok (s.mirrorFails f.step.toNat 0x18)
      else if leNat ((bytes.drop 0x20).take 8) % 2 ^ 61 ≠ ld64Pairs f.digs then ok (s.mirrorFails f.step.toNat 0x20)
      else ok { s with ss := { s.ss with rx := none, mirrorStep := f.step + 1 } }
    else ok s

end Sys2Proof.Machine
end

