-- ==== Sys2Proof/Machine/Faults.lean ====
section
/-!
DEFINITION. Faults and their recovery (14 R380–R396): tile faults, the re-map, the restore from a replay point, recovery fetch,
catch-up, replay records, part loss, the thermal pause, and FLT_ACK.
-/

namespace Sys2Proof.Machine

/-! ### Tile failures (14 R381) -/

/-- A tile fails: single-fault recovery with re-map, or its retirement at once when no program runs. -/
def State.tileFails (s : State) (t : Nat) : State :=
  (s.recoverFault { status := stRemapped, sev := 1, src := srcTile, unit := t, tag := s.prog.tag, detail := [t] }
    (s.tile t).seq.cycle).retireTile t

/-- A parity error in a tile's sequencer, array, vector or descriptor state. -/
def execTileFault (t : Nat) (s : State) : Host.Outcome State Fault Refusal :=
  if t < 1024 then ok (s.tileFails t) else ok s

/-- A neighbour saw no handshake of tile t for 8,192 cycles while a transfer was due. -/
def execHandshakeTimeout (t : Nat) (s : State) : Host.Outcome State Fault Refusal :=
  if t < 1024 then ok (s.tileFails t) else ok s

/-! ### Loss of this part (13 R363, R375; 14 R388, R389) -/

/-- This part is lost to the domain: its program stops here, without a recovery; the surviving parts stop the domain. -/
def State.loseSelf (s : State) (st : BitVec 8) : State :=
  let s := (s.addStatus st).stopTiles
  { s with gbl := { s.gbl with paused := false }
           ag := { s.ag with pause := none, resume := none }
           prog := { s.prog with stopped := s.prog.tag.isSome }
           recov := { s.recov with active := false, stage := .none, cause := none, retire := [], rows := [], pch := [] } }

/-! ### The re-map term (14 R386; 13 R363, R373, R374) -/

/-- Soft repairs of a row's bank used: key of pseudo-channel and bank. -/
def rowKey (e : Nat × Nat) : Nat := e.1 * 65536 + Config.hbmBank e.2 % 65536

/-- Retraining and soft repair of a pseudo-channel: whether the retraining fails is open. It is dead when it fails, or when the
bank's four repairs are used. -/
def State.repairPch (s : State) (e : Nat × Nat) : State :=
  let used := Sparse.get 0 s.hbm.rowFix (rowKey e)
  if s.freeVal.getLsbD 0 ∨ 4 ≤ used then
    let stack := e.1 / 64
    let d := Sparse.get 0 s.hbm.dead stack ||| (1#64 <<< (e.1 % 64))
    let s := ({ s with hbm := { s.hbm with dead := Sparse.set 0 s.hbm.dead stack d } }).useFree 1
    s.logCause { status := stEcc, sev := 3, src := srcHbm, unit := e.1, tag := s.prog.tag, detail := [e.1, e.2] }
  else
    let n := satAdd 16 (Sparse.get 0 s.hbm.sppr (e.1 / 64)) 1
    ({ s with hbm := { s.hbm with rowFix := Sparse.set 0 s.hbm.rowFix (rowKey e) (used + 1)
                                  sppr := Sparse.set 0 s.hbm.sppr (e.1 / 64) n } }).useFree 1

/-- A row in error: a scratchpad region, or 4,096 + row group of an accumulator. -/
def State.repairMemory (s : State) (r : Nat × Nat) : State :=
  if r.2 < 4096 then s.repairRow r.1 0 r.2 else s.repairRow r.1 (1 + (r.2 - 4096) / 128) ((r.2 - 4096) % 128)

/-- Some pseudo-channel is dead. -/
def State.anyDead (s : State) : Bool := !s.hbm.dead.isEmpty

/-- The re-map: rows repaired, pseudo-channels retrained, tiles retired. A second failed position in a half-row, or a dead
pseudo-channel, loses the part. -/
def execRecoveryRemap (s : State) : Host.Outcome State Fault Refusal :=
  if s.recov.stage = .paused ∧ s.gbl.paused = true then
    let s := s.recov.rows.foldl State.repairMemory s
    let s := s.recov.pch.foldl State.repairPch s
    let s := s.recov.retire.foldl (fun s t => s.retirePhys (s.physOf t)) s
    if s.gbl.retired then ok (s.loseSelf stRestricted)
    else if s.anyDead then ok (s.loseSelf stEccEnded)
    else ok { s with recov := { s.recov with stage := .remapped, retire := [], rows := [] } }
  else ok s

/-! ### The restore (14 R382–R384, R387) -/

/-- The loaded image. -/
def State.progImage (s : State) : ProgImage := { mem := s.hbm.mem, addr := s.prog.addr, len := s.prog.len }

/-- A descriptor with an OWNER_DIGEST. -/
def withOwner (d : BitVec 512) (v : Nat) : BitVec 512 := BitVec.ofNat 512 (setField d.toNat 511 448 v)

/-- OWNER_DIGEST in every descriptor with the tensor ID and DCHK set (05 R159). -/
def State.applyOwner (s : State) (tid v : Nat) : State :=
  let put (_ : Nat) (d : BitVec 512) : BitVec 512 :=
    let f := descOf d
    if f.valid && f.dchk && f.tid == tid then withOwner d v else d
  { s with tiles := Sparse.mapVals Tile.reset (fun _ x => { x with dstore := Sparse.mapVals 0 put x.dstore }) s.tiles }

/-- An access of the segment being re-executed: at or after the replay point in its tile's issue sequence. -/
def ReplayPoint.redoes (r : ReplayPoint) (a : Access) : Bool :=
  let q := Sparse.get TileSeq.reset r.tiles a.tile
  q.run.live && q.sect.toNat == a.sect && !posLt a.pos q.pos

/-- The line lies in the compute copy of an update record (09 R241, R250). -/
def State.inComputeCopy (s : State) (a : Nat) : Bool :=
  let o := s.seqr.optRec
  s.seqr.tag.isSome
    && (List.range (Bytes.readLe s.hbm.mem (o + 0x78) 4)).any fun i =>
      let r := Bytes.readLe s.hbm.mem (o + 0x70) 8 + 128 * i
      let base := Bytes.readLe s.hbm.mem (r + 0x30) 8
      let n := Bytes.readLe s.hbm.mem (r + 0x08) 5
      let f := field (Bytes.readLe s.hbm.mem r 8) 22 18
      decide (base ≤ a ∧ a < scaleAt f base n + ceilDiv n 32)

/-- Whether a lost line is covered: re-execution writes it, a standby that is up to date holds it (open: the standby is another
part), or it is a compute copy. -/
def State.lineCovered (s : State) (r : ReplayPoint) (line : Nat) : Bool :=
  (s.hbm.plan.any fun a => a.write && hbmLine a.hbm == line && decide (a.state = .served ∨ a.state = .issued) && r.redoes a)
    || ((s.regionAt (128 * line)).isSome && s.freeVal.getLsbD 1) || s.inComputeCopy (128 * line)

/-- Lost lines of the recovery. -/
def State.lostLines (s : State) : List Nat := (s.recov.pch.map (·.2)).filter s.hbm.poison.contains

/-- What an abandoned attempt has written of registered regions reaches the destinations without a trailer: the restarted step writes the
same bits again, so its differences there are zero (14 R387, 09 R253; log entry 130). -/
def State.abandonFrame (s : State) : State :=
  let s := s.sendSegs true
  let s := { s with ss := { s.ss with left := none, hostSkip := false } }
  s.drainHost s.ss.hostOut

/-- Step s starts again from its start: intake, and a launch agreed anew (14 R384, R387; log entry 49). -/
def State.restartStep (s : State) : State :=
  let s := s.stopTiles.abandonFrame
  let s := { s with seqr := { s.seqr with phase := 1, reports := [], replaying := none, frozenDig := [], jobs := [], wsum := [], sqn := [],
                                          results := [] }
                    recov := { s.recov with stage := .restored, pch := [], upTo := [] } }
  s.announceResume

/-- A loss that the restore does not cover: the step restarts before the commit point; after it, or without a step run, the
program ends with ECC_UNCORRECTABLE. -/
def State.widen (s : State) : State :=
  if s.seqr.tag.isSome ∧ s.seqr.phase ≤ 6 then s.restartStep
  else
    let s := s.stopPart { status := stEccEnded, sev := 2, src := srcHbm, unit := (s.recov.pch.headD (0, 0)).1, tag := s.prog.tag,
                          detail := s.lostLines }
    { s with recov := { s.recov with stage := .restored, pch := [] } }

/-- A tile at the start of a restore: stores from the image, sequencer from the record, not issuing. Lines and atomics on their way to
it are given up: the segment sends them again (log entry 50). -/
def Tile.reload (x : Tile) (p : ProgImage) (t : Nat) (q : TileSeq) : Tile :=
  { x.withStores p t with seq := { q with run := if q.run.live then .halted else q.run }, stopAt := none, port := [],
                          links := [], atoms := [] }

/-- CNT[15] of a tile. -/
def State.setCnt15 (s : State) (v t : Nat) : State :=
  let q := (s.tile t).seq
  s.setSeq t { q with cnt := Sparse.set 0 q.cnt 15 (BitVec.ofNat 32 v) }

/-! ### Recovery fetch (14 R383, R392) -/

/-- All-gathers of weights that have been launched in this step, with their members and this one's place. -/
def State.gathered (s : State) : List (CollEntry × Comm × Nat) :=
  (((s.coll.order.take s.coll.pos).map fun w => field w.toNat 11 0).eraseDups).filterMap fun i =>
    match s.coll.entries[i]? with
    | none => none
    | some e => match s.coll.comms[e.comm]?, s.ccRecord e.src.toNat with
      | some c, some _ => if e.type = 2 then (s.memberIndex c).map fun me => (e, c, me) else none
      | _, _ => none

/-- The tensor ID of a gathered weight. -/
def State.gatheredTid (s : State) (e : CollEntry) : Nat :=
  match s.ccRecord e.src.toNat with | none => 2 ^ 16 | some r => s.recField r 0 15 0

/-- Copies that a restore fetches again: those in scratchpads, and the one whose check has failed. -/
def State.refetched (s : State) : List (CollEntry × Comm × Nat) :=
  s.gathered.filter fun g =>
    isTileLinear g.1.dst.toNat || (match s.recov.digest with | none => false | some d => d.1 == s.gatheredTid g.1)

/-- The pieces of a gathered copy: member, address in the owner's compute copy, address here, bytes. SRC is taken to be the same on every
member (log entry 131). -/
def CollEntry.pieces (e : CollEntry) (n m : Nat) : List (Nat × Nat × Nat) :=
  let b := packedBytes e.ifmt e.elems
  (e.src.toNat, e.dst.toNat + m * b, b)
    :: (if isBlock e.ifmt then
          [(scaleAt e.ifmt e.src.toNat e.elems, scaleAt e.ifmt e.dst.toNat (n * e.elems) + m * (e.elems / 32), e.elems / 32)]
        else [])

/-- Gathered copies are fetched again: other members' pieces are asked of them, the own one is read here. -/
def State.refetch (s : State) : State :=
  s.refetched.foldl
    (fun s g =>
      (List.range g.2.1.n).foldl
        (fun s m => (g.1.pieces g.2.1.n m).foldl
          (fun s p =>
            if m = g.2.2 then s.linWrite p.2.1 (s.linRead p.1 p.2.2)
            else match s.memberPart g.2.1 m with
              | none => s
              | some q =>
                ({ s with recov := { s.recov with want := s.recov.want ++ [(p.2.1, p.2.2)] } }).emit (.fetchAsk q p.1 p.2.2)) s) s) s

/-- Deliveries of the receive log that a fetched copy replaces. -/
def State.logWithout (s : State) : List (Nat × List Byte) :=
  let ranges := s.refetched.flatMap fun g => (List.range g.2.1.n).flatMap fun m => (g.1.pieces g.2.1.n m).map fun p => (p.2.1, p.2.2)
  s.recov.log.filter fun e => ranges.all fun r => decide (e.1 + e.2.length ≤ r.1 ∨ r.1 + r.2 ≤ e.1)

/-- The digest of a gathered copy whose check has failed, with its OWNER_DIGEST: finalised over the words of the whole tensor (14 R392). -/
def State.recheck (s : State) : Option (Nat × Nat × Nat × Nat) :=
  match s.recov.digest with
  | none => none
  | some d =>
    match s.gathered.find? fun g => s.gatheredTid g.1 == d.1 with
    | none => none
    | some g =>
      let ws := wordsOf (s.linRead g.1.dst.toNat (packedBytes g.1.ifmt (g.2.1.n * g.1.elems)))
      some (d.1, d.2, Sparse.get 0 s.weightDigests d.1, ldFinal (ldPartial 0 ws) ws.length)

/-- The stores are reloaded, the OWNER_DIGEST values re-applied, the sequencers set from the record, gathered copies are fetched
again, and the restore section starts with the replay-point index in CNT[15]. -/
def State.beginRestore (s : State) (r : ReplayPoint) : State :=
  let p := s.progImage
  let reload (s : State) (t : Nat) : State := s.setTile t ((s.tile t).reload p t (Sparse.get TileSeq.reset r.tiles t))
  let s1 : State := s.imageTiles.foldl reload s
  let s2 : State := s.seqr.owner.foldl (fun (s : State) (c : Nat × Nat) => s.applyOwner c.1 c.2) s1
  let s3 : State := { s2 with recov := { s2.recov with stage := .restoring, log := s2.logWithout, want := [] } }.refetch
  if s3.sectionEntry 2 = 0xFFFF then s3
  else s3.imageTiles.foldl (fun (s : State) (t : Nat) => s.setCnt15 r.idx t) (s3.startSection 2 false)

/-- The step sequencer as the record has it. What does not run again stays: statuses, results of collectives and their norms, and the
carried partials that have come since (14 R384; log entry 50). -/
def State.restoreSeqr (s : State) (r : ReplayPoint) : StepSeq :=
  let carried := s.recov.carried.foldl
    (fun m (c : Nat × Nat) => Sparse.set 0 m c.1 ((Sparse.get 0 m c.1 + c.2) % ldP)) r.seqr.carried
  { r.seqr with
    tag := s.seqr.tag, carried := carried, owner := s.seqr.owner, ownFail := s.seqr.ownFail, sqn := s.seqr.sqn, results := s.seqr.results
    stepStatus := s.seqr.stepStatus, sat := r.seqr.sat || s.seqr.sat, stale := r.seqr.stale || s.seqr.stale }

/-- Words written since the replay point after the commit point get their old values again, and their segments leave staging (09 R260). -/
def State.undoWrites (s : State) (r : ReplayPoint) : State :=
  let s1 := s.recov.undo.foldl (fun (s : State) (w : Nat × Nat) => s.hbmWrite w.1 (leBytes 4 w.2)) s
  { s1 with recov := { s1.recov with undo := [] }, ss := { s1.ss with segs := if 7 ≤ r.seqr.phase then r.segs else s1.ss.segs } }

/-- The restore section has ended: the sequencers take the record's state, words of an unfinished tensor of the sweep are written back,
the receive log's deliveries are made again, the segment's accesses are assigned again, lost lines that are covered are good, legs that
CRC mismatches had held are asked for again, and Q is announced (log entry 50). -/
def State.endRestore (s : State) (r : ReplayPoint) : State :=
  let set (t : Nat) (x : Tile) : Tile := { x with seq := Sparse.get TileSeq.reset r.tiles t, port := [] }
  let s := { s with tiles := Sparse.mapVals Tile.reset set s.tiles }
  let s := { s with seqr := s.restoreSeqr r }.undoWrites r
  let s := s.recov.log.foldl (fun s e => s.linWrite e.1 e.2) s
  let again (a : Access) : Access := if r.redoes a then { a with state := .assigned, data := [], fails := 0 } else a
  let good := s.lostLines
  let s := { s with hbm := { s.hbm with plan := s.hbm.plan.map again, poison := s.hbm.poison.filter fun l => !good.contains l }
                    recov := { s.recov with stage := .restored, pch := [] } }
  s.askLegsAgain.announceResume

/-- The end of a restore; of one that a weight-stream check started only when the fetched copy passes that check (14 R392). -/
def State.finishRestore (s : State) (r : ReplayPoint) : State :=
  match s.recheck with
  | none => s.endRestore r
  | some (tid, layer, want, got) =>
    if got = want then s.endRestore r
    else
      let s := s.stopPart { status := stDigestEnded, sev := 2, src := srcStep, unit := 0, tag := s.prog.tag, detail := [tid, layer, want, got] }
      { s with recov := { s.recov with stage := .restored, digest := none } }

/-- The restore of the recovering part, in two steps: its start, and its end once the restore section has halted and the copies that it
fetches are there. -/
def execRestoreFromReplayPoint (s : State) : Host.Outcome State Fault Refusal :=
  match s.recov.current with
  | none => ok s
  | some r =>
    match s.recov.stage with
    | .remapped =>
      if s.recov.logFull || !(s.lostLines.all (s.lineCovered r)) then ok (s.useFree 1).widen
      else
        let s := (s.useFree 1).beginRestore r
        ok (if s.tilesQuiet && s.recov.want.isEmpty then s.finishRestore r else s)
    | .restoring => if s.tilesQuiet && s.accessesDone && s.recov.want.isEmpty then ok (s.finishRestore r) else ok s
    | _ => ok s

/-- A peer's read of this part's HBM, served in free slots. -/
def execRecoveryFetch (peer addr len : Nat) (s : State) : Host.Outcome State Fault Refusal :=
  ok (s.emit (.fetch peer (s.hbmRead addr len)))

/-- The re-execution has passed the fault's cycle on every tile that still runs: the catch-up point is announced. -/
def execCatchUpPoint (s : State) : Host.Outcome State Fault Refusal :=
  let passed := s.tiles.all fun c => !c.2.seq.run.live || decide (s.recov.faultCycle ≤ c.2.seq.cycle)
  if s.recov.active = true ∧ s.recov.stage = .none ∧ passed = true then
    ok (({ s with recov := { s.recov with active := false, cause := none, faultCycle := 0 } }).emit .catchUp)
  else ok s

/-- A replay record is complete: its replay point becomes current, and the receive log begins anew. -/
def execReplayRecordComplete (idx : Nat) (s : State) : Host.Outcome State Fault Refusal :=
  if s.programRuns = true ∧ s.recov.active = false ∧ s.recov.stage = .none then
    ok { s with recov := { s.recov with previous := s.recov.current, current := some (s.replayPoint idx), log := [],
                                        logFull := false, upTo := [], undo := [], carried := [], want := [] } }
  else ok s

/-! ### Part loss (14 R389) -/

/-- The surviving part of lowest logical rank. -/
def State.survivor (s : State) (lost : Nat) : Option Nat :=
  (s.coll.rankMap.find? fun c => c.2 != 0xFFFF && c.2 != lost).map (·.2)

/-- Another part is lost: a record of it, TIMEOUT, and the stop of the domain, which the surviving part of lowest rank
coordinates. After the commit point the step completes first (R390). -/
def execPartLoss (part : Nat) (s : State) : Host.Outcome State Fault Refusal :=
  if part = s.partNo ∨ s.programRuns = false then ok s
  else
    let s := s.logCause { status := stTimeout, sev := 3, src := srcRemote, unit := part, tag := s.prog.tag, detail := [part] }
    let s := s.addStatus stTimeout
    if s.seqr.tag.isSome ∧ 7 ≤ s.seqr.phase then ok { s with ag := { s.ag with abortEnd := true } }
    else if s.survivor part = some s.partNo then ok (s.announceStop stTimeout false)
    else ok s

/-! ### Thermal pause (14 R394) -/

/-- Counts of 10 ms. -/
def coolTime : Nat := 10000000

/-- A sample of the 48 sensors: a pause at 100 °C, its end after 10 ms at or below 97 °C. -/
def execThermalSample (temps : List Int) (s : State) : Host.Outcome State Fault Refusal :=
  let ts := temps.take 48
  let sensors := ((List.range ts.length).zip ts).foldl (fun m c => Sparse.set 0 m c.1 c.2) s.pwr.sensors
  let s := { s with pwr := { s.pwr with sensors := sensors } }
  if s.pwr.thermPause then
    if ts.all (· ≤ 97) then
      let from_ := s.pwr.coolSince.getD s.tb.count
      if from_ + coolTime ≤ s.tb.count then
        let s := { s with pwr := { s.pwr with thermPause := false, coolSince := none }, pins := { s.pins with thermAlert := false } }
        ok s.announceResume
      else ok { s with pwr := { s.pwr with coolSince := some from_ } }
    else ok { s with pwr := { s.pwr with coolSince := none } }
  else if ts.any (100 ≤ ·) then
    let s := { s with pwr := { s.pwr with thermPause := true, coolSince := none }, pins := { s.pins with thermAlert := true } }
    let hot := (List.range ts.length).filter fun i => 100 ≤ ts.getD i 0
    let s := s.logCause { status := stOk, sev := 0, src := srcPower, unit := hot.headD 0, tag := s.prog.tag, detail := hot }
    ok s.announcePause
  else ok s

/-! ### The fault log (14 R380) -/

/-- FLT_ACK: subtracts from PENDING, stopping at 0. -/
def execFltAck (v : W64) (s : State) : Host.Outcome State Fault Refusal :=
  let p := s.flt.pend - v.toNat
  ok { s with flt := { s.flt with pend := p, worst := if p = 0 then 0 else s.flt.worst } }

end Sys2Proof.Machine
end

