-- ==== Sys2Proof/Machine/Journal.lean ====
section
/-!
DEFINITION. Lantern's flash as data (15 R397–R404, R411–R415, R422): the journal and its phase, keys and signatures, valid images,
settings areas, and MBX_FWSTATUS.
-/

namespace Sys2Proof.Machine

/-! ### The journal (15 R411, R412) -/

/-- The update phase that the journal gives (15 R412). -/
inductive JPhase where
  | idle | updating | pending | fallingBack
  deriving DecidableEq, Repr, Inhabited

/-- The journal state that a start reads: phase, attempts, whether a SHADOW_COPY_DONE is later than every SHADOW_COPY_OPEN. -/
structure JState where
  phase : JPhase
  attempts : Nat
  closed : Bool
  deriving DecidableEq, Repr, Inhabited

/-- The packed form in a CHECKPOINT (layout: log entry 64): [1:0] phase, [3:2] attempts, [4] shadow closed. -/
def JState.pack (j : JState) : W64 :=
  let p := match j.phase with | .idle => 0 | .updating => 1 | .pending => 2 | .fallingBack => 3
  BitVec.ofNat 64 (p + j.attempts % 4 * 4 + b2n j.closed * 16)

def JState.unpack (v : W64) : JState :=
  { phase := match v.toNat % 4 with | 0 => .idle | 1 => .updating | 2 => .pending | _ => .fallingBack
    attempts := v.toNat / 4 % 4, closed := v.getLsbD 4 }

/-- One record read after the ones before it. -/
def JState.next (j : JState) (r : JRec) : JState :=
  match r.type.toNat with
  | 0x01 => { phase := .idle, attempts := 0, closed := false }
  | 0x02 => { phase := .idle, attempts := 0, closed := true }
  | 0x03 => { j with phase := .updating, attempts := 0 }
  | 0x05 => { j with phase := .pending, attempts := 0 }
  | 0x06 => { j with phase := .pending, attempts := r.arg0.toNat }
  | 0x07 => { j with phase := .idle, attempts := 0 }
  | 0x08 => { j with phase := .fallingBack, attempts := 0 }
  | 0x09 => { j with phase := .idle, attempts := 0 }
  | 0x0B => JState.unpack r.arg0
  | _ => j

/-- The state the records give, oldest first. -/
def Lantern.jstate (l : Lantern) : JState := l.journal.foldl JState.next { phase := .idle, attempts := 0, closed := false }

def Lantern.phase (l : Lantern) : JPhase := l.jstate.phase

/-- Boot attempts of a pending image. -/
def Lantern.attempts (l : Lantern) : Nat := l.jstate.attempts

/-- Records of a journal sector: 64 KiB of 32 bytes. -/
def sectorRecords : Nat := 2048

/-- Records of the sector being written: those after the last CHECKPOINT, with it. -/
def currentSector (l : List JRec) : List JRec :=
  let n := (l.reverse.takeWhile fun r => r.type != 0x0B).length
  l.drop (l.length - (n + 1))

/-- Flash sector of a byte offset (15 R397: 64 KiB sectors). -/
def flashSector (off : Nat) : Nat := off / 65536

/-- The journal's sector that is not being written: after an even or odd number of turnovers (log entry 64). -/
def Lantern.otherJournal (l : Lantern) : Nat :=
  let last := (l.journal.filter fun r => r.type == 0x04 && (r.arg0 == 6 || r.arg0 == 7)).getLast?
  match last with
  | none => 7
  | some r => if r.arg0 = 7 then 6 else 7

/-- Appends a record; a sector with no room for it is left for the other one, which is erased and begins with a CHECKPOINT
(15 R412). The last place of a sector is kept for the ERASE_OPEN of the other (log entry 64). -/
def Lantern.append (l : Lantern) (type : BitVec 8) (arg0 arg1 : W64) : Lantern :=
  let cur := currentSector l.journal
  let r : JRec := { type := type, arg0 := arg0, arg1 := arg1 }
  if sectorRecords ≤ cur.length + 1 then
    let e : JRec := { type := 0x04, arg0 := BitVec.ofNat 64 l.otherJournal, arg1 := 0 }
    let c : JRec := { type := 0x0B, arg0 := l.jstate.pack, arg1 := 0 }
    { l with journal := cur ++ [e, c, r] }
  else { l with journal := l.journal ++ [r] }

/-! ### Settings, keys and images -/

/-- A settings area that counts and whose FORMAT an image reads. -/
def SetArea.readBy (a : SetArea) (fmt : Nat) : Bool := a.valid && a.format == fmt

def FwSlot.image? : FwSlot → Option FwImage
  | .whole i => some i
  | .empty => none
  | .torn => none

/-- SETFMT of the running image. -/
def Lantern.fmt (l : Lantern) : Nat :=
  match l.running.image? with | none => 0 | some i => i.setFmt

/-- Area B is in force: valid with the higher SEQ among the areas the running image reads (15 R415). -/
def Lantern.forceB (l : Lantern) : Bool :=
  l.setB.readBy l.fmt && (!l.setA.readBy l.fmt || decide (l.setA.seq < l.setB.seq))

/-- The area in force; none readable: an invalid area without entries. -/
def Lantern.inForce (l : Lantern) : SetArea :=
  if l.forceB then l.setB
  else if l.setA.readBy l.fmt then l.setA else { valid := false, format := 0, seq := 0, entries := [] }

/-- The key manifest in force: the higher valid SEQ (15 R398, R402). -/
def Lantern.manifest (l : Lantern) : Option KeyManifest :=
  let a := l.keyA.filter fun m => m.rootOk
  let b := l.keyB.filter fun m => m.rootOk
  match a, b with
  | none, m => m
  | m, none => m
  | some x, some y => if x.seq < y.seq then some y else some x

/-- A key slot epoch that names an unrevoked key (15 R402). -/
def Lantern.keyGood (l : Lantern) (epoch : Nat) : Bool :=
  match l.manifest with
  | none => false
  | some m =>
    let slot (e : Nat) (rev : Bool) : Bool := e == epoch && !rev
    (slot m.ep0 m.rev0 || slot m.ep1 m.rev1) && decide (m.current ≤ epoch ∧ l.fuseEpoch ≤ epoch)

/-- A signature is valid (15 R402): an unrevoked epoch, and it verifies (open: Config.sigVerifies). -/
def Lantern.sigGood (l : Lantern) (i : FwImage) (epoch : Nat) : Bool := l.keyGood epoch && Config.sigVerifies i.ident epoch

/-- The signatures an image carries are accepted (15 R403): at least one, and every one valid. -/
def Lantern.signed (l : Lantern) (i : FwImage) : Bool :=
  let each (g : Option Nat) : Bool := match g with | none => true | some e => l.sigGood i e
  (i.sig0.isSome || i.sig1.isSome) && each i.sig0 && each i.sig1

/-- A stored image is valid (15 R401): its tag, its PAYLOAD_HASH (open: Config.sha384) and its signatures. -/
def Lantern.imageValid (l : Lantern) (f : FwSlot) : Bool :=
  match f.image? with
  | none => false
  | some i => i.tagOk && Config.sha384 i.payload == i.hash && l.signed i

/-- The shadow slot is valid (15 R412). -/
def Lantern.shadowValid (l : Lantern) : Bool := l.jstate.closed && l.imageValid l.shadow

/-- An update is between RequestUpdate and PENDING (15 R422). -/
def Lantern.updating (l : Lantern) : Bool :=
  match l.upd with | .idle => false | .activate => false | _ => true

/-- MBX_FWSTATUS (15 R422). -/
def State.fwStatus (s : State) : Nat :=
  let l := s.lan
  let svn := match l.running.image? with | none => 0 | some i => i.svn
  l.lastFb.toNat + b2n (l.phase == .pending) * 2 ^ 5 + b2n l.updating * 2 ^ 6 + b2n s.gbl.recovery * 2 ^ 7
    + b2n s.gbl.restricted * 2 ^ 8 + b2n l.shadowValid * 2 ^ 9 + l.attempts % 4 * 2 ^ 10 + l.inForce.format % 2 ^ 16 * 2 ^ 16
    + svn % 256 * 2 ^ 40 + l.fuseEpoch % 256 * 2 ^ 48 + l.fuseSvn % 256 * 2 ^ 56

end Sys2Proof.Machine
end

