-- ==== Sys2Proof/Machine/Regs.lean ====
section
/-!
DEFINITION. The configuration window (16 R425–R444): what each register reads as, the raw register write with its access codes
and limits, and the ownership words (12 R347). The commands that name a register (a ring enable, a flag write and so on) are
its writes; a raw write of such a register runs the same meaning.
-/

namespace Sys2Proof.Machine

/-! ### Fields that registers show -/

/-- GBL_ID (R430). -/
def State.gblId (s : State) : Nat := 0x09 + b2n s.fuse.b0 * 2 ^ 8 + b2n s.fuse.b14 * 2 ^ 12

/-- Rated core clock of the grade in MHz. -/
def State.ratedClk (s : State) : Nat := if s.fuse.b14 then 1400 else 1600

/-- GBL_CAP (R430). -/
def State.gblCap (s : State) : Nat :=
  1024 + 1088 * 2 ^ 11 + 512 * 2 ^ 22 + 32 * 2 ^ 32 + 2 * 2 ^ 38 + s.ratedClk * 2 ^ 40

/-- GBL_STATUS (R431). -/
def State.gblStatus (s : State) : Nat :=
  b2n s.pins.ready + b2n s.gbl.restricted * 2 + b2n s.gbl.retired * 2 ^ 2 + b2n s.gbl.recovery * 2 ^ 3 + s.gbl.prog.toNat * 2 ^ 4
    + b2n s.debugProg * 2 ^ 6 + b2n s.gbl.paused * 2 ^ 7

/-- FAULT_N is driven low: PENDING, an engine without light, COMPUTE_RETIRED (14 R380), or Lantern asserts it
(15 R405, R410; 17 R459, R463, R467). -/
def State.faultN (s : State) : Bool :=
  s.flt.pend != 0 || (s.lnk.light.any fun c => decide (c.2 = .fail)) || s.gbl.retired || s.pins.faultForced

/-- HP_LINK (R432). -/
def HostPort.linkWord (h : HostPort) : Nat :=
  h.rate.toNat + h.width.toNat * 2 ^ 3 + b2n h.cxl * 2 ^ 5 + b2n h.up * 2 ^ 6

/-- Q_STATUS (R434). -/
def WorkRing.statusWord (w : WorkRing) : Nat :=
  b2n w.halted + b2n w.cfgErr * 2 + b2n w.dbErr * 2 ^ 2 + b2n w.noSnoop * 2 ^ 3 + b2n w.wcyc * 2 ^ 4 + b2n w.xfault * 2 ^ 5
    + b2n w.waiting * 2 ^ 6

/-- TB_STATUS (11 R321). -/
def State.tbStatus (s : State) : Nat :=
  s.tb.state.code + b2n s.isRoot * 2 ^ 2 + b2n s.tb.ppsLost * 2 ^ 3 + b2n s.tb.refLost * 2 ^ 4 + wrap 16 s.tb.offset * 2 ^ 8
    + s.tb.depth % 256 * 2 ^ 24 + s.tb.holdLaunches % 2 ^ 32 * 2 ^ 32

def PortState.code : PortState → Nat
  | .dark => 0 | .training => 1 | .up => 2 | .degraded => 3 | .failed => 4 | .miswired => 5

/-- LNK_STATUS (10 R284). -/
def Port.statusWord (p : Port) : Nat :=
  p.state.code + b2n p.spare * 2 ^ 3 + p.rxOk.toNat * 2 ^ 4 + p.txOk.toNat * 2 ^ 21 + p.cause.toNat * 2 ^ 42
    + b2n p.lightWarn * 2 ^ 45

/-- LNK_PEER (10 R284). -/
def Port.peerWord (p : Port) : Nat := p.peerPart.toNat + p.peerPort.toNat * 2 ^ 13 + b2n p.peerV * 2 ^ 18

/-- LNK_CTRL (R437). -/
def Port.ctrlWord (p : Port) : Nat := b2n p.retrain + b2n p.disable * 2

/-- TM_HALFROW (R439). -/
def State.halfRowWord (s : State) (h : Nat) : Nat := (s.halfFailed h).toNat + b2n (s.unmappable h) * 2 ^ 24

def BankState.code : BankState → Nat
  | .on => 0 | .retain => 1 | .off => 2

/-- TM_TILE (R439). -/
def State.tileWord (s : State) (t : Nat) : Nat :=
  let x := s.tile t
  s.physOf t + x.bankSp.state.code * 2 ^ 16 + x.bank0.state.code * 2 ^ 18 + x.bank1.state.code * 2 ^ 20
    + x.testPtr % 2 ^ 11 * 2 ^ 32

/-- A frame is open: the step's frame collects or leaves, or a standby receives one (R440). -/
def State.frameOpen (s : State) : Bool :=
  (s.engineOn && !s.ss.segs.isEmpty) || !s.ss.hostOut.isEmpty || s.ss.rx.isSome

/-- SS_STATUS (R440). -/
def State.ssStatus (s : State) : Nat := b2n s.ss.mirrorValid + b2n s.frameOpen * 2 + b2n s.ss.gap * 4

/-- A recovery lies between its pause count and its catch-up point; FLT_STATUS (14 R380). -/
def State.fltStatus (s : State) : Nat :=
  b2n s.faultN * 2 ^ 3 + s.flt.worst.toNat * 2 ^ 4 + b2n s.recov.active * 2 ^ 7 + s.flt.pend % 2 ^ 32 * 2 ^ 32

/-! ### Reads (R429–R444) -/

def LogRing.reg (r : LogRing) (k : Nat) : Nat :=
  match k with | 0 => r.base.toNat | 1 => r.size | 2 => r.head | _ => r.lost

/-- Registers of the global block at an offset in it. -/
def State.readGbl (s : State) (o : Nat) : Nat :=
  match o with
  | 0x000 => s.gblId
  | 0x008 => s.gblCap
  | 0x010 => s.gblStatus
  | 0x018 => s.gbl.partId.toNat
  | 0x020 => s.gbl.step.toNat
  | 0x028 => s.gbl.rstCause.toNat
  | 0x030 => s.fuse.serial.toNat % 2 ^ 64
  | 0x038 => s.fuse.serial.toNat / 2 ^ 64
  | 0x040 => s.gbl.progId.toNat
  | 0x048 => s.gbl.clk
  | _ => 0

def State.readHp (s : State) (o : Nat) : Nat :=
  match o with
  | 0x000 => s.hpA.linkWord
  | 0x008 => s.hpB.linkWord
  | 0x010 => s.hpA.aper.toNat
  | 0x018 => s.hpB.aper.toNat
  | 0x020 => s.hpA.lost
  | 0x028 => s.hpB.lost
  | _ => if 0x100 ≤ o ∧ o < 0x180 then (Sparse.get 0 s.hpOwn ((o - 0x100) / 8)).toNat else 0

/-- Registers of ring n at an offset in its stride. -/
def State.readRing (s : State) (n o : Nat) : Nat :=
  let w := s.work n
  let c := s.comp n
  match o with
  | 0x00 => w.base.toNat
  | 0x08 => w.db.toNat
  | 0x10 => w.cfg.toNat
  | 0x18 => w.head
  | 0x20 => w.statusWord
  | 0x30 => c.base.toNat
  | 0x38 => c.cfg.toNat
  | 0x40 => c.chead
  | 0x48 => c.ctail
  | 0x50 => c.cstall
  | _ => 0

def State.readQ (s : State) (o : Nat) : Nat :=
  if o < 0x4000 then s.readRing (o / 0x80) (o % 0x80)
  else if o < 0x4800 then (s.flag ((o - 0x4000) / 8)).toNat
  else if o = 0x5000 then s.q.tagStall
  else if o = 0x5008 then s.tagsUsed + s.reservedUsed * 2 ^ 16
  else 0

def State.readTb (s : State) (o : Nat) : Nat :=
  match o with
  | 0x000 => s.tb.count
  | 0x008 => s.tb.ctrl.toNat
  | 0x010 => s.tbStatus
  | 0x018 => s.tb.lead
  | 0x020 => s.tb.tmo
  | 0x028 => s.coll.pos
  | 0x030 => s.coll.round.toNat
  | 0x038 => s.tb.discard
  | _ => if 0x100 ≤ o ∧ o < 0x200 then (Sparse.get 0 s.tb.asym ((o - 0x100) / 8)).toNat else 0

def State.readLnk (s : State) (o : Nat) : Nat :=
  if 0x2000 ≤ o then 0
  else
    let p := s.port (o / 0x100)
    match o % 0x100 with
    | 0x00 => p.statusWord
    | 0x08 => p.peerWord
    | 0x10 => p.ctrlWord
    | 0x18 => p.fecCorr
    | 0x20 => p.uncorr
    | 0x28 => p.crcErr
    | 0x30 => p.retries
    | 0x38 => p.episodes
    | 0x40 => p.remaps
    | _ => 0

def State.readHbmReg (s : State) (o : Nat) : Nat :=
  let i := o % 0x40 / 8
  match o / 0x40 with
  | 0 => Sparse.get 0 s.hbm.odecc i
  | 1 => Sparse.get 0 s.hbm.cecc i
  | 2 => (Sparse.get 0 s.hbm.dead i).toNat
  | 3 => Sparse.get 0 s.hbm.sppr i
  | _ => 0

def State.readTm (s : State) (o : Nat) : Nat :=
  if o < 0x200 then s.halfRowWord (o / 8)
  else if 0x1000 ≤ o ∧ o < 0x3000 then s.tileWord ((o - 0x1000) / 8)
  else if o = 0x3000 then s.retiredCount else 0

def State.readDgSs (s : State) (o : Nat) : Nat :=
  if o < 0x010 then s.dg.seed.toNat >>> (8 * o) % 2 ^ 64
  else if o < 0x030 then s.dg.log.reg ((o - 0x010) / 8)
  else if o < 0x050 then s.dg.late.reg ((o - 0x030) / 8)
  else if o < 0x070 then s.dg.prov.reg ((o - 0x050) / 8)
  else
    match o with
    | 0x1000 => s.ss.ctrl.toNat
    | 0x1008 => s.ssStatus
    | 0x1010 => s.ss.mirrorStep.toNat
    | 0x1018 => s.ss.rtBase.toNat
    | 0x1020 => s.ss.rtCount
    | 0x1028 => s.ss.hbase.toNat
    | 0x1030 => s.ss.hsize.toNat
    | 0x1038 => s.ss.head
    | 0x1040 => s.ss.tail
    | 0x1048 => s.ss.stall
    | 0x1050 => s.ss.drop
    | _ => 0

def State.readFlt (s : State) (o : Nat) : Nat :=
  match o with
  | 0x000 => s.flt.base.toNat
  | 0x008 => s.flt.size
  | 0x010 => s.flt.head
  | 0x018 => s.flt.lost
  | 0x020 => s.fltStatus
  | _ => 0

def State.readMbx (s : State) (o : Nat) : Nat :=
  match o with
  | 0x000 => s.fwStatus
  | 0x008 => s.mbx.cmd.toNat
  | 0x010 => s.mbx.data.toNat
  | 0x018 => s.mbx.len.toNat
  | 0x020 => s.mbx.result.toNat
  | _ => 0

/-- Before READY only the GBL_, FLT_ and MBX_ blocks respond (17 R461). -/
def State.windowOpen (s : State) (off : Nat) : Bool := s.ready || decide (off < 0x10000 ∨ (0x90000 ≤ off ∧ off < 0xB0000))

/-- What the register at an offset (a multiple of 8) reads as. -/
def State.regRead (s : State) (off : Nat) : W64 :=
  BitVec.ofNat 64 (
    if s.windowOpen off = false then 0
    else if off < 0x10000 then s.readGbl off
    else if off < 0x20000 then s.readHp (off - 0x10000)
    else if off < 0x40000 then s.readQ (off - 0x20000)
    else if off < 0x50000 then s.readTb (off - 0x40000)
    else if off < 0x60000 then s.readLnk (off - 0x50000)
    else if off < 0x70000 then s.readHbmReg (off - 0x60000)
    else if off < 0x80000 then s.readTm (off - 0x70000)
    else if off < 0x82000 then s.readDgSs (off - 0x80000)
    else if off < 0x90000 then 0
    else if off < 0xA0000 then s.readFlt (off - 0x90000)
    else if off < 0xB0000 then s.readMbx (off - 0xA0000)
    else if off = 0x100000 then b2n s.gbl.viewA
    else if off = 0x100008 then b2n s.gbl.viewB
    else 0)

/-- An access the window accepts: 4 or 8 bytes, naturally aligned (R425). -/
def accessOk (off size : Nat) : Bool := (size == 4 || size == 8) && off % size == 0

/-- A read of the window; any other size or alignment returns 0. -/
def State.windowRead (s : State) (off size : Nat) : W64 :=
  if accessOk off size then
    let v := s.regRead (off / 8 * 8)
    if size = 8 then v else (v >>> (8 * (off % 8))) &&& 0xFFFFFFFF
  else 0

/-! ### Writes (R425–R428, R433–R444) -/

/-- The value of a write placed in its register: a 4-byte write changes only the addressed half of `old`. -/
def mergeHalf (old : W64) (off size : Nat) (v : W64) : W64 :=
  if size = 8 then v
  else if off % 8 = 0 then (old &&& 0xFFFFFFFF00000000#64) ||| (v &&& 0xFFFFFFFF#64)
  else (old &&& 0xFFFFFFFF#64) ||| (v <<< 32)

/-- A register that accepts writes only while no program is running or pre-empted (R428). -/
def State.guarded (s : State) (off : Nat) (f : State → State) : Host.Outcome State Fault Refusal :=
  if s.noProgram then ok (f s) else ok (s.logIgnored off)

/-- A power of two from 2^lo to 2^hi. -/
def pow2In (lo hi v : Nat) : Bool := (List.range (hi + 1 - lo)).any fun k => v == 2 ^ (lo + k)

/-- A ring register of ring n changes only while ENABLE is 0; otherwise the write is ignored and CFGERR set (R327, R428). The
registers of completion ring n follow the ENABLE of Q_WCFG[n] (log entry 63). -/
def State.ringWrite (s : State) (n : Nat) (same : Bool) (f : State → State) : Host.Outcome State Fault Refusal :=
  let w := s.work n
  if w.enabled then ok (if same then s else s.setWork n { w with cfgErr := true }) else ok (f s)

/-- HP_OWN[i]: non-zero takes effect only when the word is 0, zero always (12 R347; log entry 112). -/
def State.ownWordWrite (s : State) (i : Nat) (v new : W64) : State :=
  if v = 0 ∨ Sparse.get 0 s.hpOwn i = 0 then { s with hpOwn := Sparse.set 0 s.hpOwn i new } else s

def execHpOwnWrite (i : Nat) (v : W64) (s : State) : Host.Outcome State Fault Refusal :=
  if s.ready = true ∧ i < 16 then ok (s.ownWordWrite i v v) else ok s

def State.writeGbl (s : State) (o : Nat) (new one : W64) : Host.Outcome State Fault Refusal :=
  match o with
  | 0x018 => s.guarded o fun s => { s with gbl := { s.gbl with partId := new &&& 0x11FFF } }
  | 0x020 => s.guarded o fun s => { s with gbl := { s.gbl with step := new } }
  | 0x028 => ok { s with gbl := { s.gbl with rstCause := s.gbl.rstCause &&& ~~~(one.setWidth 5) } }
  | _ => ok s

def State.writeHp (s : State) (o : Nat) (v new : W64) : Host.Outcome State Fault Refusal :=
  match o with
  | 0x010 => ok { s with hpA := { s.hpA with aper := new.setWidth 9 } }
  | 0x018 => ok { s with hpB := { s.hpB with aper := new.setWidth 9 } }
  | _ => if 0x100 ≤ o ∧ o < 0x180 then ok (s.ownWordWrite ((o - 0x100) / 8) v new) else ok s

/-- Q_FAULT_RESP[n]: 1 RETRY, 2 ABORT; any other value is ignored and logged (R433). -/
def State.faultResp (s : State) (n : Nat) (v : W64) : Host.Outcome State Fault Refusal :=
  if v = 1 then execFaultRespRetry n s
  else if v = 2 then execFaultRespAbort n s
  else ok (s.logIgnored (0x20028 + 0x80 * n))

/-- The defined bits of Q_CCFG. -/
def ccfgMask : W64 := 0x000000000F007F01#64

def State.writeRing (s : State) (n o : Nat) (new one : W64) : Host.Outcome State Fault Refusal :=
  let w := s.work n
  let c := s.comp n
  match o with
  | 0x00 => let a := new &&& ~~~0x7F; s.ringWrite n (w.base == a) fun s => s.setWork n { w with base := a }
  | 0x08 => let a := new &&& ~~~0x7; s.ringWrite n (w.db == a) fun s => s.setWork n { w with db := a }
  | 0x10 => if new.getLsbD 0 then execRingEnable n new s else execRingDisable n new s
  | 0x28 => s.faultResp n one
  | 0x30 => let a := new &&& ~~~0x7F; s.ringWrite n (c.base == a) fun s => s.setComp n { c with base := a }
  | 0x38 => let a := new &&& ccfgMask; s.ringWrite n (c.cfg == a) fun s => s.setComp n { c with cfg := a }
  | 0x48 => execQCtailWrite n new s
  | _ => ok s

def State.writeQ (s : State) (o : Nat) (new one : W64) : Host.Outcome State Fault Refusal :=
  if o < 0x4000 then s.writeRing (o / 0x80) (o % 0x80) new one
  else if o < 0x4800 then execQFlagWrite ((o - 0x4000) / 8) new s
  else if o < 0x5000 then execQFlagAdd ((o - 0x4800) / 8) one s
  else ok s

def State.writeTb (s : State) (o : Nat) (new : W64) : Host.Outcome State Fault Refusal :=
  match o with
  | 0x008 => execTbCtrlWrite new s
  | 0x018 => execTbLeadWrite new s
  | 0x020 => execTbCollTmoWrite new s
  | _ =>
    if 0x100 ≤ o ∧ o < 0x200 then
      ok { s with tb := { s.tb with asym := Sparse.set 0 s.tb.asym ((o - 0x100) / 8) (new.setWidth 16) } }
    else ok s

/-- LNK_CTRL[n] (R437): DISABLE 1 fails the port; DISABLE 0 restores nothing; RETRAIN 1 starts the training. -/
def State.writeLnkCtrl (s : State) (n : Nat) (v : W64) : Host.Outcome State Fault Refusal :=
  if v.getLsbD 1 then execLnkDisable n s
  else
    let s := s.setPort n { s.port n with disable := false }
    if v.getLsbD 0 then execLnkRetrain n s else ok s

def State.writeLnk (s : State) (o : Nat) (new : W64) : Host.Outcome State Fault Refusal :=
  if o < 0x2000 ∧ o % 0x100 = 0x10 then s.writeLnkCtrl (o / 0x100) new else ok s

/-- Base and size of a DG_ ring (R428, R440); `put` stores the ring. -/
def State.writeLog (s : State) (off k : Nat) (r : LogRing) (new : W64) (put : State → LogRing → State) :
    Host.Outcome State Fault Refusal :=
  match k with
  | 0 => s.guarded off fun s => put s { r with base := new &&& ~~~0x7F }
  | 1 =>
    if s.noProgram && pow2In 10 20 new.toNat then ok (put s { r with size := new.toNat }) else ok (s.logIgnored off)
  | _ => ok s

def State.writeDg (s : State) (o : Nat) (new : W64) : Host.Outcome State Fault Refusal :=
  let off := 0x80000 + o
  if o = 0x000 then
    s.guarded off fun s => { s with dg := { s.dg with seed := (s.dg.seed &&& 0xFFFFFFFFFFFFFFFF0000000000000000#128) ||| new.setWidth 128 } }
  else if o = 0x008 then
    s.guarded off fun s => { s with dg := { s.dg with seed := (s.dg.seed &&& 0xFFFFFFFFFFFFFFFF#128) ||| (new.setWidth 128 <<< 64) } }
  else if o < 0x030 then s.writeLog off ((o - 0x010) / 8) s.dg.log new fun s r => { s with dg := { s.dg with log := r } }
  else if o < 0x050 then s.writeLog off ((o - 0x030) / 8) s.dg.late new fun s r => { s with dg := { s.dg with late := r } }
  else if o < 0x070 then s.writeLog off ((o - 0x050) / 8) s.dg.prov new fun s r => { s with dg := { s.dg with prov := r } }
  else ok s

/-- The shadow-stream registers (R440, R441; log entry 112). -/
def State.writeSs (s : State) (o : Nat) (new : W64) : Host.Outcome State Fault Refusal :=
  let off := 0x80000 + o
  match o with
  | 0x1000 => execSsCtrlWrite new s
  | 0x1008 => ok { s with ss := { s.ss with mirrorValid := new.getLsbD 0, rx := if new.getLsbD 0 then s.ss.rx else none } }
  | 0x1010 => ok { s with ss := { s.ss with mirrorStep := new } }
  | 0x1018 => s.guarded off fun s => { s with ss := { s.ss with rtBase := new } }
  | 0x1020 =>
    s.guarded off fun s => if field new.toNat 12 0 ≤ 4096 then { s with ss := { s.ss with rtCount := field new.toNat 12 0 } } else s
  | 0x1028 => ok { s with ss := { s.ss with hbase := new &&& ~~~0xFFF } }
  | 0x1030 => if pow2In 20 40 new.toNat then ok { s with ss := { s.ss with hsize := new } } else ok (s.logIgnored off)
  | 0x1040 => execSsTailWrite new s
  | _ => ok s

/-- MBX_CMD, MBX_DATA and MBX_LEN (R443). A write with BUSY starts the command, which SETTINGS_READ, SETTINGS_WRITE or
REPAIR_LIST_READ completes; an OP that the table does not give completes as invalid. -/
def State.writeMbx (s : State) (o : Nat) (new : W64) : Host.Outcome State Fault Refusal :=
  match o with
  | 0x008 =>
    if s.mbx.cmd.getLsbD 31 then ok s
    else
      let c := new &&& 0x800000FF
      if c.getLsbD 31 && !(1 ≤ c.toNat % 256 && c.toNat % 256 ≤ 3) then
        ok { s with mbx := { s.mbx with cmd := c &&& 0xFF, result := 2 } }
      else ok { s with mbx := { s.mbx with cmd := c } }
  | 0x010 => ok { s with mbx := { s.mbx with data := new &&& ~~~0x7F } }
  | 0x018 => ok { s with mbx := { s.mbx with len := new } }
  | _ => ok s

/-- A write of the register at an offset, its value merged (`new`) or with the other half zero (`one`). -/
def State.regWrite (s : State) (off : Nat) (v new one : W64) : Host.Outcome State Fault Refusal :=
  if off < 0x10000 then s.writeGbl off new one
  else if off < 0x20000 then s.writeHp (off - 0x10000) v new
  else if off < 0x40000 then s.writeQ (off - 0x20000) new one
  else if off < 0x50000 then s.writeTb (off - 0x40000) new
  else if off < 0x60000 then s.writeLnk (off - 0x50000) new
  else if off < 0x80000 then ok s
  else if off < 0x81000 then s.writeDg (off - 0x80000) new
  else if off < 0x82000 then s.writeSs (off - 0x80000) new
  else if off < 0x90000 then ok s
  else if off < 0xA0000 then (if off = 0x90028 then execFltAck one s else ok s)
  else if off < 0xB0000 then s.writeMbx (off - 0xA0000) new
  else if off = 0x100000 then ok { s with gbl := { s.gbl with viewA := new.getLsbD 0 } }
  else if off = 0x100008 then ok { s with gbl := { s.gbl with viewB := new.getLsbD 0 } }
  else ok s

/-- A raw write of the configuration window through a host port. A disabled port answers nothing (17 R455). -/
def execRegisterWrite (port : Bool) (off : Nat) (size : Nat) (v : W64) (s : State) : Host.Outcome State Fault Refusal :=
  if s.portEnabled port = false ∨ 2 ^ 26 ≤ off then ok s
  else if accessOk off size = false then ok (s.logIgnored off)
  else
    let r := off / 8 * 8
    if s.windowOpen r then
      s.regWrite r (if size = 8 then v else v &&& 0xFFFFFFFF) (mergeHalf (s.regRead r) off size v) (mergeHalf 0 off size v)
    else ok s

end Sys2Proof.Machine
end

