-- ==== Sys2Proof/Machine/Settings.lean ====
section
/-!
DEFINITION. Settings (15 R415; 16 R443; 05 R144): their entries, the areas in flash, and the three mailbox commands.
-/

namespace Sys2Proof.Machine

/-! ### Entries (16 R443) -/

/-- A key with its value, as a 16-bit key, a 16-bit length and the value. -/
def entryBytes (e : Nat × List Byte) : List Byte := leBytes 2 e.1 ++ leBytes 2 e.2.length ++ e.2

/-- The entries of a buffer; none when one is cut short. The first argument bounds their number. -/
def parseEntries : Nat → List Byte → Option (List (Nat × List Byte))
  | _, [] => some []
  | 0, _ :: _ => none
  | n + 1, b :: bs =>
    let l := b :: bs
    let len := leNat ((l.drop 2).take 2)
    if l.length < 4 + len then none
    else (parseEntries n (l.drop (4 + len))).map fun es => (leNat (l.take 2), (l.drop 4).take len) :: es

/-- The repair list's value (open: Config.repairList). -/
def State.repairBytes (s : State) : List Byte := Config.repairList s.tm.failed s.tm.repairs

/-- An entry may be written: a known key that is not the repair list, the key's length, a value in its range (lengths: log
entry 59). -/
def entryOk (e : Nat × List Byte) : Bool :=
  let v := leNat e.2
  match e.1 with
  | 0x0001 => e.2.length == 8
  | 0x0002 => e.2.length == 64
  | 0x0003 => e.2.length == 8 && pow2In 10 16 v
  | 0x0004 => e.2.length == 8 && decide (field v 12 4 ≤ 256)
  | 0x0005 => true
  | 0x0007 => e.2.length == 8 && decide (v ≤ 1)
  | _ => false

/-- Entries with new ones in place of those of the same key. -/
def mergeEntries (old new : List (Nat × List Byte)) : List (Nat × List Byte) :=
  new.foldl (fun (l : List (Nat × List Byte)) (e : Nat × List Byte) => (l.filter fun x => x.1 != e.1) ++ [e]) old

/-- The value of a key in force. -/
def Lantern.setting (l : Lantern) (key : Nat) : Option (List Byte) := (l.inForce.entries.find? fun e => e.1 == key).map (·.2)

/-- The number a key holds, or its default. -/
def Lantern.settingNat (l : Lantern) (key dflt : Nat) : Nat := ((l.setting key).map leNat).getD dflt

/-! ### Areas (15 R415) -/

/-- Writes entries to the area not in force, with SEQ + 1, and journals SETTINGS_WRITTEN. -/
def Lantern.writeArea (l : Lantern) (es : List (Nat × List Byte)) : Lantern :=
  let a := l.inForce
  let new : SetArea := { valid := true, format := l.fmt, seq := a.seq + 1, entries := mergeEntries a.entries es }
  let toB := !l.forceB
  let l1 := if toB then { l with setB := new } else { l with setA := new }
  l1.append 0x0A (if toB then 1 else 0) (BitVec.ofNat 64 new.seq)

/-- A flash operation works on a settings sector. -/
def Lantern.settingsBusy (l : Lantern) : Bool :=
  match l.flashOp with | none => false | some n => decide (8 ≤ n ∧ n < 16)

/-- Entries are written in phase IDLE, and held in SRAM otherwise. -/
def Lantern.putSettings (l : Lantern) (es : List (Nat × List Byte)) : Lantern × Bool :=
  if l.phase = .idle ∧ l.settingsBusy = false then (l.writeArea es, false)
  else ({ l with held := mergeEntries l.held es }, true)

/-- Settings held in SRAM are written. -/
def Lantern.flushHeld (l : Lantern) : Lantern :=
  if l.held.isEmpty then l else { l.writeArea l.held with held := [] }

/-! ### Registers that settings set -/

/-- TB_ASYM[0..31] from the value of key 0x0002. -/
def State.setAsym (s : State) (v : List Byte) : State :=
  let m := (List.range 32).foldl
    (fun (m : Sparse (BitVec 16)) (n : Nat) => Sparse.set 0 m n (BitVec.ofNat 16 (leNat ((v.drop (2 * n)).take 2)))) s.tb.asym
  { s with tb := { s.tb with asym := m } }

/-- GBL_PARTID from a value. -/
def State.setPartId (s : State) (v : Nat) : State := { s with gbl := { s.gbl with partId := BitVec.ofNat 64 v &&& 0x11FFF } }

/-- The registers of keys 0x0001, 0x0002 and 0x0004 follow a write at once, within R428. -/
def State.followSetting (s : State) (e : Nat × List Byte) : State :=
  match e.1 with
  | 0x0001 => if s.noProgram then s.setTbCtrl (BitVec.ofNat 64 (leNat e.2)) false else s.logIgnored 0x40008
  | 0x0002 => s.setAsym e.2
  | 0x0004 => if s.noProgram then s.setPartId (leNat e.2) else s.logIgnored 0x00018
  | _ => s

/-! ### The mailbox (16 R443) -/

/-- The largest command buffer: 256 KiB. -/
def mbxLimit : Nat := 262144

/-- Lantern's main image runs and HBM is there to hold the buffer. -/
def State.mailboxUp (s : State) : Bool := match s.pwr.phase with | .scrubbed => true | .up => true | _ => false

/-- MBX_CMD holds this OP and is BUSY, or is not BUSY: the command runs. -/
def State.mbxFree (s : State) (op : Nat) : Bool :=
  s.mailboxUp && (!s.mbx.cmd.getLsbD 31 || s.mbx.cmd.toNat % 256 == op)

/-- The command completes: BUSY clears, MBX_RESULT is set. -/
def State.mbxEnd (s : State) (op code bytes : Nat) : State :=
  { s with mbx := { s.mbx with cmd := BitVec.ofNat 64 op, result := BitVec.ofNat 64 (code + bytes * 2 ^ 32) } }

/-- The buffer of the command lies in HBM and is no longer than 256 KiB. -/
def State.bufferOk (s : State) : Bool := decide (s.mbx.len.toNat ≤ mbxLimit ∧ s.mbx.data.toNat + s.mbx.len.toNat ≤ hbmTop)

/-- Delivers bytes to the buffer, or reports that it is too small. -/
def State.mbxDeliver (s : State) (op : Nat) (bs : List Byte) : State :=
  if s.bufferOk = false then s.mbxEnd op 2 0
  else if s.mbx.len.toNat < bs.length then s.mbxEnd op 3 0
  else (s.hbmWrite s.mbx.data.toNat bs).mbxEnd op 0 bs.length

/-- A read of the flash suspends an erase, which goes on within 1 ms (15 R413): nothing of it stays. -/
def execSettingsRead (s : State) : Host.Outcome State Fault Refusal :=
  if s.mbxFree 1 then
    ok (s.mbxDeliver 1 ((s.lan.inForce.entries ++ [(0x0006, s.repairBytes)]).flatMap entryBytes))
  else ok s

/-- Entries are checked whole, written or held, and three keys update their registers at once. -/
def execSettingsWrite (s : State) : Host.Outcome State Fault Refusal :=
  if s.mbxFree 2 then
    if s.bufferOk = false then ok (s.mbxEnd 2 2 0)
    else
      let bs := s.hbmRead s.mbx.data.toNat s.mbx.len.toNat
      match parseEntries bs.length bs with
      | none => ok (s.mbxEnd 2 2 0)
      | some es =>
        if es.all entryOk then
          let r := s.lan.putSettings es
          let s1 : State := es.foldl State.followSetting { s with lan := r.1 }
          ok (s1.mbxEnd 2 (if r.2 then 1 else 0) 0)
        else ok (s.mbxEnd 2 2 0)
  else ok s

def execRepairListRead (s : State) : Host.Outcome State Fault Refusal :=
  if s.mbxFree 3 then ok (s.mbxDeliver 3 (entryBytes (0x0006, s.repairBytes))) else ok s

end Sys2Proof.Machine
end

