-- ==== Sys2Proof/Machine/Boot.lean ====
section
/-!
DEFINITION. Resets, boot and the flash jobs behind an update (15 R397, R398, R404–R418, R423, R424; 16 R451; 17 R455, R458–R461).
-/

namespace Sys2Proof.Machine

/-! ### Flash layout (15 R398) -/

/-- Sectors of an image slot for a density in Mbit. -/
def slotSectors (density : Nat) : Nat :=
  if density = 512 then 504 else if density = 1024 then 1016 else if density = 2048 then 1024 else 0

def Lantern.slotSize (l : Lantern) : Nat := slotSectors l.density

/-- First sector of the running slot, and of the shadow slot. -/
def runningFirst : Nat := 16
def Lantern.shadowFirst (l : Lantern) : Nat := runningFirst + l.slotSize

def Lantern.inRunning (l : Lantern) (n : Nat) : Bool := decide (runningFirst ≤ n ∧ n < l.shadowFirst)
def Lantern.inShadow (l : Lantern) (n : Nat) : Bool := decide (l.shadowFirst ≤ n ∧ n < l.shadowFirst + l.slotSize)

/-- An image fits the part: PAYLOAD_LEN a multiple of 16, at most 52 MiB, and with its 4 KiB manifest no more than a slot. -/
def Lantern.fits (l : Lantern) (i : FwImage) : Bool :=
  i.payloadLen % 16 == 0 && decide (i.payloadLen ≤ 54525952 ∧ 4096 + i.payloadLen ≤ 65536 * l.slotSize)

/-- What an erased sector leaves. -/
def Lantern.erased (l : Lantern) (n : Nat) : Lantern :=
  if 8 ≤ n ∧ n < 12 then { l with setA := { l.setA with valid := false } }
  else if 12 ≤ n ∧ n < 16 then { l with setB := { l.setB with valid := false } }
  else if l.inRunning n then { l with running := .torn }
  else if l.inShadow n then { l with shadow := .torn }
  else l

/-- Low 64 bits of a slot's PAYLOAD_HASH. -/
def FwSlot.hash64 (f : FwSlot) : W64 := match f.image? with | none => 0 | some i => BitVec.ofNat 64 i.hash

/-! ### Flash jobs (15 R413, R414, R416, R417) -/

/-- The erase of a sector begins, under ERASE_OPEN. -/
def Lantern.startErase (l : Lantern) (n : Nat) : Lantern :=
  { l.append 0x04 (BitVec.ofNat 64 n) 0 with flashOp := some n, flashErase := true, flashSusp := false }

/-- The running image goes to the shadow slot: SHADOW_COPY_OPEN, then its first sector. -/
def Lantern.startShadow (l : Lantern) : Lantern :=
  let l1 : Lantern := { l.append 0x01 l.running.hash64 0 with shadow := .torn }
  l1.startErase l1.shadowFirst

/-- Steps 2 and 3 of an update begin: UPDATE_STARTED, then the running slot's first sector. -/
def Lantern.startRunning (l : Lantern) (hash : W64) : Lantern :=
  let l1 : Lantern := { l.append 0x03 hash 0 with updStarted := true, running := .torn }
  l1.startErase runningFirst

/-- CURRENT of the manifest in force after a confirmed image with two signatures: the higher of the two epochs, written to the
other copy (15 R403, R417). -/
def Lantern.raiseCurrent (l : Lantern) : Lantern :=
  match l.running.image?, l.manifest with
  | some i, some m =>
    match i.sig0, i.sig1 with
    | some a, some b =>
      let m' : KeyManifest := { m with seq := m.seq + 1, current := Nat.max a b }
      if Nat.max a b ≤ m.current then l
      else if l.keyB = some m then { l with keyA := some m' } else { l with keyB := some m' }
    | _, _ => l
  | _, _ => l

/-- SVN_MIN and the key-epoch counter are raised, never lowered, at most to 255 (15 R404). -/
def Lantern.raiseFuses (l : Lantern) : Lantern :=
  let svn := match l.running.image? with | none => 0 | some i => i.svn
  let cur := match l.manifest with | none => 0 | some m => m.current
  { l with fuseSvn := Nat.max l.fuseSvn svn, fuseEpoch := Nat.max l.fuseEpoch (Nat.min 255 cur) }

/-- A settings area of another format than the running image's: its first sector. -/
def Lantern.oldArea (l : Lantern) : Option Nat :=
  if l.setA.valid && l.setA.format != l.fmt then some 8
  else if l.setB.valid && l.setB.format != l.fmt then some 12
  else none

/-- After CONFIRMED, in order: the old settings area is erased; CURRENT is raised and the shadow refreshed. -/
def Lantern.afterConfirm (l : Lantern) : Lantern :=
  match l.oldArea with
  | some n => l.startErase n
  | none => l.flushHeld.raiseCurrent.startShadow

/-- The latest counting record that is not a SHADOW_COPY_OPEN is CONFIRMED: the tasks after a confirmation are not done. -/
def Lantern.confirmOpen (l : Lantern) : Bool :=
  let rs := (l.journal.filter fun r => r.type == 0x02 || r.type == 0x03 || (5 ≤ r.type.toNat && r.type.toNat ≤ 9))
  match rs.getLast? with | none => false | some r => r.type == 0x07

/-- The job of a slot is complete; the counters are raised after the refresh that follows a confirmation, and only then. -/
def Lantern.slotDone (l : Lantern) (n : Nat) : Lantern :=
  if l.inShadow n then
    let l1 : Lantern := { l with shadow := l.running, flashOp := none }
    let l2 := l1.append 0x02 l1.running.hash64 0
    if l2.upd = .apply then
      match l2.staging with | none => l2 | some i => l2.startRunning (BitVec.ofNat 64 i.hash)
    else if l.confirmOpen then l2.raiseFuses else l2
  else
    { l with flashOp := none, running := match l.staging with | none => .torn | some i => .whole i }

/-- The last sector of a slot. -/
def Lantern.slotLast (l : Lantern) (n : Nat) : Bool :=
  n + 1 == l.shadowFirst || n + 1 == l.shadowFirst + l.slotSize

/-- A program or erase ends, and the window reopens until the next one: an erased slot sector is programmed, then the next
sector is erased; the four sectors of an old settings area are erased in turn. -/
def execFlashOperationEnd (s : State) : Host.Outcome State Fault Refusal :=
  let l := s.lan
  match l.flashOp with
  | none => ok s
  | some n =>
    if l.flashErase then
      let l1 : Lantern := { l.erased n with flashSusp := false }
      if 8 ≤ n ∧ n < 16 then
        let l2 : Lantern := { l1 with flashOp := none, flashErase := false }
        ok { s with lan := if n % 4 = 3 then l2.afterConfirm else l2.startErase (n + 1) }
      else ok { s with lan := { l1 with flashErase := false } }
    else ok { s with lan := if l.slotLast n then l.slotDone n else l.startErase (n + 1) }

/-- An erase is suspended to serve a read of the settings or the key manifest; its end comes later. The window stays closed. -/
def execEraseSuspend (s : State) : Host.Outcome State Fault Refusal :=
  if s.lan.flashOp.isSome && s.lan.flashErase then ok { s with lan := { s.lan with flashSusp := true } } else ok s

/-! ### Fault records of a part without HBM (17 R459, R467; 15 R398) -/

/-- A record that is written at the next start: SEV, SRC and detail. -/
def State.defer (s : State) (sev src detail : Nat) : State :=
  { s with pwr := { s.pwr with deferred := s.pwr.deferred ++ [(sev * 256 + src, detail)] } }

/-- Deferred records are written. -/
def State.flushDeferred (s : State) : State :=
  let s1 : State := s.pwr.deferred.foldl
    (fun (s : State) (d : Nat × Nat) =>
      s.logCause { status := stOk, sev := d.1 / 256, src := d.1 % 256, unit := 0, tag := none, detail := [d.2] }) s
  { s1 with pwr := { s1.pwr with deferred := [] } }

/-- A record of Lantern: at once when HBM holds the log, else deferred. -/
def State.lanternRecord (s : State) (sev detail : Nat) : State :=
  if s.mailboxUp then s.logCause { status := stOk, sev := sev, src := srcLantern, unit := 0, tag := none, detail := [detail] }
  else s.defer sev srcLantern detail

/-- A fetch or read through the execute-in-place window while it is closed: the task ends with a record, the flash operation
goes on (15 R414). -/
def execXipBusFault (task : Nat) (s : State) : Host.Outcome State Fault Refusal :=
  if s.lan.flashOp.isSome then ok (s.lanternRecord 0 task) else ok s

/-! ### What a reset leaves (15 R424; 16 R451; 12 R354; 17 R476) -/

/-- Lantern after a reset: flash, fuses and the last fallback stay, SRAM does not. -/
def Lantern.restart (l : Lantern) : Lantern :=
  { l with held := [], staging := none, stagingKeys := none, received := 0, component := 0, compSize := 0, maxTransfer := 0,
           upd := .idle, updBus := false, updStarted := false, flashOp := none, flashErase := false, flashSusp := false,
           confirmArmed := false, rstConfirm := false, eidI3c := 0, eidSmb := 0, tid := 0, evRcv := none }

/-- A half-row has two failed positions: the repair list keeps the part's compute retired (13 R375). -/
def State.anyUnmappable (s : State) : Bool := s.tm.failed.any fun c => decide (2 ≤ failedCount c.2)

/-- A host port after SYS_RST_N; the host's own memory is not the part's. -/
def HostPort.cold (h : HostPort) : HostPort := { HostPort.reset with mem := h.mem, denied := h.denied }

/-- Every register at its Reset column and every memory lost; the pins that others drive, the AUX-domain contents, the flash,
the fuses and the repair list stay. -/
def State.cold (s : State) : State :=
  { State.reset with
    pending := s.pending
    out := s.out
    free := s.free
    fuse := s.fuse
    pins := { Pins.reset with aux := s.pins.aux, sysRst := s.pins.sysRst, thermTrip := s.pins.thermTrip, perstA := s.pins.perstA,
                              perstB := s.pins.perstB, strap := s.pins.strap }
    pwr := { Power.reset with strapHeld := s.pwr.strapHeld, deferred := s.pwr.deferred, sensors := s.pwr.sensors }
    gbl := { Gbl.reset with rstCause := s.gbl.rstCause, retired := s.anyUnmappable }
    hpA := s.hpA.cold
    hpB := s.hpB.cold
    lnk := { Links.reset with light := s.lnk.light }
    tm := s.tm
    lan := s.lan.restart }

/-! ### The loader (15 R405, R406, R410, R412, R413) -/

/-- The sector of an ERASE_OPEN that is the latest record is erased again before any use. -/
def Lantern.reErase (l : Lantern) : Lantern :=
  match l.journal.getLast? with
  | none => l
  | some r => if r.type = 0x04 then l.erased r.arg0.toNat else l

/-- The shadow image is copied over the running one, sector by sector. -/
def Lantern.fallBack (l : Lantern) (cause : BitVec 3) : Lantern :=
  let c : W64 := cause.setWidth 64
  let l1 := (List.range l.slotSize).foldl
    (fun (l : Lantern) (n : Nat) => l.append 0x04 (BitVec.ofNat 64 (runningFirst + n)) 0) (l.append 0x08 c 0)
  { l1.append 0x09 c 0 with running := l.shadow, lastFb := cause }

/-- loader_start: the flash it leaves, and whether it enters recovery boot. After a fallback the phase is IDLE (log
entry 61). -/
def Lantern.loader (l : Lantern) (force confirm : Bool) : Lantern × Bool :=
  let l := l.reErase
  let l :=
    if l.phase = .updating ∨ l.phase = .fallingBack then l.fallBack 3
    else if l.phase = .pending ∧ 3 ≤ l.attempts then l.fallBack 1
    else if l.phase = .pending ∧ confirm = true then l.fallBack 2
    else l
  if force then (l, true)
  else if l.imageValid l.running = false ∧ l.shadowValid = false then (l, true)
  else
    let l := if l.imageValid l.running then l else l.fallBack 4
    (if l.phase = .pending then l.append 0x06 (BitVec.ofNat 64 (l.attempts + 1)) 0 else l, false)

/-- Recovery boot: MAIN_EN low, FAULT_N low, RECOVERY set. -/
def State.recoveryBoot (s : State) : State :=
  { s with gbl := { s.gbl with recovery := true }, pins := { s.pins with faultForced := true, mainEn := false },
           pwr := { s.pwr with phase := .recovery } }

/-- The loader has read the journal: it asserts MAIN_EN, which starts the confirmation timer of a pending image, or enters
recovery boot. A device density it does not know leads there too, with a record. THERMTRIP_N holds MAIN_EN low. -/
def State.runLoader (s : State) (confirm : Bool) : State :=
  if slotSectors s.lan.density = 0 then (s.defer 0 srcLantern s.lan.density).recoveryBoot
  else
    let r := s.lan.loader (s.pwr.strapHeld.getLsbD 3) confirm
    let s := { s with lan := r.1 }
    if r.2 then s.recoveryBoot
    else if s.pins.thermTrip then { s with pwr := { s.pwr with phase := .down } }
    else
      { s with pins := { s.pins with mainEn := true }, pwr := { s.pwr with phase := .mainRequested },
               lan := { s.lan with confirmArmed := decide (s.lan.phase = .pending) } }

/-- A start inside the part: a reset with its cause bits, then the mask ROM and the loader with the straps as they stand. -/
def State.internalReset (s : State) (cause : BitVec 5) (confirm : Bool) : State :=
  let c := s.cold
  let c := { c with gbl := { c.gbl with rstCause := c.gbl.rstCause ||| cause }, pwr := { c.pwr with strapHeld := s.pins.strap } }
  c.runLoader confirm

/-- The part runs on VDD_AUX33, out of SYS_RST_N. -/
def State.alive (s : State) : Bool := s.pins.aux && s.pins.sysRst

/-! ### Power-on and SYS_RST_N (17 R458, R460, R475; 16 R430, R451) -/

/-- VDD_AUX33 comes up with SYS_RST_N low. -/
def execVddAux33PowerOn (s : State) : Host.Outcome State Fault Refusal :=
  if s.pins.aux then ok s
  else
    let fb : BitVec 3 := match (s.lan.journal.filter fun r => r.type == 0x09).getLast? with
      | none => 0
      | some r => r.arg0.setWidth 3
    let c := s.cold
    ok { c with pins := { c.pins with aux := true, sysRst := false, thermTrip := false }
                pwr := { c.pwr with strapHeld := 0, deferred := [] }
                gbl := { c.gbl with rstCause := 0b00001 }, lan := { c.lan with lastFb := fb } }

/-- VDD_AUX33 falls: MAIN_EN falls and every state but flash and fuses is lost. -/
def execAuxPowerLoss (s : State) : Host.Outcome State Fault Refusal :=
  let c := s.cold
  ok { c with pins := { c.pins with aux := false, sysRst := false, thermTrip := false }
              pwr := { c.pwr with strapHeld := 0, deferred := [] }
              gbl := { c.gbl with rstCause := 0 } }

/-- SYS_RST_N falls: MAIN_EN low, THERMTRIP_N released, the cause noted, every register at its Reset column. -/
def execSysRstAssert (s : State) : Host.Outcome State Fault Refusal :=
  if s.pins.aux then
    let c := s.cold
    ok { c with pins := { c.pins with sysRst := false, thermTrip := false }
                pwr := { c.pwr with strapHeld := 0 }
                gbl := { c.gbl with rstCause := c.gbl.rstCause ||| 0b00010 } }
  else ok s

/-- SYS_RST_N rises: straps sampled, flash reset, loader verified. A loader that fails halts the part. -/
def execSysRstDeassert (strap : BitVec 4) (loaderOk : Bool) (s : State) : Host.Outcome State Fault Refusal :=
  if s.pins.aux = true ∧ s.pins.sysRst = false then
    let s := { s with pins := { s.pins with sysRst := true, strap := strap }, pwr := { s.pwr with strapHeld := strap } }
    if loaderOk then ok (s.runLoader false)
    else ok { s with pins := { s.pins with faultForced := true, mainEn := false }, pwr := { s.pwr with phase := .romHalted } }
  else ok s

/-- A watchdog reset restarts Lantern and with it the part. -/
def execWatchdogReset (s : State) : Host.Outcome State Fault Refusal :=
  if s.alive then ok (s.internalReset 0b00100 false) else ok s

/-! ### Boot phases (15 R407–R409; 13 R364; 10 R276; 17 R461) -/

/-- A host port trains its link: what rate and width it reaches, and whether the host enables CXL.cache, is the board's
(free values, within R432). -/
def State.trainHost (s : State) (b : Bool) : State :=
  if s.portEnabled b then
    let v := s.freeVal.toNat
    (s.setHp b { s.hp b with rate := BitVec.ofNat 3 (v % 6), width := BitVec.ofNat 2 (v / 8 % 3), cxl := v.testBit 8,
                             up := true }).useFree 1
  else s

/-- The level of a port's PERST_N. -/
def State.perstHigh (s : State) (b : Bool) : Bool := if b then s.pins.perstB else s.pins.perstA

/-- A pending image of another settings format writes its own into the other area on its first boot (15 R415). -/
def Lantern.convert (l : Lantern) : Lantern :=
  if l.inForce.valid then l
  else
    let b := l.setB.valid && (!l.setA.valid || decide (l.setA.seq < l.setB.seq))
    let old := if b then l.setB else l.setA
    let new : SetArea := { valid := true, format := l.fmt, seq := old.seq + 1, entries := old.entries }
    let l1 := if b then { l with setA := new } else { l with setB := new }
    l1.append 0x0A (if b then 0 else 1) (BitVec.ofNat 64 new.seq)

/-- The ports train: an engine whose light is below PWARN is not trained. -/
def State.trainPorts (s : State) : State :=
  (List.range 32).foldl
    (fun (s : State) (n : Nat) =>
      match Sparse.get Light.ok s.lnk.light (n / 8) with
      | .warn => s.setPort n { s.port n with state := .failed, cause := 3, lightWarn := true }
      | .fail => s.setPort n { s.port n with state := .failed, cause := 3, lightWarn := true }
      | _ => s.setPort n { s.port n with state := .training }) s

/-- Registers that Lantern writes from the settings and by default (16 R435, R440, R442, R443; 05 R144). -/
def State.bootRegisters (s : State) : State :=
  let l := s.lan
  let s := s.setPartId (l.settingNat 0x0004 0)
  let s := s.setTbCtrl (BitVec.ofNat 64 (l.settingNat 0x0001 0)) true
  let s := match l.setting 0x0002 with | none => s | some v => s.setAsym v
  let slow := s.fuse.b14 || l.settingNat 0x0007 0 == 1
  { s with gbl := { s.gbl with clk := if slow then 1400 else 1600 }
           flt := { s.flt with size := l.settingNat 0x0003 4096, base := Config.defaultBase 3 }
           dg := { s.dg with log := { s.dg.log with base := Config.defaultBase 0 }
                             late := { s.dg.late with base := Config.defaultBase 1 }
                             prov := { s.dg.prov with base := Config.defaultBase 2 } } }

/-- The running image lists this part's stepping (00 R3, 15 R409). -/
def State.steppingListed (s : State) : Bool :=
  match s.lan.running.image? with
  | none => false
  | some i => i.steppings.getLsbD (if s.fuse.b0 then 1 else 0)

/-- PWRGD_ALL rises after MAIN_EN: image loaded, sub-processors reloaded, VDD_CORE at its fused target, registers written, links
in training, host ports with PERST_N high in training. -/
def execPwrgdAllAssert (s : State) : Host.Outcome State Fault Refusal :=
  if s.alive = true ∧ s.pwr.phase = .mainRequested then
    let s := { s with lan := s.lan.convert }
    let s := { s with pins := { s.pins with pwrgd := true }
                      gbl := { s.gbl with restricted := !s.steppingListed }
                      pwr := { s.pwr with phase := .booting, procs := true, vcore := s.fuse.vcoreTarget } }
    let s := (s.emit (.avs s.fuse.vcoreTarget)).bootRegisters.trainPorts
    let s := if s.perstHigh false then s.trainHost false else s
    ok (if s.perstHigh true then s.trainHost true else s)
  else ok s

/-- No PWRGD_ALL within tPG of MAIN_EN. -/
def execPwrgdTimeout (s : State) : Host.Outcome State Fault Refusal :=
  if s.alive = true ∧ s.pwr.phase = .mainRequested then
    let s := s.defer 3 srcPower 0
    ok { s with pins := { s.pins with mainEn := false, faultForced := true }
                pwr := { s.pwr with phase := .down, noRetry := true } }
  else ok s

/-- Training of a stack ends: twice more on failure, then its pseudo-channels are dead and the part's compute is retired. -/
def execHbmTrainingComplete (stack : Fin 8) (good : Bool) (s : State) : Host.Outcome State Fault Refusal :=
  let k := stack.val
  if s.pwr.phase = .booting ∧ Sparse.get false s.pwr.hbmTrained k = false ∧ Sparse.get 0 s.hbm.dead k = 0 then
    if good then ok { s with pwr := { s.pwr with hbmTrained := Sparse.set false s.pwr.hbmTrained k true } }
    else
      let n := Sparse.get 0 s.pwr.hbmRetries k
      if n < 2 then ok { s with pwr := { s.pwr with hbmRetries := Sparse.set 0 s.pwr.hbmRetries k (n + 1) } }
      else
        let s := { s with hbm := { s.hbm with dead := Sparse.set 0 s.hbm.dead k 0xFFFFFFFFFFFFFFFF#64 }
                          gbl := { s.gbl with retired := true } }
        ok (s.defer 3 srcHbm k)
  else ok s

/-- Every stack is trained or given up. -/
def State.stacksDone (s : State) : Bool :=
  (List.range 8).all fun k => Sparse.get false s.pwr.hbmTrained k || Sparse.get 0 s.hbm.dead k != 0

/-- A tile whose memories are zero with good ECC. -/
def Tile.scrub (x : Tile) : Tile := x.withMemories Tile.reset

/-- The scrub of HBM, of every tile's memories and of the reduction buffer. -/
def execBootScrub (s : State) : Host.Outcome State Fault Refusal :=
  if s.pwr.phase = .booting ∧ s.stacksDone = true then
    ok { s with hbm := { s.hbm with mem := [], poison := [] }
                tiles := Sparse.mapVals Tile.reset (fun _ x => x.scrub) s.tiles
                coll := { s.coll with buf := [] }
                pwr := { s.pwr with phase := .scrubbed } }
  else ok s

/-- READY: records of events before this start are written, and a shadow refresh that a reset cut short begins again (R418). -/
def execReadyAssert (s : State) : Host.Outcome State Fault Refusal :=
  if s.alive = true ∧ s.pwr.phase = .scrubbed ∧ s.pins.mainEn = true then
    let s := { s with pins := { s.pins with ready := true }, pwr := { s.pwr with phase := .up } }
    let s := s.flushDeferred
    ok (if s.lan.confirmOpen && s.lan.flashOp.isNone then { s with lan := s.lan.afterConfirm } else s)
  else ok s

/-! ### Confirmation (15 R417) -/

/-- A pending image confirms: READY, self-tests reported, settings in its format. -/
def execConfirm (s : State) : Host.Outcome State Fault Refusal :=
  let l := s.lan
  if l.phase = .pending ∧ s.pwr.procs = true ∧ s.ready = true ∧ l.inForce.valid = true then
    let v : W64 := match l.running.image? with | none => 0 | some i => i.version
    let l1 : Lantern := { l.append 0x07 v 0 with confirmArmed := false }
    ok { s with lan := l1.afterConfirm }
  else ok s

/-- The confirmation timer expires: the part resets with cause CONFIRM_TIMEOUT, and the loader falls back. -/
def execConfirmTimeout (s : State) : Host.Outcome State Fault Refusal :=
  if s.alive = true ∧ s.lan.confirmArmed = true then ok (s.internalReset 0b01000 true) else ok s

/-! ### PERST_N of a host port (12 R353; 17 R461) -/

/-- ENABLE of the work rings of a port is cleared; fetch stops. -/
def State.dropRings (s : State) (b : Bool) : State :=
  (List.range 64).foldl
    (fun (s : State) (k : Nat) =>
      let n := if b then 64 + k else k
      let w := s.work n
      s.setWork n { w with cfg := w.cfg &&& ~~~1, snoopLine := false }) s

/-- The port's link, configuration space and translation cache are reset, its rings disabled; records of what is in flight are
lost. -/
def execPerstAssert (port : Bool) (s : State) : Host.Outcome State Fault Refusal :=
  let s := { s with pins := if port then { s.pins with perstB := false } else { s.pins with perstA := false } }
  let s := s.setHp port { s.hp port with rate := 0, width := 0, cxl := false, up := false, tcache := [] }
  let s := s.dropRings port
  let each (_ : Nat) (o : Option Op) : Option Op :=
    o.map fun o => if ringPort o.ring == port then { o with lost := true } else o
  ok { s with q := { s.q with ops := Sparse.mapVals none each s.q.ops } }

/-- PERST_N rises: the port trains once the main rails are good. -/
def execPerstDeassert (port : Bool) (s : State) : Host.Outcome State Fault Refusal :=
  if s.perstHigh port then ok s
  else
    let s := { s with pins := if port then { s.pins with perstB := true } else { s.pins with perstA := true } }
    ok (if s.pins.pwrgd then s.trainHost port else s)

end Sys2Proof.Machine
end

