-- ==== Sys2Proof/Machine/Records.lean ====
section
/-!
DEFINITION. The records of a training step in HBM and the checks RUN_STEPS makes of them: the step plan (08 R231, R223), the
curvature record (06 R184, R185; 07 R188, R189), the optimiser and tensor update records (09 R240–R242, R260), and the length of
the restore section (14 R383). Where the manual does not fix which field a rule over two fields names, log entry 55 does.
-/

namespace Sys2Proof.Machine

/-! ### Numbers in records -/

/-- A finite value as a signed dyadic number. -/
def FVal.dyadic : FVal → Option (Int × Int)
  | .fin s m e => some (sgnNat s m, e)
  | _ => none

/-- v in [0, 1). -/
def inUnit (v : FVal) : Bool :=
  match v.dyadic with | none => false | some d => dyLe 0 0 d.1 d.2 && dyLt d.1 d.2 1 0

/-- v in (0, 1]. -/
def inUnitPos (v : FVal) : Bool :=
  match v.dyadic with | none => false | some d => dyLt 0 0 d.1 d.2 && dyLe d.1 d.2 1 0

/-- v finite and above 0. -/
def finitePos (v : FVal) : Bool := match v.dyadic with | none => false | some d => dyLt 0 0 d.1 d.2

/-- v finite and at least 0. -/
def finiteNonneg (v : FVal) : Bool := match v.dyadic with | none => false | some d => dyLe 0 0 d.1 d.2

/-- a + b > 1, exactly. -/
def sumAboveOne (a b : FVal) : Bool :=
  match a.dyadic, b.dyadic with
  | some x, some y => let t := dyAdd x.1 x.2 y.1 y.2; dyLt 1 0 t.1 t.2
  | _, _ => false

def fp64Of (n : Nat) : FVal := decodeVal fmtFP64 n
def fp32Of (n : Nat) : FVal := decodeVal fmtFP32 n

/-- The least of a list of failing bits. -/
def firstBit (l : List Nat) : Option Nat :=
  match l with
  | [] => none
  | a :: l => some (l.foldl Nat.min a)

/-- The bit where a field starts: byte offset, low bit. -/
def bitPos (off lo : Nat) : Nat := 8 * off + lo

/-- A field fails unless the condition holds. -/
def need (c : Bool) (off lo : Nat) : List Nat := if c then [] else [bitPos off lo]

/-! ### The step plan (08 R231, R223) -/

def cutOk (n : Nat) : Bool := n == 1 || n == 2 || n == 4 || n == 8 || n == 16

/-- Failing fields of the step plan; a plan that is not aligned to 128 bytes fails at its first field. -/
def State.planFails (s : State) (r : Nat) : List Nat :=
  let f := s.recField r
  let p := f 0 7 0
  let t := f 0 20 16
  let sq := f 0 25 21
  let m := f 0 47 32
  let dpw := f 8 15 0
  let samples := f 0x68 31 0
  need (r % 128 == 0 && decide (1 ≤ p ∧ p ≤ 64)) 0 0 ++ need (decide (1 ≤ f 0 15 8 ∧ f 0 15 8 ≤ 8)) 0 8 ++ need (cutOk t) 0 16
    ++ need (cutOk sq && decide (t * sq ≤ 16)) 0 21 ++ need (f 0 31 26 == 0) 0 26
    ++ need (decide (1 ≤ m ∧ m ≤ 4096) && m % p == 0) 0 32 ++ need (f 0 63 48 == 0) 0 48
    ++ need (decide (1 ≤ dpw ∧ dpw ≤ 4112 ∧ p * t * sq * dpw ≤ 4112)) 8 0 ++ need (decide (f 8 31 16 < p * t * sq * dpw)) 8 16
    ++ need (decide (1 ≤ f 8 47 32 ∧ f 8 47 32 ≤ 4096)) 8 32 ++ need (f 8 63 48 == 0) 8 48 ++ need (f 0x18 63 32 == 0) 0x18 32
    ++ need (decide (1 ≤ f 0x30 15 0 ∧ f 0x30 15 0 ≤ 4096)) 0x30 0
    ++ need (decide (f 0x30 47 16 ≤ s.mem64 (r + 0x40) / 131072 + s.mem64 (r + 0x50) / 131072)) 0x30 16
    ++ need (f 0x30 63 48 == 0) 0x30 48 ++ need (f 0x60 39 0 % 128 == 0) 0x60 0 ++ need (f 0x60 63 56 == 0) 0x60 56
    ++ need (decide (1 ≤ samples ∧ samples ≤ 2 ^ 20) && samples % (dpw * m) == 0) 0x68 0 ++ need (f 0x68 63 32 == 0) 0x68 32
    ++ need (s.mem64 (r + 0x70) == 0) 0x70 0 ++ need (s.mem64 (r + 0x78) == 0) 0x78 0

/-! ### The curvature record (06 R184, R185; 07 R188, R189) -/

/-- Owned blocks of a side: first and count. -/
def State.curvOwned (s : State) (r : Nat) (g : Bool) : Nat × Nat :=
  if g then (s.recField r 0x50 47 32, s.recField r 0x50 63 48) else (s.recField r 0x50 15 0, s.recField r 0x50 31 16)

/-- The owned blocks of a side lie within it. -/
def State.ownedFails (s : State) (r : Nat) (g : Bool) : List Nat :=
  let o := s.curvOwned r g
  let n := if s.curvB r g = 0 then 0 else s.curvDim r g / s.curvB r g
  let lo := if g then 32 else 0
  if n < o.1 then [bitPos 0x50 lo] else need (decide (o.1 + o.2 ≤ n)) 0x50 (lo + 16)

/-- Failing fields of the root configuration. -/
def State.rootFails (s : State) (r : Nat) : List Nat :=
  let f := s.recField r 0x68
  let t := f 11 0
  let p := f 33 32
  let m := f 35 34
  let conv := f 31 24
  let acc := f 55 48
  let wide (g : Bool) : Bool := s.curvOn r g && decide (1024 < s.curvB r g)
  if t = 0 then []
  else
    need (decide (f 23 12 < t)) 0x68 12 ++ need (decide (conv ≤ 60)) 0x68 24 ++ need (p != 3) 0x68 32
      ++ need (m != 3 && !(m == 0 && p != 0) && !(m == 1 && p == 0) && !(m == 2 && (wide false || wide true))) 0x68 34
      ++ need (f 47 40 != 0) 0x68 40 ++ need (decide (1 ≤ acc ∧ acc ≤ conv)) 0x68 48
      ++ need (decide (1 ≤ f 63 56 ∧ f 63 56 ≤ 60)) 0x68 56 ++ need (finiteNonneg (fp64Of (s.mem64 (r + 0x70)))) 0x70 0
      ++ need (s.mem64 (r + 0x78) % 128 == 0) 0x78 0

/-- Failing fields of a curvature record. -/
def State.curvFails (s : State) (r : Nat) : List Nat :=
  let f := s.recField r
  let beta := fp64Of (s.mem64 (r + 0x10))
  let c1 := fp64Of (s.mem64 (r + 0x20))
  let whole (g : Bool) : Bool := !s.curvOn r g || s.curvB r g == 0 || s.curvDim r g % s.curvB r g == 0
  let base (o : Nat) : List Nat := need (s.mem64 (r + o) % 128 == 0) o 0
  need (r % 128 == 0) 0 0 ++ need (f 0 23 18 == 0) 0 18 ++ need (s.curvB r false != 0) 0 24 ++ need (s.curvB r true != 0) 0 27
    ++ need (f 0 31 30 == 0) 0 30 ++ need (f 0 39 32 != 0) 0 32 ++ need (decide (f 0 47 40 < f 0 39 32)) 0 40
    ++ need (f 0 63 48 == 0) 0 48 ++ need (whole false) 8 0 ++ need (whole true) 8 32 ++ need (inUnit beta) 0x10 0
    ++ need (inUnitPos (fp64Of (s.mem64 (r + 0x18)))) 0x18 0 ++ need (inUnitPos c1 && !sumAboveOne beta c1) 0x20 0
    ++ need (f 0x28 63 48 == 0) 0x28 48 ++ base 0x30 ++ base 0x38 ++ base 0x40 ++ base 0x48 ++ s.ownedFails r false
    ++ s.ownedFails r true ++ s.rootFails r

/-! ### The optimiser and update records (09 R240–R242) -/

/-- Failing fields of the optimiser record. -/
def State.optFails (s : State) (r : Nat) : List Nat :=
  let w (hi lo off : Nat) : FVal := fp32Of (s.recField r off hi lo)
  need (r % 128 == 0 && inUnit (w 31 0 0)) 0 0 ++ need (inUnit (w 63 32 0)) 0 32 ++ need (finitePos (w 31 0 8)) 8 0
    ++ need (finiteNonneg (w 63 32 8)) 8 32 ++ need (s.mem64 (r + 0x10) % 128 == 0) 0x10 0
    ++ need (s.recField r 0x18 31 0 != 0) 0x18 0 ++ need (finitePos (w 63 32 0x18)) 0x18 32
    ++ need (inUnit (fp64Of (s.mem64 (r + 0x38)))) 0x38 0 ++ need (s.recField r 0x40 63 17 == 0) 0x40 17
    ++ need (s.mem64 (r + 0x70) % 128 == 0) 0x70 0
    ++ need (decide (1 ≤ s.recField r 0x78 31 0 ∧ s.recField r 0x78 31 0 ≤ 65535)) 0x78 0
    ++ need (s.recField r 0x78 63 32 == 0) 0x78 32

/-- Compute-copy formats: E4M3, E5M2, BF16, FP16 and the B32 forms there are of them. -/
def cfmtOk (f : Nat) : Bool := f == fmtE4M3 || f == fmtE5M2 || f == fmtBF16 || f == fmtFP16 || f == fmtE4M3B || f == 0x12

/-- Failing fields of a tensor update record; `prev` is the tensor ID of the record before it. -/
def State.urecFails (s : State) (r : Nat) (prev : Option Nat) : List Nat :=
  let f := s.recField r
  let base (o : Nat) : List Nat := need (s.mem64 (r + o) % 128 == 0) o 0
  need (match prev with | none => true | some t => decide (t < f 0 15 0)) 0 0 ++ need (cfmtOk (f 0 22 18)) 0 18
    ++ need (f 0 31 23 == 0) 0 23 ++ need (f 0 63 32 % 32 == 0) 0 32 ++ need (f 8 63 40 == 0) 8 40 ++ base 0x10 ++ base 0x18
    ++ base 0x20 ++ (if f 0 16 16 = 1 then base 0x28 else []) ++ base 0x30 ++ base 0x38 ++ need (f 0x40 63 48 == 0) 0x40 48
    ++ base 0x48 ++ ((List.range 6).flatMap fun i => need (s.mem64 (r + 0x50 + 8 * i) == 0) (0x50 + 8 * i) 0)

/-- Largest owned shard. -/
def State.maxOwned (s : State) (rs : List Nat) : Nat := rs.foldl (fun n r => Nat.max n (s.nown r)) 0

/-! ### The check of RUN_STEPS -/

/-- The first failing update record: index and bit. -/
def State.urecsFail (s : State) : Nat → Option Nat → List Nat → Option (Nat × Nat)
  | _, _, [] => none
  | i, prev, r :: rs =>
    match firstBit (s.urecFails r prev) with
    | some b => some (i, b)
    | none => s.urecsFail (i + 1) (some (s.recField r 0 15 0)) rs

/-- The first failing curvature record: its layer and bit. -/
def State.curvsFail (s : State) : List Nat → Option (Nat × Nat)
  | [] => none
  | r :: rs =>
    match firstBit (s.curvFails r) with
    | some b => some (s.recField r 0 15 0, b)
    | none => s.curvsFail rs

/-- Cycles of a section of the loaded program with declared counts: the longest tile. -/
def ProgImage.sectionCycles (p : ProgImage) (q : Nat) : Nat :=
  p.tiles.foldl (fun n t => ((p.code t).events p q).foldl (fun n e => Nat.max n (e.q.cycle + 1)) n) 0

/-- The longest restore section. -/
def restoreLimit : Nat := 420000

/-- The first work of fixed length that lies in no Penumbra slot before the sweep whole (08 R219): its first cycle. -/
def State.slotFail (s : State) (n : StepNames) : Option Nat :=
  let sweep := s.mem64 (s.prog.plan + 0x10)
  (n.work.find? fun w => !(n.slots.any fun p => decide (p.1 ≤ w.1 ∧ w.1 + w.2 ≤ p.2 ∧ p.2 ≤ sweep))).map (·.1)

/-- What RUN_STEPS checks before its first step, in its order: what the rules name, as DETAIL words. The plan: the field; a work that fits
no slot: SWEEP_OFF and the work's first cycle; the program header: its field; a curvature record: layer and field; the optimiser record
or an update record: its address and the field, for a small staging area ALLOC_BASE of the plan; a long restore section: its number (log
entry 55). The optimiser record is region 0 of the region table (09 R252). -/
def State.stepCheck (s : State) (n : StepNames) : Option (List Nat) :=
  let opt := (s.region 0).1
  let rs := s.urecs opt
  match firstBit (s.planFails s.prog.plan) with
  | some b => some [b]
  | none =>
    if bitAt s.stepctl 15 then some [bitPos 0x0A0 15]
    else match (s.slotFail n).map (fun c => [bitPos 0x10 0, c]) <|> (s.curvsFail n.curv).map (fun x => [x.1, x.2]) with
      | some d => some d
      | none =>
        match firstBit (s.optFails opt) with
        | some b => some [opt, b]
        | none =>
          match s.urecsFail 0 none rs with
          | some x => some [rs.getD x.1 0, x.2]
          | none =>
            if s.stagingSize < 13 * s.maxOwned rs + 2 ^ 20 then some [s.prog.plan, bitPos 0x28 0]
            else if restoreLimit < s.progImage.sectionCycles 2 then some [2]
            else none

end Sys2Proof.Machine
end

