-- ==== Sys2Proof/Machine/Export.lean ====
section
/-!
DEFINITION. What Echo replay reads and writes (05 R165, R166): the checkpoint, stored frames, the checks against the digest log,
and the exports. Layouts the manual leaves open are log entry 58: a checkpoint is the registered regions one behind the other in
ascending index; the export list has 16-byte entries of TID and host address and ends at an entry whose first word is all ones;
the batch is the tensors of its KIND 3 entries one behind the other.
-/

namespace Sys2Proof.Machine

/-! ### The digest log read back -/

/-- An entry of the digest log. -/
structure DigEntry where
  step : Nat
  part : Nat
  layer : Nat
  mb : Nat
  tid : Nat
  kind : Nat
  len : Nat
  rank : Nat
  deriving DecidableEq, Repr, Inhabited

/-- The entries the ring holds, oldest first. -/
def State.digestLog (s : State) : List DigEntry :=
  let r := s.dg.log
  let n := Nat.min r.head r.size
  (List.range n).map fun i =>
    let a := r.base.toNat + 32 * ((r.head - n + i) % r.size)
    let w (o : Nat) : Nat := leNat (s.hbmRead (a + o) 8)
    { step := w 0, part := w 8 % 2 ^ 61, layer := field (w 16) 15 0, mb := field (w 16) 31 16, tid := field (w 16) 47 32,
      kind := field (w 16) 55 48, len := field (w 24) 39 0, rank := field (w 24) 55 40 }

/-- The finalised digest of entries that belong together (05 R157). -/
def mergedDigest (es : List DigEntry) : Nat :=
  (es.foldl (fun a e => a + e.part) 0 + es.foldl (fun a e => a + e.len) 0 * ldLen) % ldP

/-! ### Checkpoint and frames -/

/-- The regions of a checkpoint copied in place. -/
def State.loadCheckpoint (s : State) (ckpt : Nat) : State :=
  ((List.range s.ss.rtCount).foldl
    (fun (a : State × Nat) (i : Nat) =>
      let g := s.region i
      (a.1.hbmWrite g.1 (s.hbmRead a.2 (4 * g.2)), a.2 + 4 * g.2)) (s, ckpt)).1

/-- A frame being applied: state, place of the next part, segments, their digests, bytes so far; failed? -/
structure FrameWalk where
  st : State
  at_ : Nat
  digs : List Nat
  bytes : Nat
  deriving DecidableEq, Repr, Inhabited

/-- The next part is the trailer: its segment count, length and digest fit what came before. -/
def FrameWalk.trailerHere (w : FrameWalk) : Bool :=
  let b (o n : Nat) : Nat := leNat (w.st.hbmRead (w.at_ + o) n)
  b 0x14 4 == w.digs.length && b 0x18 8 == w.bytes + 64 && b 0x20 8 == ld64Pairs w.digs

/-- Segments until the trailer; none when a check fails. -/
def walkFrame : Nat → FrameWalk → Option FrameWalk
  | 0, _ => none
  | n + 1, w =>
    if w.trailerHere then some { w with at_ := w.at_ + 64 }
    else
      let b (o k : Nat) : Nat := leNat (w.st.hbmRead (w.at_ + o) k)
      let region := b 0 2 % 2 ^ 12
      let off := b 8 5
      let plen := b 0x14 4
      let pay := w.st.hbmRead (w.at_ + 32) plen
      let ws := unpackDiffs 0 ((wordsOf pay).map (BitVec.ofNat 32))
      let g := w.st.region region
      if payloadDigest pay ≠ b 0x18 8 % 2 ^ 61 ∨ w.st.ss.rtCount ≤ region ∨ g.2 < off + ws.length then none
      else
        walkFrame n { st := w.st.xorWords (g.1 + 4 * off) ws, at_ := w.at_ + 32 + plen, digs := w.digs ++ [payloadDigest pay],
                      bytes := w.bytes + 32 + plen }

/-- What a stream of frames gives: applied (with the program digests named and the address behind the last frame), or a check failed. -/
inductive Applied where
  | good (st : State) (progs : List Nat) (end_ : Nat)
  | bad
  deriving DecidableEq, Repr, Inhabited

/-- n frames from step k on. -/
def State.applyFrames (s : State) : Nat → Nat → Nat → List Nat → Applied
  | 0, _, a, ps => .good s ps a
  | n + 1, k, a, ps =>
    let b (o c : Nat) : Nat := leNat (s.hbmRead (a + o) c)
    if b 0 2 ≠ 1 ∨ b 8 8 ≠ k then .bad
    else
      match walkFrame (2 ^ 32) { st := s, at_ := a + 64, digs := [], bytes := 64 } with
      | none => .bad
      | some w => w.st.applyFrames n (k + 1) w.at_ (ps ++ [b 0x20 8])

/-! ### Compute copies (09 R250, R252) -/

/-- Elements and scale codes of a compute copy. -/
def copyOf (f : Nat) (ws : List Nat) : List Nat × List Nat :=
  let vs := ws.map (decodeVal fmtFP32)
  if isBlock f then
    let bs := (chunksOf 32 vs).map fun b => cvtBlock f .rne (b.map fun _ => 0) b
    (bs.flatMap (·.2.1), bs.map (·.1))
  else (vs.map fun v => (cvtVal f .rne true 0 v).1, [])

/-- A compute copy written from master values, with its Glint partial (05 R158). -/
def State.writeCopy (s : State) (r : Nat) (ws : List Nat) : State :=
  let f := s.ccFmt r
  let n := ws.length
  let base := s.mem64 (r + 0x30)
  let cc := copyOf f ws
  let s1 := (s.hbmWrite base (packElems f cc.1 [])).hbmWrite (scaleAt f base n) (cc.2.map (BitVec.ofNat 8))
  s1.hbmWrite (partialAt f base n) (leBytes 8 (s1.shardDigest f base n s.dataPos).1)

/-- The compute copy of a tensor derived from its master. -/
def State.deriveCopy (s : State) (r : Nat) : State :=
  s.writeCopy r (unpackElems fmtFP32 (s.nown r) (s.hbmRead (s.mem64 (r + 0x10)) (4 * s.nown r)))

/-! ### The checks -/

/-- Weight digests against the KIND 2 entries of the step before. -/
def State.weightsAgree (s : State) (log : List DigEntry) (step : Nat) : Bool :=
  (s.urecs (s.region 0).1).all fun r =>
    let d := (s.shardDigest (s.ccFmt r) (s.mem64 (r + 0x30)) (s.nown r) s.dataPos).1
    (log.filter fun e => e.kind == 2 && e.step + 1 == step && e.rank == s.rank && e.tid == s.recField r 0 15 0).all fun e =>
      e.part == d

/-- The batch against the KIND 3 entries of the step: tensors one behind the other. -/
def State.batchAgrees (s : State) (a : Nat) : List DigEntry → Bool
  | [] => true
  | e :: l => ldPartial 0 (wordsOf (s.hbmRead a (4 * e.len))) == e.part && s.batchAgrees (a + 4 * e.len) l

/-- The batch in its slot of the input buffer. -/
def State.placeBatch (s : State) (a : Nat) (step : Nat) : State :=
  let size := s.recField s.prog.plan 0x60 39 0
  s.hbmWrite (s.mem64 (s.prog.plan + 0x58) + step % 2 * size) (s.hbmRead a size)

/-! ### Exports -/

/-- Entries of the export list: TID and host address. -/
def State.exportList (s : State) : Nat → Nat → List (Nat × Nat)
  | 0, _ => []
  | n + 1, a =>
    let w := leNat (s.hbmRead a 8)
    if w = 2 ^ 64 - 1 then [] else (w % 2 ^ 16, leNat (s.hbmRead (a + 8) 8)) :: s.exportList n (a + 16)

/-- Where a tensor lies in HBM: the descriptor of its TID, else the master shard of its update record. -/
def State.tensorAt (s : State) (tid : Nat) : Nat × Nat :=
  match s.allDescs.find? fun d => d.tid == tid && d.space == 6 with
  | some d => (d.base, 128 * d.extent)
  | none =>
    match (s.urecs (s.region 0).1).find? fun r => s.recField r 0 15 0 == tid with
    | some r => (s.mem64 (r + 0x10), 4 * s.nown r)
    | none => (0, 0)

/-- The digest log of a REPLAY: what was recorded before it began, and its own entries (05 R166). -/
def State.splitLog (s : State) : List DigEntry × List DigEntry :=
  let l := s.digestLog
  let n := s.seqr.logHead - (s.dg.log.head - l.length)
  (l.take n, l.drop n)

/-- Two entries stand for the same tensor of the same step. -/
def DigEntry.same (a b : DigEntry) : Bool :=
  a.step == b.step && a.layer == b.layer && a.mb == b.mb && a.tid == b.tid && a.kind == b.kind && a.rank == b.rank

/-- The first recorded entry of a tensor that the replay disagrees with: with its own entry for it, or, where it has made none, with the
exported digest (05 R157, R166). -/
def State.firstDiffering (s : State) (tid dig : Nat) : Option DigEntry :=
  let l := s.splitLog
  let mine (e : DigEntry) : Bool := e.step == s.gbl.step.toNat && e.tid == tid && (e.kind == 0 || e.kind == 4)
  let rec_ := l.1.filter mine
  let own := l.2.filter mine
  if own.isEmpty then (if mergedDigest rec_ = dig then none else rec_.head?)
  else rec_.find? fun e => own.any fun f => e.same f && (e.part != f.part || e.len != f.len)

/-- The bytes of a tensor that a REPLAY exports: a parameter as frame s leaves it, anything else as it lies in HBM (05 R166). -/
def State.exportBytes (s : State) (tid : Nat) : List Byte :=
  match s.seqr.params.find? fun p => p.1 == tid with
  | some p => p.2
  | none => let t := s.tensorAt tid; s.hbmRead t.1 t.2

/-- One tensor goes to the host with its provenance record; a digest that differs from the logged one is reported. -/
def State.exportOne (s : State) (tag : Nat) (o : Op) (x : Nat × Nat) (bs : List Byte) : State :=
  let dig := ld64 (wordsOf bs)
  let b := ringPort o.ring
  let rec64 := s.provRecord x.1 dig
  let all := bs ++ rec64
  let s1 := ((s.translate b x.2 all.length).hostWrite b x.2 all).writeProv rec64
  match s.firstDiffering x.1 dig with
  | none => s1
  | some e =>
    (s1.logCause { status := stDigest, sev := 1, src := srcStep, unit := 0, tag := some tag,
                   detail := [e.step, e.tid, e.layer, e.mb] }).addStatusTo tag stDigest

/-- Exports in their order, those of the first `skip` bytes having gone; one that meets a denied page waits, and those behind it. Whether
all have gone. -/
def State.exportFrom (s : State) (tag : Nat) (o : Op) : Nat → List (Nat × Nat) → State × Bool
  | _, [] => (s, true)
  | skip, x :: l =>
    let bs := s.exportBytes x.1
    let n := bs.length + 64
    if n ≤ skip then s.exportFrom tag o (skip - n) l
    else
      match (s.hp (ringPort o.ring)).reach x.2 n with
      | (k, some _) => (s.askStep (ringPort o.ring) (x.2 + k), false)
      | (_, none) => ((s.exportOne tag o x bs).updOp tag fun o => { o with moved := o.moved + n }).exportFrom tag o 0 l

/-- The exports of a REPLAY. -/
def State.exportAll (s : State) (tag : Nat) (o : Op) : State × Bool := s.exportFrom tag o o.moved (s.exportList 65536 (o.word 0x30))

/-- Program digests of the provenance records of a step (05 R162, R165). -/
def State.provDigests (s : State) (step : Nat) : List Nat :=
  let r := s.dg.prov
  let n := Nat.min r.head r.size
  (List.range n).filterMap fun i =>
    let a := r.base.toNat + 64 * ((r.head - n + i) % r.size)
    if leNat (s.hbmRead (a + 16) 8) = step then some (leNat (s.hbmRead (a + 8) 8) % 2 ^ 61) else none

/-- The parameters as frame `step` at an address leaves them, by tensor ID; none where the stream ends before it (05 R166). -/
def State.frameParams (s : State) (step a : Nat) : List (Nat × List Byte) :=
  let b (o c : Nat) : Nat := leNat (s.hbmRead (a + o) c)
  if b 0 2 ≠ 1 ∨ b 8 8 ≠ step then []
  else
    match walkFrame (2 ^ 32) { st := s, at_ := a + 64, digs := [], bytes := 64 } with
    | none => []
    | some w => (w.st.urecs (w.st.region 0).1).map fun r => (w.st.recField r 0 15 0, w.st.hbmRead (w.st.mem64 (r + 0x10)) (4 * w.st.nown r))

end Sys2Proof.Machine
end

