-- ==== Sys2Proof/Machine/Steps.lean ====
section
/-!
DEFINITION. RUN_STEPS and the phases of a step (08 R231–R236, 04 R109): start and check, intake and launch, the replay section,
other sections, and the end of a step. Phases of the sequencer: 1 intake, 2 launch being agreed, 4 schedule, 5 replay window,
6 reduction and decision, 7 sweep, 8 emission, 9 end (08 R232); 0 idle.
-/

namespace Sys2Proof.Machine

/-! ### RUN_STEPS -/

/-- RUN_STEPS or REPLAY ends: RESULT of RUN_STEPS is the step counter, of REPLAY it is open (12 R335; log entry 44). -/
def State.stepsEnd (s : State) (tag : Nat) (sts : List (BitVec 8)) : State :=
  match s.op tag with
  | none => s
  | some o => if o.opcode = opReplay then s.finishOpen tag sts else s.finish tag sts s.gbl.step

/-- RUN_STEPS starts: a loaded program with a step plan that passes every check begins its first intake. `names` is what the
program names (log entry 128). -/
def State.beginSteps (s : State) (tag : Nat) (o : Op) (names : StepNames) : State :=
  if s.launchable = false ∨ s.prog.plan = 0 then s.stepsEnd tag [stInvalid]
  else
    match s.stepCheck names with
    | some d =>
      (s.logCause { status := stInvalid, sev := 2, src := srcStep, unit := 0, tag := some tag, detail := d }).stepsEnd tag [stInvalid]
    | none =>
      { s with seqr := { StepSeq.reset with
          tag := some tag
          s0 := s.gbl.step
          n := o.field 0x08 31 0
          phase := 1
          intakeFrom := some s.tb.count
          intakeWait := s.seqr.intakeWait
          spillHbm := s.seqr.spillHbm
          spillHost := s.seqr.spillHost
          overrun := s.seqr.overrun
          optRec := (s.region 0).1
          names := names
          owner := s.seqr.owner } }

def execRunSteps (tag : Nat) (names : StepNames) (s : State) : Host.Outcome State Fault Refusal :=
  ok (s.startOp tag opRunSteps fun o s => s.beginSteps tag o names)

/-! ### Intake and launch (08 R232) -/

def State.batchFlag (s : State) : Nat := s.recField s.prog.plan 0x60 47 40
def State.progFlag (s : State) : Nat := s.recField s.prog.plan 0x60 55 48

/-- The batch of the step has been delivered. -/
def State.batchHere (s : State) : Bool :=
  decide ((s.gbl.step - s.seqr.s0).toNat + 1 ≤ (s.flag s.batchFlag).toNat)

/-- No stop that ends the program is announced. -/
def State.noStop (s : State) : Bool := !s.prog.stopped && (match s.ag.stop with | none => true | some n => n.pre)

/-- Phase 1: once the batch is there the wait is counted and the launch of the step begins to be agreed. -/
def execStepIntake (s : State) : Host.Outcome State Fault Refusal :=
  match s.seqr.tag with
  | none => ok s
  | some tag =>
    if s.seqr.phase = 1 ∧ s.batchHere = true ∧ s.noStop = true ∧ s.gbl.paused = false then
      let waited := s.tb.count - s.seqr.intakeFrom.getD s.tb.count
      let s := { s with seqr := { s.seqr with intakeWait := s.seqr.intakeWait + waited, intakeFrom := none } }
      if s.tb.state = .unlocked then
        ok ((s.logCause { status := stTimeout, sev := 2, src := srcRouter, unit := 0, tag := some tag,
                          detail := [s.tb.state.code] }).stepsEnd tag [stTimeout])
      else ok ({ s with seqr := { s.seqr with phase := 2 } }.beginLaunch tag 0)
    else ok s

/-! ### The replay section (08 R234) -/

/-- The step sequencer can start a section: its program runs, every tile is quiet, and neither pause, stop nor recovery holds. -/
def State.sectionFree (s : State) : Bool :=
  s.programRuns && s.tilesQuiet && s.noStop && !s.gbl.paused && decide (s.recov.stage = .none)

/-- Of two reports, ascending layer, then row group, then tile (log entry 49). -/
def reportLe (a b : Report) : Bool :=
  decide (a.layer < b.layer)
    || (a.layer == b.layer && (decide (a.base < b.base) || (a.base == b.base && decide (a.tile ≤ b.tile))))

/-- The report to take next. -/
def leastReport : List Report → Option Report
  | [] => none
  | a :: l => some (l.foldl (fun x y => if reportLe x y then x else y) a)

/-- Phase 5: section 1 runs for the next reported block; with none left the window closes, what it took beyond REPLAY_CYC is
counted, and the work that was held goes on. -/
def execStepReplaySection (s : State) : Host.Outcome State Fault Refusal :=
  if s.seqr.tag.isSome ∧ (s.seqr.phase = 4 ∨ s.seqr.phase = 5) ∧ s.sectionFree = true then
    let from_ := s.seqr.replayFrom.getD s.tb.count
    match leastReport s.seqr.reports with
    | some r =>
      ok ({ s with seqr := { s.seqr with phase := 5, replayFrom := some from_, reports := s.seqr.reports.erase r,
                                         replaying := some r.layer, sectRun := some 1 } }.startSection 1 false)
    | none =>
      let ovf := s.cyclesOf (s.tb.count - from_) - s.recField s.prog.plan 0x18 31 0
      ok ({ s with seqr := { s.seqr with phase := 6, replayFrom := none, overrun := s.seqr.overrun + ovf,
                                         replaying := none, sectRun := none } }.settleRouter)
  else ok s

/-- Another section of the loaded program starts on every tile that runs code. -/
def execSectionStart (sect : BitVec 3) (s : State) : Host.Outcome State Fault Refusal :=
  if sect ≠ 0 ∧ s.sectionFree = true ∧ s.sectionEntry sect ≠ 0xFFFF then
    ok ({ s with seqr := { s.seqr with sectRun := some sect } }.startSection sect false)
  else ok s

/-! ### The end of a step (08 R232, R236) -/

/-- Some status of the step is of the class Ended. -/
def State.stepEnded (s : State) : Bool := s.seqr.stepStatus.any fun st => stClass st == 0

/-- A REPLAY exports its tensors at the end of its step (05 R165); whether all have gone. -/
def State.replayExports (s : State) (tag : Nat) : State × Bool :=
  match s.op tag with
  | none => (s, true)
  | some o => if o.opcode = opReplay then s.exportAll tag o else (s, true)

/-- Phase 9, once every root job has committed (07 R191): a REPLAY exports; the step counter and PROG_FLAG rise; the run ends after N
steps, with a status of the class Ended, or when its end was asked for, and begins the next intake otherwise. -/
def execStepEnd (s : State) : Host.Outcome State Fault Refusal :=
  match s.seqr.tag with
  | none => ok s
  | some tag =>
    if s.seqr.phase = 9 ∧ s.seqr.jobs = [] then
      let x := s.replayExports tag
      if x.2 = false then ok x.1
      else
      let s := x.1.logStep tag
      let ended := s.stepEnded || s.ag.abortEnd || decide (s.seqr.n ≤ s.seqr.done + 1)
      let s := { s with
        gbl := { s.gbl with step := s.gbl.step + 1 }
        seqr := { s.seqr with done := s.seqr.done + 1, phase := if ended then 0 else 1, stepStatus := [], inDig := []
                              intakeFrom := some s.tb.count } }
      let s := (s.landFlag s.progFlag (s.flag s.progFlag + 1)).newPoint
      ok (if ended then s.stepsEnd tag [] else s)
    else ok s

end Sys2Proof.Machine
end

