-- ==== Sys2Proof/Machine/Sweep.lean ====
section
/-!
DEFINITION. Gradient quantisation, the norm decision and the update sweep with its folds (09 R243–R251, 06 R178–R182). Every
operation carries the S bit. The order of registered writes is log entry 52.
-/

namespace Sys2Proof.Machine

/-! ### Helpers -/

/-- The step is between its launch and the end of its sweep and nothing holds it. -/
def State.stepGoes (s : State) : Bool :=
  s.seqr.tag.isSome && s.programRuns && s.noStop && !s.gbl.paused && decide (s.recov.stage = .none)

/-- Bytes written as registered words; the rest of the last word keeps its bytes. -/
def State.ownBytes (s : State) (writer a : Nat) (bs : List Byte) : State :=
  let pad := (4 - bs.length % 4) % 4
  s.ownWords writer a (wordsOf (bs ++ s.hbmRead (a + bs.length) pad))

/-- n values of a format in a row from an address. -/
def State.hbmElems (s : State) (f a n : Nat) : List Nat := unpackElems f n (s.hbmRead a (packedBytes f n))

def f32Mul (a b : Nat) : Nat := (fpMul true fmtFP32 a b).1
def f32Add (a b : Nat) : Nat := (fpAdd true fmtFP32 a b).1
def f32Sub (a b : Nat) : Nat := (fpSub true fmtFP32 a b).1
def f32Fma (a b c : Nat) : Nat := (fpFma true fmtFP32 a b c).1
def f32Div (a b : Nat) : Nat := (fpDiv true fmtFP32 a b).1
def f32Sqrt (a : Nat) : Nat := (fpSqrt true fmtFP32 a).1
def f64Mul (a b : Nat) : Nat := (fpMul true fmtFP64 a b).1
def f64Add (a b : Nat) : Nat := (fpAdd true fmtFP64 a b).1
def f64Sub (a b : Nat) : Nat := (fpSub true fmtFP64 a b).1
def f64Fma (a b c : Nat) : Nat := (fpFma true fmtFP64 a b c).1
def f64Div (a b : Nat) : Nat := (fpDiv true fmtFP64 a b).1
def f64Sqrt (a : Nat) : Nat := (fpSqrt true fmtFP64 a).1
def f64Rcp (a : Nat) : Nat := (fpRcp true fmtFP64 a).1
def f64Rsq (a : Nat) : Nat := (fpRsq true fmtFP64 a).1

/-- a < b, false when either is NaN. -/
def f64Lt (a b : Nat) : Bool := (fpCmp .lt true fmtFP64 a b).1 != 0

/-- CVT between the floating formats with RNE. -/
def cvtBits (d f x : Nat) : Nat := (cvtVal d .rne false 0 (decodeVal f x)).1

def one32 : Nat := oneBits fmtFP32
def one64 : Nat := oneBits fmtFP64

/-! ### Gradient quantisation (09 R243) -/

/-- One block of up to 32 elements: dW and current error, to quantised elements, scale and new error. -/
def quantBlock (gscale : Nat) (dw e : List Nat) : List Nat × Nat × List Nat :=
  let h := (dw.zip e).map fun x => f32Fma x.1 gscale (cvtBits fmtFP32 fmtBF16 x.2)
  let q := cvtBlock fmtE4M3B .rne (h.map fun _ => 0) (h.map (decodeVal fmtFP32))
  let back (x : Nat) : Nat := (cvtVal fmtFP32 .rne false 0 (scaleVal (scaleExp q.1) (decodeVal fmtE4M3B x))).1
  (q.2.1, q.1, (h.zip q.2.1).map fun x => cvtBits fmtBF16 fmtFP32 (f32Sub x.1 (back x.2)))

/-- Buffer k of a tensor's error term. -/
def State.errBuf (s : State) (r k : Nat) : Nat :=
  s.mem64 (r + 0x38) + k * alignUp (2 * s.recField r 0x40 47 0) 128

/-- Error-term buffer in use. -/
def State.esel (s : State) : Nat := s.recField s.seqr.optRec 0x40 16 16

/-- A layer's drained dW is quantised: q and scales to LOCQ_BASE, the new error term to the buffer not in use. -/
def State.quantise (s : State) (r dw : Nat) : State :=
  let n := s.recField r 0x40 47 0
  let gscale := s.recField s.seqr.optRec 0x18 63 32
  let bs := ((chunksOf 32 (s.hbmElems fmtFP32 dw n)).zip (chunksOf 32 (s.hbmElems fmtBF16 (s.errBuf r s.esel) n))).map
    fun x => quantBlock gscale x.1 x.2
  let loc := s.mem64 (r + 0x48)
  let s1 := (s.hbmWrite loc (packElems fmtE4M3B (bs.flatMap (·.1)) [])).hbmWrite (scaleAt fmtE4M3B loc n)
    (bs.map fun b => BitVec.ofNat 8 b.2.1)
  s1.ownBytes 0 (s.errBuf r (1 - s.esel)) (packElems fmtBF16 (bs.flatMap (·.2.2)) [])

/-- Held while a STEP-class block of the layer is reported or replayed (08 R235). -/
def execGradientQuantisation (urec dw : Nat) (s : State) : Host.Outcome State Fault Refusal :=
  if s.stepGoes = true ∧ 4 ≤ s.seqr.phase ∧ s.seqr.phase ≤ 6 ∧ s.layerHeld (s.layerOf (s.recField urec 0 15 0)) = false then
    ok (s.writes fun s => s.quantise urec dw)
  else ok s

/-! ### The norm decision (09 R245–R248) -/

/-- The communicator of all ranks of the step program: the first that has them all (log entry 132). -/
def State.allRanks (s : State) : Option Comm := s.coll.comms.find? fun c => c.n == s.launchParts.length

/-- The global sum of squares: the members' squared norms in member order, this part's own among them, summed in FP64 over the tree of the
communicator of all ranks (09 R246). -/
def State.globalNorm (s : State) (sumSq : List (BitVec 64)) : Nat :=
  let n := s.launchParts.length
  let me := ((s.allRanks).bind fun c => s.memberIndex c).getD 0
  let chain := match s.allRanks with | none => false | some c => c.chain
  let vals := (List.range n).map fun m => [if m = me then s.partNorm else (sumSq.getD m 0).toNat]
  (reduceAll chain 0 fmtFP64 vals).headD 0

/-- What a norm decides: LAST_DEC and, when applied, the clip scale. -/
def State.decide_ (s : State) (norm : Nat) : Nat × Nat :=
  let r := s.seqr.optRec
  let absurd := s.mem64 (r + 0x30)
  let clip := s.mem64 (r + 0x28)
  let zero (x : Nat) : Bool := (fp64Of x).isZero
  if (fp64Of norm).isNan || (fp64Of norm).isInf then (1, 0)
  else if !zero absurd && decide (s.recField r 0x40 15 0 ≤ s.mem64 (r + 0x48))
      && f64Lt (f64Mul absurd (s.mem64 (r + 0x50))) norm then (2, 0)
  else if zero clip || zero norm then (0, one64)
  else
    let q := f64Div clip norm
    (0, if f64Lt q one64 then q else one64)

/-- The decision on a norm and its writes to the optimiser record: the commit point of the step, and its replay point (14 R385). -/
def State.applyNorm (s : State) (norm : Nat) : State :=
    let r := s.seqr.optRec
    let d := s.decide_ norm
    let s1 := (s.ownWord64 1 (r + 0x58) norm).ownWord64 1 (r + 0x60) s.gbl.step.toNat
    let last := s1.recField r 0x68 63 40 * 2 ^ 8 + d.1
    if d.1 ≠ 0 then
      let s2 := s1.ownWords 1 (r + 0x68) [s1.recField r 0x68 31 0 + 1, last]
      let s3 := s2.logCause { status := stSkipped, sev := stSev stSkipped, src := srcStep, unit := 0, tag := s.seqr.tag,
                              detail := [s.gbl.step.toNat, norm] }
      ({ s3 with seqr := { s3.seqr with decision := some (BitVec.ofNat 8 d.1, 0), skipped := true, phase := 8 } }.addStatus
        stSkipped).newPoint
    else
      let count := s1.mem64 (r + 0x48)
      let decay := s1.mem64 (r + 0x38)
      let ema := if count = 0 then norm
        else f64Fma decay (s1.mem64 (r + 0x50)) (f64Mul (f64Sub one64 decay) norm)
      let s2 := ((s1.ownWord64 1 (r + 0x50) ema).ownWord64 1 (r + 0x48) ((count + 1) % 2 ^ 64)).ownWords 1 (r + 0x6C) [last]
      { s2 with seqr := { s2.seqr with decision := some (0, BitVec.ofNat 64 d.2), phase := 7, sweepAt := 0, unf := 0 } }.newPoint

/-- Phase 6, once every reduce-scatter of the step has completed: the norm and its decision. -/
def execNormDecision (sumSq : List (BitVec 64)) (s : State) : Host.Outcome State Fault Refusal :=
  if s.stepGoes = true ∧ s.seqr.phase = 6 ∧ s.pendingLayers = [] ∧ s.scattersDone = true then
    ok (s.writes fun s => s.applyNorm (f64Sqrt (s.globalNorm sumSq)))
  else ok s

/-! ### Constants of a step (09 R249) -/

/-- b^t, binary exponentiation from the most significant bit of t on, each multiplication rounded. -/
def powMsb (b t : Nat) : Nat :=
  (List.range (bitLen t - 1)).foldl
    (fun r i =>
      let r := f64Mul r r
      if t.testBit (bitLen t - 2 - i) then f64Mul r b else r) (if t = 0 then one64 else b)

/-- 1 ÷ (1 − β^t), to FP32. -/
def biasFix (beta t : Nat) : Nat :=
  cvtBits fmtFP32 fmtFP64 (f64Div one64 (f64Sub one64 (powMsb (cvtBits fmtFP64 fmtFP32 beta) t)))

/-- BETA1, BETA2, EPS, WD, OMB1, OMB2, BC1, BC2. -/
structure OptConst where
  b1 : Nat
  b2 : Nat
  eps : Nat
  wd : Nat
  o1 : Nat
  o2 : Nat
  bc1 : Nat
  bc2 : Nat
  deriving DecidableEq, Repr, Inhabited

/-- The constants of the optimiser record r for exponent t. -/
def State.optConst (s : State) (r t : Nat) : OptConst :=
  let b1 := s.recField r 0 31 0
  let b2 := s.recField r 0 63 32
  { b1 := b1, b2 := b2, eps := s.recField r 8 31 0, wd := s.recField r 8 63 32, o1 := f32Sub one32 b1, o2 := f32Sub one32 b2,
    bc1 := biasFix b1 t, bc2 := biasFix b2 t }

/-- The moments a gradient gives. -/
def OptConst.moments (k : OptConst) (m v g : Nat) : Nat × Nat :=
  (f32Fma k.b1 m (f32Mul k.o1 g), f32Fma k.b2 v (f32Mul k.o2 (f32Mul g g)))

/-- The bias-corrected moment direction. -/
def OptConst.direction (k : OptConst) (mv : Nat × Nat) : Nat :=
  f32Div (f32Mul mv.1 k.bc1) (f32Add (f32Sqrt (f32Mul mv.2 k.bc2)) k.eps)

/-! ### Folds (06 R178–R183) -/

/-- Elements of a block in packed order. -/
def blockElems (b : Nat) : Nat := b * (b + 64) / 2

/-- One element folded: C0 for the first fold, else β and C1. -/
def foldElem (init : Bool) (c0 c1 beta s f : Nat) : Nat :=
  let s64 := cvtBits fmtFP64 fmtFP32 s
  cvtBits fmtFP32 fmtFP64
    (if init then f64Fma (cvtBits fmtFP64 fmtFP32 f) beta (f64Mul s64 c1) else f64Mul s64 c0)

/-- One owned block of a side: its index on the side, the statistic's, factor's and status word's addresses. -/
def State.foldBlock (s : State) (r : Nat) (g : Bool) (blk src dst st : Nat) : State × Bool :=
  let n := blockElems (s.curvB r g)
  let xs := s.hbmElems fmtFP32 src n
  let w := Bytes.readLe s.hbm.mem st 4
  if xs.any fun x => (fp32Of x).isNan || (fp32Of x).isInf then
    let s1 := s.ownWords 3 st [w % 2 ^ 16 + satAdd 16 (w / 2 ^ 16) 1 * 2 ^ 16]
    let s2 := s1.ownWords 3 (r + 0x5C) [s1.recField r 0x58 63 32 + 1]
    (s2.logCause { status := stOk, sev := 0, src := srcStep, unit := 0, tag := s.seqr.tag,
                   detail := [s.recField r 0 15 0, b2n g, blk, s.gbl.step.toNat] }, false)
  else
    let fs := s.hbmElems fmtFP32 dst n
    let vs := (xs.zip fs).map fun x =>
      foldElem (w % 2 == 1) (s.mem64 (r + 0x18)) (s.mem64 (r + 0x20)) (s.mem64 (r + 0x10)) x.1 x.2
    ((s.ownWords 3 dst vs).ownWords 3 st [w ||| 1], true)

/-- Base of a side's factors. -/
def State.factorBase (s : State) (r : Nat) (g : Bool) : Nat := if g then s.mem64 (r + 0x48) else s.mem64 (r + 0x40)

/-- Addresses of owned block i of a side: status word, factor. -/
def State.factorAt (s : State) (r : Nat) (g : Bool) (i : Nat) : Nat × Nat :=
  let base := s.factorBase r g
  (base + 4 * i, base + alignUp (4 * (s.curvOwned r g).2) 128 + 4 * blockElems (s.curvB r g) * i)

/-- Owned blocks of the enabled sides: side A before side G, ascending. -/
def State.ownedBlocks (s : State) (r : Nat) : List (Bool × Nat) :=
  [false, true].flatMap fun g => if s.curvOn r g then (List.range (s.curvOwned r g).2).map fun i => (g, i) else []

/-- Address of the staged statistic of an owned block: side A blocks first. -/
def State.stagedAt (s : State) (r : Nat) (g : Bool) (i : Nat) : Nat :=
  let before := if g && s.curvOn r false then (s.curvOwned r false).2 * blockElems (s.curvB r false) else 0
  s.mem64 (r + 0x38) + 4 * (before + i * blockElems (s.curvB r g))

/-- The fold of a layer: FOLDS rises when a block was folded, LAST_STEP is written after the last block (06 R180). -/
def State.foldLayer (s : State) (r : Nat) : State :=
  if s.gathers r then
    let x := (s.ownedBlocks r).foldl
      (fun (a : State × Bool) (gi : Bool × Nat) =>
        let f := s.factorAt r gi.1 gi.2
        let y := a.1.foldBlock r gi.1 ((s.curvOwned r gi.1).1 + gi.2) (s.stagedAt r gi.1 gi.2) f.2 f.1
        (y.1, a.2 || y.2)) (s, false)
    let s1 := if x.2 then x.1.ownWords 3 (r + 0x58) [x.1.recField r 0x58 31 0 + 1] else x.1
    s1.ownWord64 3 (r + 0x60) s.gbl.step.toNat
  else s

/-- Records in ascending layer. -/
def State.byLayer (s : State) (rs : List Nat) : List Nat :=
  rs.foldl
    (fun acc r =>
      let k (x : Nat) : Nat := s.recField x 0 15 0
      (acc.filter fun x => decide (k x ≤ k r)) ++ [r] ++ (acc.filter fun x => decide (k r < k x))) []

/-! ### The sweep (09 R250) -/

/-- What one element becomes: m, v, w. `dp` is the held direction, c the clip scale in FP32. -/
def sweepElem (k : OptConst) (mode : Bool) (c lr m v w g dp : Nat) : Nat × Nat × Nat :=
  let mv := k.moments m v (f32Mul g c)
  let dir := if mode then f32Mul dp c else k.direction mv
  (mv.1, mv.2, f32Sub w (f32Mul lr (f32Fma k.wd w dir)))

/-- The learning rate of the step. -/
def State.learnRate (s : State) (r : Nat) : Nat :=
  let i := Nat.min (s.gbl.step.toNat - s.mem64 (r + 0x20)) (s.recField r 0x18 31 0 - 1)
  Bytes.readLe s.hbm.mem (s.mem64 (r + 0x10) + 4 * i) 4

/-- One tensor: m, v and master written in turn, then the compute copy with its Glint partial. Answers with the count of
non-finite master elements. -/
def State.sweepTensor (s : State) (k : OptConst) (c lr r : Nat) : State × Nat :=
  let n := s.nown r
  let mom := s.mem64 (r + 0x18)
  let vAt := mom + alignUp (4 * n) 128
  let e (a i : Nat) : Nat := Bytes.readLe s.hbm.mem (a + 4 * i) 4
  let mode := s.recField r 0 16 16 == 1
  let xs := (List.range n).map fun i =>
    sweepElem k mode c lr (e mom i) (e vAt i) (e (s.mem64 (r + 0x10)) i) (e (s.mem64 (r + 0x20)) i)
      (if mode then e (s.mem64 (r + 0x28)) i else 0)
  let ws := xs.map (·.2.2)
  let s1 := ((s.ownWords 4 mom (xs.map (·.1))).ownWords 4 vAt (xs.map (·.2.1))).ownWords 4 (s.mem64 (r + 0x10)) ws
  (s1.writeCopy r ws, (ws.filter fun w => (fp32Of w).isNan || (fp32Of w).isInf).length)

/-- What the sweep does in turn: the folds of the layers, then the tensors in ascending TID. -/
def State.sweepItems (s : State) : List (Bool × Nat) :=
  (s.byLayer s.seqr.names.curv).map (fun r => (true, r)) ++ (s.urecs s.seqr.optRec).map fun r => (false, r)

/-- The end of the sweep: UNF where elements were non-finite, and ESEL flips. -/
def State.sweepDone (s : State) : State :=
  let r := s.seqr.optRec
  let n := s.seqr.unf
  let s := if n = 0 then s else s.ownWords 1 (r + 0x6C) [s.recField r 0x68 39 32 + satAdd 24 (s.recField r 0x68 63 40) n * 2 ^ 8]
  let w := s.recField r 0x40 31 0
  let s := s.ownWords 1 (r + 0x40) [setField w 16 16 (1 - field w 16 16)]
  { s with seqr := { s.seqr with phase := 8 } }

/-- The next fold or tensor of the sweep with clip scale c; the last ends it. -/
def State.sweepItem (s : State) (c : Nat) : State :=
  let items := s.sweepItems
  let i := s.seqr.sweepAt
  let s1 :=
    match items[i]? with
    | none => s
    | some (true, r) => s.foldLayer r
    | some (false, u) =>
      let o := s.seqr.optRec
      let x := s.sweepTensor (s.optConst o (s.mem64 (o + 0x48))) (cvtBits fmtFP32 fmtFP64 c) (s.learnRate o) u
      { x.1 with seqr := { x.1.seqr with unf := x.1.seqr.unf + x.2 } }
  let s2 : State := { s1 with seqr := { s1.seqr with sweepAt := i + 1 } }
  if items.length ≤ i + 1 then s2.sweepDone else s2

/-- Phase 7, on an applied step: a fold or a tensor, which is a replay point of the sweep. A stop falls between them (09 R251, R260). -/
def execUpdateSweep (s : State) : Host.Outcome State Fault Refusal :=
  match s.seqr.decision with
  | none => ok s
  | some d =>
    if s.stepGoes = true ∧ s.emits = true ∧ s.seqr.phase = 7 then ok (s.writes fun s => s.newPoint.sweepItem d.2.toNat) else ok s

end Sys2Proof.Machine
end

