-- ==== Sys2Proof/Machine/DigestOps.lean ====
section
/-!
DEFINITION. What the step sequencer does with digests (05 R156–R161, 08 R235, 14 R392), and Echo replay (05 R165).
-/

namespace Sys2Proof.Machine

/-- The program runs, unpaused, and no stop that ends it is announced. -/
def State.sequencerGoes (s : State) : Bool := s.programRuns && s.noStop && !s.gbl.paused

/-- The cycle of the step's schedule, for the part as a whole (07 R192, 08 R219). -/
def State.schedCycle (s : State) (tiles : List Nat) : Nat := s.cyclesOf (s.schedNow - s.lagOf tiles - s.prog.launch)

/-- A cycle of the schedule lies in a Penumbra slot. -/
def State.inSlot (s : State) (c : Nat) : Bool := s.seqr.names.slots.any fun p => decide (p.1 ≤ c ∧ c < p.2)

/-- Work of fixed length of a step run goes in a Penumbra slot; what a replay has held goes behind the replay section, and a program
without a step run has no slots (08 R219, R235). -/
def State.slotGoes (s : State) : Bool :=
  s.seqr.tag.isNone || decide (5 ≤ s.seqr.phase) || s.inSlot (s.schedCycle s.imageTiles)

/-! ### Collection (05 R156) -/

/-- The sum of the partials stored at HBM or tile-linear addresses. -/
def State.storedSum (s : State) (parts : List Nat) : Nat :=
  parts.foldl (fun a p => (a + leNat (s.linRead p 8)) % ldP) 0

/-- The partial that frozen drains of a tensor added (08 R235). -/
def State.frozenSum (s : State) (tid : Nat) : Nat := (s.seqr.frozenDig.filter (·.1 == tid)).foldl (fun a x => (a + x.2) % ldP) 0

/-- The addresses at which a tensor's descriptors place it. -/
def State.tensorAddrs (s : State) (tid : Nat) : List Nat :=
  s.tiles.flatMap fun c => c.2.dstore.filterMap fun x =>
    let d := descOf x.2
    if d.valid && d.tid == tid then
      (if d.space = 6 then some d.base else if d.space = 0 then some (2 ^ 63 + c.1 * 2 ^ 20 + d.base) else none)
    else none

/-- The digest of the single result that a collective with FP32 partials has delivered for a tensor: of a reduced gradient shard at the
update record's GRAD_BASE, of a layer output where a descriptor places it (05 R156, 09 R244). -/
def State.resultOf (s : State) (tid kind : Nat) : Option (Nat × Nat) :=
  let at_ := if kind = 4 then ((s.urecs s.seqr.optRec).filter fun r => s.recField r 0 15 0 == tid).map fun r => s.mem64 (r + 0x20)
    else if kind = 0 then s.tensorAddrs tid else []
  (s.seqr.results.find? fun x => at_.contains x.1).map (·.2)

/-- Partials are collected, summed, and logged: layer outputs (0), the input batch (3), a reduced gradient shard (4). Of a tensor that a
collective with FP32 partials delivered, the digest of that result is logged. An entry that a re-execution repeats is not written again
(14 R384). -/
def execDigestCollection (layer mb tid kind : Nat) (parts : List Nat) (len : Nat) (s : State) : Host.Outcome State Fault Refusal :=
  if s.sequencerGoes = true ∧ (kind = 0 ∨ kind = 3 ∨ kind = 4) ∧ (kind ≠ 0 ∨ s.slotGoes = true) then
    let res := s.resultOf tid kind
    let sum := match res with | some d => d.1 | none => s.storedSum parts
    let len := match res with | some d => d.2 | none => len
    let part := if kind = 0 ∧ res = none then (sum + ldP - s.frozenSum tid) % ldP else sum
    let s1 : State := if kind = 0 then { s with seqr := { s.seqr with frozenDig := s.seqr.frozenDig.filter (·.1 != tid) } } else s
    let s2 : State := if kind = 3 then
        { s1 with seqr := { s1.seqr with inDig := Sparse.set (2 ^ 64) s1.seqr.inDig tid (ldFinal part len) } } else s1
    ok (s2.digestOnce part layer mb tid kind 0 len)
  else ok s

/-! ### OWNER_DIGEST (05 R159) -/

/-- The carried partials of a tensor, finalised over its `len` words, go into its checked descriptors. -/
def execOwnerDigestWrite (tid len : Nat) (s : State) : Host.Outcome State Fault Refusal :=
  if s.sequencerGoes && s.slotGoes then
    let v := ldFinal (Sparse.get 0 s.seqr.carried tid) len
    let s1 := s.applyOwner tid v
    ok { s1 with seqr := { s1.seqr with owner := Sparse.set (2 ^ 64) s1.seqr.owner tid v, carried := Sparse.set 0 s1.seqr.carried tid 0 } }
  else ok s

/-! ### The check at a layer's end (05 R161, 14 R392) -/

/-- OWNER_DIGEST of a checked tensor. -/
def State.ownerOf (s : State) (tid : Nat) : Nat := Sparse.get 0 s.weightDigests tid

/-- A check that differs: recovery the first time, the end of the run the second time or when the owner's check failed. -/
def State.digestMismatch (s : State) (layer tid want got : Nat) : State :=
  if s.seqr.ownFail = true ∨ s.recov.digest = some (tid, layer) then
    { s with recov := { s.recov with digest := none } }.stopPart
      { status := stDigestEnded, sev := 2, src := srcStep, unit := 0, tag := s.prog.tag, detail := [tid, layer, want, got] }
  else
    { s with recov := { s.recov with digest := some (tid, layer) } }.recoverFault
      { status := stDigest, sev := 1, src := srcStep, unit := 0, tag := s.prog.tag, detail := [tid, layer, want, got] }
      (s.tiles.foldl (fun (m : Nat) (c : Nat × Tile) => Nat.max m c.2.seq.cycle) 0)

/-- The sum of a tensor's checked passes is finalised, compared and logged as KIND 1. -/
def execWeightStreamCheck (layer tid len : Nat) (s : State) : Host.Outcome State Fault Refusal :=
  if s.sequencerGoes then
    let part := Sparse.get 0 s.seqr.wsum tid
    let got := ldFinal part len
    let want := s.ownerOf tid
    let good := got == want
    let s1 : State := { s with seqr := { s.seqr with wsum := Sparse.set 0 s.seqr.wsum tid 0 } }
    let s2 := s1.digestOnce part layer 0xFFFF tid 1 (if good then 1 else 2) len
    if good then
      ok (if s2.recov.digest = some (tid, layer) then { s2 with recov := { s2.recov with digest := none } } else s2)
    else ok (s2.digestMismatch layer tid want got)
  else ok s

/-! ### Echo replay (05 R165; 12 R333) -/

/-- REPLAY up to the launch of its step: checkpoint, frames, compute copies, the checks, the batch, seed and step counter. -/
def State.beginReplay (s : State) (tag : Nat) (o : Op) (s0 : Nat) : State :=
  let step := o.word 0x18
  if s.launchable = false ∨ s.prog.plan = 0 ∨ step < s0 then s.stepsEnd tag [stInvalid]
  else
    let log := s.digestLog
    match (s.loadCheckpoint (o.word 0x08)).applyFrames (step - s0) s0 (o.word 0x10) [] with
    | .bad => s.stepsEnd tag [stDigestEnded]
    | .good s1 progs end_ =>
      if (progs ++ s.provDigests step).any fun p => p != s.prog.dig then s1.stepsEnd tag [stInvalid]
      else
        let s2 := (s1.urecs (s1.region 0).1).foldl State.deriveCopy s1
        if s2.weightsAgree log step = false then s2.stepsEnd tag [stDigestEnded]
        else if s2.batchAgrees (o.word 0x38) (log.filter fun e => e.kind == 3 && e.step == step) = false then
          s2.stepsEnd tag [stDigestEnded]
        else if s2.tb.state = .unlocked then s2.launchUnlocked tag
        else
          let params := s1.frameParams step end_
          let s3 := s2.placeBatch (o.word 0x38) step
          let seqr := { StepSeq.reset with
            tag := some tag
            s0 := BitVec.ofNat 64 step
            n := 1
            phase := 2
            intakeWait := s3.seqr.intakeWait
            spillHbm := s3.seqr.spillHbm
            spillHost := s3.seqr.spillHost
            overrun := s3.seqr.overrun
            optRec := (s3.region 0).1
            names := s3.seqr.names
            logHead := s3.dg.log.head
            params := params
            owner := s3.seqr.owner }
          { s3 with
            gbl := { s3.gbl with step := BitVec.ofNat 64 step }
            dg := { s3.dg with seed := BitVec.ofNat 128 (o.word 0x20 + o.word 0x28 * 2 ^ 64) }
            seqr := seqr }.beginLaunch tag 0

def execReplay (tag : Nat) (s0 : BitVec 64) (s : State) : Host.Outcome State Fault Refusal :=
  ok (s.startOp tag opReplay fun o s => s.beginReplay tag o s0.toNat)

end Sys2Proof.Machine
end

