-- ==== Sys2Proof/Machine/Dma.lean ====
section
/-!
DEFINITION. DMA_H2D, DMA_D2H and STATE_READ (12 R332, R335, R342, R343, R349), and the HBM aperture (12 R325).
-/

namespace Sys2Proof.Machine

/-! ### Moving bytes up to a denied page (12 R343) -/

/-- An operation may go on: it starts now, or it has started and waits for no page. -/
def State.goesOn (s : State) (tag opcode : Nat) : Option (Op × State) :=
  match s.op tag with
  | none => none
  | some o =>
    if o.opcode ≠ opcode then none
    else if o.phase = .fetched then
      if s.mayStart tag o then some (o, s.updOp tag fun o => { o with phase := .started }) else none
    else if o.phase = .started ∧ o.faultAt = none then some (o, s)
    else none

/-- Moves what can be moved of an operation of n bytes at a host address with `copy offset count`; then it finishes with
`done`, or waits at the faulting byte. -/
def State.moveBytes (s : State) (tag : Nat) (o : Op) (a n : Nat) (copy : Nat → Nat → State → State) (done : State → State) : State :=
  let b := ringPort o.ring
  let left := n - o.moved
  let r := (s.hp b).reach (a + o.moved) left
  let s := copy o.moved r.1 (s.translate b (a + o.moved) r.1)
  match r.2 with
  | some _ => s.pageRequest tag (a + o.moved + r.1) (o.moved + r.1)
  | none => done (s.updOp tag fun o => { o with moved := n })

/-- Host memory to HBM or the scratchpads. A tile-linear address while a program runs is refused (R332, R333). -/
def execDmaH2d (tag : Nat) (s : State) : Host.Outcome State Fault Refusal :=
  match s.goesOn tag opH2d with
  | none => ok s
  | some (o, s) =>
    let dev := o.word 0x10
    let n := o.field 0x18 39 0
    let host := o.word 0x08
    let b := ringPort o.ring
    if isTileLinear dev && s.programRuns then ok (s.endEarly tag [stInvalid])
    else
      ok (s.moveBytes tag o host n (fun off k s => s.linWrite (dev + off) (s.hostRead b (host + off) k))
        (fun s => s.finish tag [] (BitVec.ofNat 64 n)))

/-- HBM or the scratchpads to host memory; with PROV the provenance record follows the data (05 R162). -/
def execDmaD2h (tag : Nat) (s : State) : Host.Outcome State Fault Refusal :=
  match s.goesOn tag opD2h with
  | none => ok s
  | some (o, s) =>
    let dev := o.word 0x10
    let n := o.field 0x18 39 0
    let host := o.word 0x08
    let b := ringPort o.ring
    let prov := o.field 0x20 0 0 == 1
    if isTileLinear dev && s.programRuns then ok (s.endEarly tag [stInvalid])
    else
      let rec64 := s.provRecord (o.field 0x20 31 16) (ld64 (wordsOf (s.linRead dev n)))
      let all := if prov then n + 64 else n
      let copy (off k : Nat) (s : State) : State :=
        s.hostWrite b (host + off) ((s.linRead (dev + off) (Nat.min k (n - off)) ++ rec64.drop (off - n)).take k)
      ok (s.moveBytes tag o host all copy (fun s =>
        (if prov then s.writeProv rec64 else s).finish tag [] (BitVec.ofNat 64 all)))

/-- The view of a port's debug window (16 R444). -/
def State.view (s : State) (b : Bool) : Bool := if b then s.gbl.viewB else s.gbl.viewA

/-- The debug window to host memory; TORN when the step counter changes before the last unit. -/
def execStateRead (tag : Nat) (s : State) : Host.Outcome State Fault Refusal :=
  match s.goesOn tag opStateRead with
  | none => ok s
  | some (o, s) =>
    let off := o.field 0x10 31 0
    let n := o.field 0x18 32 0
    let host := o.word 0x08
    let b := ringPort o.ring
    let v := s.view b
    let first := if o.moved = 0 then s.gbl.step else o.result
    if s.debugBad v (off + o.moved) (n - o.moved) then ok (s.finish tag [stEccEnded] first)
    else
      let s := s.updOp tag fun o => { o with result := first, torn := decide (first ≠ s.gbl.step) || o.torn }
      ok ((s.moveBytes tag o host n (fun k m s => s.hostWrite b (host + k) (s.debugRead v (off + k) m))
        (fun s => s.finish tag [] first)).useFree 0x8000)

/-! ### The aperture (12 R325, 13 R360) -/

/-- The HBM address an aperture offset shows: HP_APER_BASE × 1 GiB onward. -/
def State.aperAddr (s : State) (b : Bool) (off : Nat) : Nat := (s.hp b).aper.toNat * 2 ^ 30 + off

/-- Bytes of the aperture: 16 GiB. -/
def aperSize : Nat := 2 ^ 34

def execApertureWrite (port : Bool) (off : Nat) (data : List Byte) (s : State) : Host.Outcome State Fault Refusal :=
  if s.ready = true ∧ off + data.length ≤ aperSize then ok (s.hbmWrite (s.aperAddr port off) data) else ok s

def execApertureRead (port : Bool) (off len : Nat) (s : State) : Host.Outcome State Fault Refusal :=
  if s.ready = true ∧ off + len ≤ aperSize then ok (s.emit (.aperture port (s.hbmRead (s.aperAddr port off) len))) else ok s

end Sys2Proof.Machine
end

