-- ==== Sys2Proof/Machine/Power.lean ====
section
/-!
DEFINITION. Loss of main power or clock, the thermal trip, AVS, SYSCLK, and the TAP (17 R463–R467, R473, R475).
-/

namespace Sys2Proof.Machine

/-! ### Loss of the main domain (17 R463, R465, R467, R475) -/

/-- The main domain is lost: tiles and ports stop, HBM and SRAM lose their contents, READY and MAIN_EN are low until the next
SYS_RST_N. Lantern stays on VDD_AUX33; an update in progress is left as at a power loss (log entry 65). -/
def State.mainOff (s : State) : State :=
  let c := s.cold
  { c with pins := { c.pins with faultForced := s.pins.faultForced, thermAlert := false }
           pwr := { c.pwr with phase := .down, noRetry := true, strapHeld := s.pwr.strapHeld }
           lan := { c.lan with eidI3c := s.lan.eidI3c, eidSmb := s.lan.eidSmb, tid := s.lan.tid, evRcv := s.lan.evRcv } }

/-- A sensor reaches 115 °C: the comparator latches THERMTRIP_N, which holds MAIN_EN and READY low. -/
def execThermtrip (s : State) : Host.Outcome State Fault Refusal :=
  if s.pins.aux then
    let c := s.mainOff
    ok { c with pins := { c.pins with thermTrip := true }, gbl := { c.gbl with rstCause := c.gbl.rstCause ||| 0b10000 } }
  else ok s

/-- What follows a loss of PWRGD_ALL: FAULT_N, and a record with SEV 3 and SRC 0x08 at the next start. -/
def State.powerLoss (s : State) : State :=
  let c := s.mainOff.defer 3 srcPower 0
  { c with pins := { c.pins with faultForced := true } }

/-- PWRGD_ALL falls while MAIN_EN is high. -/
def execPwrgdLoss (s : State) : Host.Outcome State Fault Refusal :=
  if s.pins.mainEn = true ∧ s.pins.pwrgd = true then ok s.powerLoss else ok { s with pins := { s.pins with pwrgd := false } }

/-- SYSCLK stops or leaves its limits: tiles and ports stop, MAIN_EN falls, FAULT_N is asserted. A loss that came with the loss
of PWRGD_ALL adds nothing. -/
def execSysclkLoss (s : State) : Host.Outcome State Fault Refusal :=
  if s.pins.mainEn then
    let c := s.mainOff
    ok { c with pins := { c.pins with faultForced := true } }
  else ok { s with pwr := { s.pwr with sysclk := false } }

/-- VDD_CORE out of band for more than 10 µs: as a loss of PWRGD_ALL. -/
def execVcoreOutOfRange (s : State) : Host.Outcome State Fault Refusal :=
  if s.pins.mainEn = true ∧ s.pins.pwrgd = true then ok s.powerLoss else ok s

/-- SYSCLK is stable: TB_COUNT advances from here. -/
def execSysclkStable (s : State) : Host.Outcome State Fault Refusal :=
  if s.pins.aux then ok { s with pwr := { s.pwr with sysclk := true } } else ok s

/-! ### AVS (17 R464, R465) -/

/-- Counts of 1 ms. -/
def avsPeriod : Nat := 1000000

/-- A change the power controller may ask for: within 0.68–0.88 V, at most 10 mV, at most once per 1 ms. -/
def State.avsAllowed (s : State) (mv : Nat) : Bool :=
  s.pins.pwrgd && !s.pwr.avsStopped && decide (680 ≤ mv ∧ mv ≤ 880 ∧ mv ≤ s.pwr.vcore + 10 ∧ s.pwr.vcore ≤ mv + 10)
    && decide (s.pwr.avsLast + avsPeriod ≤ s.tb.count)

/-- An AVSBus transaction fails; the third in a row stops changes, with a record. -/
def State.avsFailed (s : State) : State :=
  let n := s.pwr.avsFails + 1
  let s := { s with pwr := { s.pwr with avsFails := n } }
  if 3 ≤ n ∧ s.pwr.avsStopped = false then
    let s := { s with pwr := { s.pwr with avsStopped := true } }
    s.logCause { status := stOk, sev := 1, src := srcPower, unit := 0, tag := none, detail := [s.pwr.vcore] }
  else s

/-- The power controller writes a new target; tiles and clock are not touched. -/
def execAvsAdjust (mv : Nat) (good : Bool) (s : State) : Host.Outcome State Fault Refusal :=
  if s.avsAllowed mv then
    let s := s.emit (.avs mv)
    if good then ok { s with pwr := { s.pwr with vcore := mv, avsFails := 0, avsLast := s.tb.count } }
    else ok s.avsFailed
  else ok s

/-- The retry, once per second, of a controller that has stopped. -/
def execAvsRetry (good : Bool) (s : State) : Host.Outcome State Fault Refusal :=
  if s.pins.pwrgd = true ∧ s.pwr.avsStopped = true then
    let s := s.emit (.avs s.pwr.vcore)
    if good then ok { s with pwr := { s.pwr with avsStopped := false, avsFails := 0, avsLast := s.tb.count } } else ok s
  else ok s

/-! ### The TAP (17 R473) -/

/-- IDCODE. -/
def State.idcode (s : State) : BitVec 32 := BitVec.ofNat 32 (b2n s.fuse.b0 * 2 ^ 28 + 0x0A09 * 2 ^ 12 + 0x001)

/-- Levels of the balls that a scan names. -/
def scanBits (level : Nat → Bool) (balls : List (Nat × Bool)) : BitVec 32 :=
  BitVec.ofNat 32 (((List.range balls.length).zip balls).foldl
    (fun (n : Nat) (c : Nat × Nat × Bool) => n + b2n (level c.2.1) * 2 ^ c.1) 0)

/-- An instruction is taken. IDCODE and BYPASS shift their register out; SAMPLE/PRELOAD captures the balls named and loads the
boundary register; EXTEST and CLAMP drive the outputs from it, HIGHZ releases them. The TAP is in the IO18 domain. -/
def execTapInstruction (op : TapOp) (balls : List (Nat × Bool)) (s : State) : Host.Outcome State Fault Refusal :=
  if s.pins.mainEn then
    let t := { s.tap with ir := op }
    match op with
    | .bypass => ok ({ s with tap := { t with dr := 0, hiz := false } }.emit (.tdo 0))
    | .idcode => ok ({ s with tap := { t with dr := s.idcode, hiz := false } }.emit (.tdo s.idcode))
    | .sample =>
      let v := scanBits (Config.ballLevel s.free) balls
      ok (({ s with tap := { t with dr := v, balls := balls, hiz := false } }.emit (.tdo v)).useFree 1)
    | .extest =>
      let v := scanBits (Config.ballLevel s.free) balls
      ok (({ s with tap := { t with dr := v, balls := balls, hiz := false } }.emit (.tdo v)).useFree 1)
    | .highz => ok ({ s with tap := { t with dr := 0, hiz := true } }.emit (.tdo 0))
    | .clamp => ok ({ s with tap := { t with dr := 0, hiz := false } }.emit (.tdo 0))
  else ok s

end Sys2Proof.Machine
end

