-- ==== Sys2Proof/Machine/Preempt.lean ====
section
/-!
DEFINITION. PREEMPT with its save and resume, ABORT, and SNAPSHOT (12 R344–R346, R350, R352; 11 R301, R302; 08 R236).
-/

/-- The bytes of a SNAPSHOT section: which state a class holds is given (12 R350), how it lies in the section is not (log
entry 43). -/
opaque Sys2Proof.Config.snapSection : Nat → Sys2Proof.Machine.State → List (BitVec 8)

/-- The bytes of the save area: what it holds is given (12 R346), its layout is not (log entry 92). -/
opaque Sys2Proof.Config.saveImage : Sys2Proof.Machine.Saved → List (BitVec 8)

namespace Sys2Proof.Machine

/-! ### PREEMPT (12 R344) -/

/-- PREEMPT of the loaded program's header (04 R107). -/
def State.preemptible (s : State) : Bool := bitAt (Bytes.readLe s.prog.header 0x008 8) 3

/-- A pre-emption stop is under way. -/
def State.preempting (s : State) : Bool := match s.ag.stop with | none => false | some n => n.pre

/-- The ring of a PREEMPT is remembered: its descriptors are the urgent work (12 R345). -/
def State.urgentRing (s : State) (n : Nat) : State :=
  { s with ag := { s.ag with preRings := if s.ag.preRings.contains n then s.ag.preRings else s.ag.preRings ++ [n] } }

/-- PREEMPT: refused outside class 0; done at once, with RESULT 0, when no program runs or one is pre-empted already; else a stop
of the domain at a safe point is announced; a program that is not pre-emptible is waited for. -/
def State.preempt (s : State) (tag : Nat) (o : Op) : State :=
  if o.cls ≠ 0 then s.finishOpen tag [stInvalid]
  else if s.saved.isSome then (s.urgentRing o.ring).finish tag [] 0
  else if s.programRuns = false then s.finish tag [] 0
  else if s.preempting then s.urgentRing o.ring
  else if s.preemptible then
    (({ s with ag := { s.ag with preTag := some tag } }).urgentRing o.ring).announceStop stPreempted true
  else s

/-- PREEMPT, or the end of its wait for a program that is not pre-emptible: OK and RESULT 0. -/
def execPreempt (tag : Nat) (s : State) : Host.Outcome State Fault Refusal :=
  match s.op tag with
  | none => ok s
  | some o =>
    if o.opcode = opPreempt ∧ o.phase = .started ∧ s.preempting = false ∧ s.programRuns = false then ok (s.finish tag [] 0)
    else ok (s.startOp tag opPreempt fun o s => s.preempt tag o)

/-! ### The save and the resume (12 R345, R346; 13 R376; 11 R302) -/

/-- A tile stopped at a safe point, or a step run between sections. -/
def State.someStopped (s : State) : Bool := s.seqr.tag.isSome || s.tiles.any fun c => c.2.seq.run == .stopped

/-- Every index engine is done with its command. -/
def State.enginesIdle (s : State) : Bool := s.ix.all fun c => c.2.cmd.isNone

/-- PREEMPT operations that wait for the save. -/
def State.preemptOps (s : State) : List Nat :=
  (s.opList.filter fun x => x.2.opcode == opPreempt && decide (x.2.phase = .started)).map (·.1)

/-- The save area: the lowest 1,472 MiB of Lantern's reserved 2 GiB, and the bytes a save writes there (12 R346, 14 R379). -/
def saveBase : Nat := 510 * 2 ^ 30
def saveSize : Nat := 1537277952

/-- The save is complete: tile state and router state are kept, the program's operation becomes Held with PREEMPTED, and
PREEMPT completes with OK. The RESULT of either record is open (log entry 44). A recovery runs first (14 R395). -/
def execPreemptSaveComplete (s : State) : Host.Outcome State Fault Refusal :=
  match s.prog.tag with
  | none => ok s
  | some tag =>
    if s.preempting && s.ag.drain && s.tilesQuiet && s.someStopped && s.accessesDone && s.enginesIdle && !s.recov.active then
      let seqr := if s.seqr.phase = 2 then { s.seqr with phase := 1, intakeFrom := some s.tb.count } else s.seqr
      let v : Saved := { tiles := s.tiles, ix := s.ix, prog := s.prog, colls := s.coll.runs, buf := s.coll.buf, pos := s.coll.pos,
                         thr := s.coll.thr, due := s.coll.due, round := s.coll.round, seqr := seqr, plan := s.hbm.plan, since := s.tb.count,
                         recov := s.recov }
      let s0 := s.hbmWrite saveBase ((Config.saveImage v).take saveSize)
      let s1 := { s0 with
        saved := some v
        ag := { s.ag with stop := none, drain := false, preTag := none, savedTag := some tag,
                          launch := if s.seqr.tag = some tag then none else s.ag.launch }
        prog := { s.prog with tag := none }
        seqr := { s.seqr with tag := none, phase := 0 } }
      let s2 := s.preemptOps.foldl (fun (s : State) t => s.finishOpen t []) s1
      ok ((s2.hold tag stPreempted s2.freeVal).useFree 1)
    else ok s

/-- The urgent work is over: no urgent ring has a pending descriptor and no class-0 operation is in flight but the pre-empted
program's own. -/
def State.urgentOver (s : State) : Bool :=
  (s.ag.preRings.all fun n => let w := s.work n; !w.enabled || decide (w.prod ≤ w.head))
    && s.opList.all fun x => x.2.cls != 0 || s.ag.savedTag == some x.1

/-- The operation of a pre-empted program: its Held record is written, or still waits for room. -/
def Op.preempted (o : Op) : Bool :=
  match o.phase with
  | .held st => st == stPreempted
  | .holding st _ => st == stPreempted
  | _ => false

/-- The pre-empted program is restored from its image and the save area, and the domain resumes at an agreed count: its tiles, its
collectives with their position, thresholds and round, its step, its accesses and its replay records (log entry 92). Schedule time stood
meanwhile (07 R203). -/
def execPreemptResume (s : State) : Host.Outcome State Fault Refusal :=
  match s.saved, s.ag.savedTag with
  | some v, some tag =>
    let held := match s.op tag with | none => false | some o => o.preempted
    if held && s.urgentOver && s.prog.tag.isNone && !s.recov.active then
      let wake (_ : Nat) (x : Tile) : Tile :=
        if x.seq.run = .stopped then { x with seq := { x.seq with run := .running } } else x
      let s := s.updOp tag fun o => { o.owing with phase := .started }
      let s := { s with
        saved := none, tiles := Sparse.mapVals Tile.reset wake v.tiles, ix := v.ix
        prog := { v.prog with tag := some tag, paused := v.prog.paused + (s.tb.count - v.since) }
        coll := { s.coll with runs := v.colls, buf := v.buf, pos := v.pos, thr := v.thr, due := v.due, round := v.round }
        seqr := v.seqr
        hbm := { s.hbm with plan := v.plan }
        recov := v.recov
        gbl := { s.gbl with prog := 2, paused := true, progId := BitVec.ofNat 64 (Bytes.readLe v.prog.header 0 8) }
        ag := { s.ag with savedTag := none, preRings := [], pause := some (s.tb.count, s.partNo) } }
      ok s.announceResume
    else ok s
  | _, _ => ok s

/-! ### ABORT (12 R352, 08 R236) -/

/-- Releases what an operation holds: a WAIT its ring; one that a translation fault holds, its ring when no other is held there, and
its record; a page request of it is no longer awaited. -/
def State.release (s : State) (tag : Nat) (o : Op) : State :=
  let s := s.updOp tag fun o => { o with faultAt := none, recHeld := false }
  let w := s.work o.ring
  if o.opcode = opWait then s.setWork o.ring { w with waiting := false, wcyc := false }
  else if o.faulted && (s.faultedOps o.ring).all fun x => x.1 == tag then s.setWork o.ring { w with xfault := false }
  else s

/-! ### SNAPSHOT's hold of the tiles (12 R350; log entry 45) -/

/-- The running program's operation is RUN_STEPS. -/
def State.stepsRun (s : State) : Bool :=
  match s.prog.tag with
  | none => false
  | some tag => match s.op tag with | none => false | some o => o.opcode == opRunSteps

/-- Every tile that has not ended is held at a safe point. -/
def State.allAtSafe (s : State) : Bool :=
  s.tiles.all fun c => match c.2.seq.run with | .atSafe _ => true | r => !r.live

/-- Another SNAPSHOT still waits for its point. -/
def State.otherSnapshot (s : State) (tag : Nat) : Bool :=
  s.opList.any fun x => x.1 != tag && x.2.opcode == opSnapshot && x.2.todo && decide (x.2.phase = .started)

/-- A SNAPSHOT needs the tiles no longer: they go on at a resume count when a pause holds the domain, and now otherwise. -/
def State.endSnapHold (s : State) (tag : Nat) : State :=
  if s.ag.snapAt.isNone || s.otherSnapshot tag then s
  else if s.gbl.paused || s.ag.pause.isSome then
    let s := { s with ag := { s.ag with snapAt := none } }
    if s.pauseHolds then s else s.announceResume
  else s.releaseAll s.tb.count

/-- RUN_STEPS in its sweep or emission: phases 7 and 8. -/
def State.inSweep (s : State) (tag : Nat) : Bool := decide (s.seqr.tag = some tag ∧ 7 ≤ s.seqr.phase ∧ s.seqr.phase ≤ 8)

/-- The end of a pre-empted program's operation that is aborted: RESULT of a LAUNCH_AT is its launch count. -/
def State.endSaved (s : State) (tag : Nat) (o : Op) : State :=
  if o.opcode = opLaunch then s.finish tag [stAborted] o.result else s.endEarly tag [stAborted]

/-- ABORT of one operation. A pre-empted program's saved state is discarded; a running one stops the domain, a step run in its
sweep ends with its step; every other operation ends where it is. -/
def State.abortOp (s : State) (tag : Nat) : State :=
  match s.op tag with
  | none => s
  | some o =>
    if o.ovf then s
    else if s.ag.savedTag = some tag then
      ({ s with saved := none, ag := { s.ag with savedTag := none, preRings := [] }
                gbl := { s.gbl with prog := if s.prog.tag.isSome then s.gbl.prog else 1 } }).endSaved tag o
    else if s.prog.tag = some tag then
      if s.inSweep tag then { (s.addStatusTo tag stAborted) with ag := { s.ag with abortEnd := true } }
      else (s.addStatus stAborted).announceStop stAborted false
    else
      let launching := match s.ag.launch with | none => false | some l => l.tag == tag
      let s := if launching then { s with ag := { s.ag with launch := none, ready := [] } } else s
      let s := if s.seqr.tag = some tag then { s with seqr := { s.seqr with tag := none, phase := 0 } } else s
      let s := if o.opcode = opSnapshot then s.endSnapHold tag else s
      (s.release tag o).endEarly tag [stAborted]

def execAbort (tag : Nat) (s : State) : Host.Outcome State Fault Refusal :=
  match s.op tag with
  | none => ok s
  | some o =>
    if o.field 0x08 12 12 = 0 then
      ok (s.startOp tag opAbort fun o s => (s.abortOp (o.field 0x08 11 0)).finishOpen tag [])
    else ok s

/-- ABORT with ALL: every operation fetched from ring RING but the ABORT itself. -/
def execAbortAll (tag : Nat) (s : State) : Host.Outcome State Fault Refusal :=
  match s.op tag with
  | none => ok s
  | some o =>
    if o.field 0x08 12 12 = 1 then
      ok (s.startOp tag opAbort fun o s =>
        let ts := (s.opList.filter fun x => x.2.ring == o.field 0x08 19 13 && x.1 != tag).map (·.1)
        (ts.foldl State.abortOp s).finishOpen tag [])
    else ok s

/-! ### SNAPSHOT (12 R350) -/

/-- The sections of an image: class and bytes, in ascending class. Accumulators and sets show only in debug mode. -/
def State.snapSections (s : State) (mask : Nat) : List (Nat × List Byte) :=
  ((List.range 8).filter fun k => bitAt mask k).map fun k =>
    (k, if k = 6 ∧ s.debugProg = false then [] else Config.snapSection k s)

/-- Bytes as 32-bit words, for a section's digest. -/
def sectionDigest (bs : List Byte) : Nat := ld64 (wordsOf bs)

/-- The section entries: class, offset, length, digest. -/
def snapEntries : Nat → List (Nat × List Byte) → List (List Byte)
  | _, [] => []
  | off, (k, bs) :: l =>
    (leBytes 8 k ++ leBytes 8 off ++ leBytes 8 bs.length ++ leBytes 8 (sectionDigest bs)) :: snapEntries (off + bs.length) l

/-- The 64-byte header. -/
def State.snapHeader (s : State) (secs : List (Nat × List Byte)) : List Byte :=
  leBytes 8 1 ++ leBytes 8 s.gbl.step.toNat ++ leBytes 8 s.tb.count ++ leBytes 8 s.gbl.progId.toNat ++ leBytes 8 secs.length
    ++ leBytes 8 (ld64Pairs (secs.map fun x => sectionDigest x.2)) ++ List.replicate 16 0

/-- The image of the state as it stands. -/
def State.snapImage (s : State) (mask : Nat) : List Byte :=
  let secs := s.snapSections mask
  s.snapHeader secs ++ (snapEntries (64 + 32 * secs.length) secs).flatten ++ (secs.map (·.2)).flatten

/-- Writes the image, or what is left of it, to its destination. -/
def State.moveImage (s : State) (tag : Nat) (o : Op) : State :=
  let n := o.image.length
  let dest := o.word 0x08
  let st : List (BitVec 8) := if o.word 0x10 < o.result.toNat then [stCapacity] else []
  let result := if o.word 0x10 < o.result.toNat then o.result - BitVec.ofNat 64 (o.word 0x10) else o.result
  if o.field 0x18 8 8 = 1 then
    let b := ringPort o.ring
    s.moveBytes tag o dest n (fun off k s => s.hostWrite b (dest + off) ((o.image.drop off).take k)) (fun s => s.finish tag st result)
  else (s.linWrite dest o.image).finish tag st result

/-- The image is taken: whole, or only its header when it is longer than DEST_LEN. Tiles held for it go on. -/
def State.takeSnapshot (s : State) (tag : Nat) (o : Op) : State :=
  let img := s.snapImage (o.field 0x18 7 0)
  let part := if o.word 0x10 < img.length then img.take 64 else img
  let o := { o with todo := false, image := part, result := BitVec.ofNat 64 img.length, phase := .started }
  ((s.setOp tag (some o)).moveImage tag o).endSnapHold tag

/-- The point at which a SNAPSHOT takes its image: no program runs; the end of a step of RUN_STEPS; a coordinated pause with every
tile of another pre-emptible program at a safe point (log entry 45). -/
def State.snapshotPoint (s : State) : Bool :=
  if s.programRuns = false then true
  else if s.stepsRun then decide (s.seqr.phase ≤ 1)
  else s.preemptible && s.gbl.paused && s.ag.snapAt.isSome && s.allAtSafe

/-- A SNAPSHOT on its way to its point: tiles of a pre-emptible program other than RUN_STEPS hold at the first safe point from an
announced count on, and the domain is paused once all do. -/
def State.seekPoint (s : State) : State :=
  if s.stepsRun || !s.preemptible then s
  else if s.ag.snapAt.isNone then { s with ag := { s.ag with snapAt := some s.announceCount } }
  else if s.allAtSafe && !s.gbl.paused && s.ag.pause.isNone then s.announcePause
  else s

/-- SNAPSHOT starts: its image is taken at once, or it waits for its point. -/
def execSnapshot (tag : Nat) (s : State) : Host.Outcome State Fault Refusal :=
  match s.op tag with
  | none => ok s
  | some o =>
    if o.opcode = opSnapshot ∧ o.phase = .started ∧ o.todo = false ∧ o.faultAt = none then ok (s.moveImage tag o)
    else
      ok (s.startOp tag opSnapshot fun o s =>
        if s.snapshotPoint then s.takeSnapshot tag o else s.seekPoint)

/-- A SNAPSHOT that waits: its image is taken at its point. -/
def execSnapshotTake (tag : Nat) (s : State) : Host.Outcome State Fault Refusal :=
  match s.op tag with
  | none => ok s
  | some o =>
    if o.opcode = opSnapshot ∧ o.phase = .started ∧ o.todo = true then
      ok (if s.snapshotPoint then s.takeSnapshot tag o else s.seekPoint)
    else ok s

end Sys2Proof.Machine
end

