-- ==== Sys2Proof/Machine/Matrix.lean ====
section
/-!
DEFINITION. Matrices of root and solve jobs (07 R194–R199, R207, R208): FP64 values, slice products by exact spans (02 R57–R73),
the packed order (06 R171, R177), Cholesky, triangular solves, norms. Where the manual gives no order of the vector operations of a
block, log entry 53 does.
-/

namespace Sys2Proof.Machine

/-- Rows of FP64 values. -/
abbrev Mat := List (List Nat)

def Mat.at_ (m : Mat) (i j : Nat) : Nat := (m.getD i []).getD j 0

def Mat.put (m : Mat) (i j v : Nat) : Mat := m.set i ((m.getD i []).set j v)

/-- The matrix of a function. -/
def Mat.make (r c : Nat) (f : Nat → Nat → Nat) : Mat := (List.range r).map fun i => (List.range c).map fun j => f i j

def Mat.transpose (m : Mat) (c : Nat) : Mat := Mat.make c m.length fun i j => m.at_ j i

def identity (n : Nat) : Mat := Mat.make n n fun i j => if i = j then one64 else 0

def f64Neg (x : Nat) : Nat := negBits fmtFP64 x
def f64Abs (x : Nat) : Nat := magBits fmtFP64 x

/-- a ≤ b, false when either is NaN. -/
def f64Le (a b : Nat) : Bool := (fpCmp .le true fmtFP64 a b).1 != 0

def f64Bad (x : Nat) : Bool := (fp64Of x).isNan || (fp64Of x).isInf

/-- 2^−k. -/
def twoNeg (k : Nat) : Nat := (1023 - k) * 2 ^ 52

/-- A small integer as FP64. -/
def f64Of (n : Nat) : Nat := (roundFloat fmtFP64 .rne false n 0 false 0).bits

/-! ### Slice products (07 R196; 01 R24, R25) -/

/-- One entry of a span whose inputs come 64 at a time; also whether it reached the limit. `last` saturates it instead. -/
def spanEntry (cls : Nat) (w : Int) (last : Bool) (row col : List FVal) : AccEntry × Bool :=
  ((chunksOf 64 row).zip (chunksOf 64 col)).foldl
    (fun a rc =>
      let c := columnSum cls w rc.2 rc.1
      if a.1.overflows c then (if last then a.1.saturate c else a.1.store c, true) else (a.1.store c, a.2))
    (AccEntry.opened, false)

/-- A block of a product at window exponent w, drained to FP32 or FP64 with RNE, as FP64 values; and whether it overflowed. -/
def spanAt (cls d : Nat) (w : Int) (last : Bool) (rows cols : List (List FVal)) : Mat × Bool :=
  let es := rows.map fun r => cols.map fun c => spanEntry cls w last r c
  (es.map fun r => r.map fun e => cvtBits fmtFP64 d (drainEntry d .rne false w e.1).1, es.any fun r => r.any (·.2))

/-- A block of a product with its replays: W = −96, and 32 more after each overflow, three times; then saturation (02 R64–R70). -/
def spanBlock (cls d : Nat) (rows cols : List (List FVal)) : Mat × Bool :=
  let a := spanAt cls d (-96) false rows cols
  if a.2 then
    let b := spanAt cls d (-64) false rows cols
    if b.2 then
      let c := spanAt cls d (-32) false rows cols
      if c.2 then spanAt cls d 0 true rows cols else (c.1, false)
    else (b.1, false)
  else (a.1, false)

/-- The operand format of a precision: FP32-slice or FP64-slice. -/
def precFmt (prec : Nat) : Nat := if prec = 1 then fmtFP64 else fmtFP32

def precCls (prec : Nat) : Nat := if prec = 1 then 3 else 2

/-- Operands of a slice product. -/
def precVals (prec : Nat) (l : List Nat) : List FVal :=
  l.map fun x => if prec = 1 then fp64Of x else fp32Of (cvtBits fmtFP32 fmtFP64 x)

/-- A B, block by block of 64 × 64; and whether any block saturated. The columns of B are given. -/
def mulCols (prec : Nat) (a : Mat) (bcols : List (List Nat)) : Mat × Bool :=
  let rs := chunksOf 64 (a.map (precVals prec))
  let cs := chunksOf 64 (bcols.map (precVals prec))
  let bs := rs.map fun r => cs.map fun c => spanBlock (precCls prec) (precFmt prec) r c
  let rowsOf (l : List (Mat × Bool)) : Mat :=
    match l with
    | [] => []
    | x :: xs => xs.foldl (fun m y => List.zipWith (· ++ ·) m y.1) x.1
  (bs.flatMap rowsOf, bs.any fun r => r.any (·.2))

/-- The product of two matrices, drained once. -/
def matMul (prec : Nat) (a b : Mat) : Mat × Bool := mulCols prec a (b.transpose (b.headD []).length)

/-! ### Packed order (06 R171, R177) -/

/-- Position of sub-block (p, q), p ≤ q, of nb sub-blocks a side. -/
def subIndex (nb p q : Nat) : Nat := p * nb - p * (p - 1) / 2 + (q - p)

/-- Position of element (i, j) of a symmetric block in packed order. -/
def packedIndex (nb i j : Nat) : Nat :=
  if i / 64 ≤ j / 64 then subIndex nb (i / 64) (j / 64) * 4096 + i % 64 * 64 + j % 64
  else subIndex nb (j / 64) (i / 64) * 4096 + j % 64 * 64 + i % 64

/-- A block of size b from its packed elements. -/
def unpackSym (b : Nat) (l : List Nat) : Mat := Mat.make b b fun i j => l.getD (packedIndex (b / 64) i j) 0

/-- The packed upper part of a block: its sub-blocks (p, q) with p ≤ q, element (i, j) of a diagonal one being the iterate's element of
the upper triangle, so that what is stored is exactly symmetric (07 R190; DEDUCED, log entry 53). -/
def packSym (b : Nat) (m : Mat) : List Nat :=
  (List.range (b / 64)).flatMap fun p => (List.range (b / 64 - p)).flatMap fun k =>
    (List.range 64).flatMap fun i => (List.range 64).map fun j =>
      m.at_ (Nat.min (64 * p + i) (64 * (p + k) + j)) (Nat.max (64 * p + i) (64 * (p + k) + j))

/-! ### Norms -/

/-- The sum of squares of rows: each tile adds the RED.SSQ of its rows, then tiles in ascending order. -/
def sumSquares (tileOf : Nat → Nat) (m : Mat) : Nat :=
  let rows := (List.range m.length).zip m
  let tiles := ascendingOf (rows.map fun r => tileOf r.1)
  let part (t : Nat) : Nat :=
    ((rows.filter fun r => tileOf r.1 == t).map fun r => (redSsqOf true fmtFP64 r.2).1).foldl f64Add 0
  (tiles.map part).foldl f64Add 0
where
  ascendingOf (l : List Nat) : List Nat := (List.range 1024).filter fun t => l.any fun x => x % 1024 == t

def frobenius (tileOf : Nat → Nat) (m : Mat) : Nat := f64Sqrt (sumSquares (fun i => tileOf i % 1024) m)

/-- The largest diagonal element. -/
def maxDiag (m : Mat) : Nat :=
  match (List.range m.length).map fun i => m.at_ i i with
  | [] => 0
  | x :: l => l.foldl (fun a b => (fpMaxMin true true fmtFP64 a b).1) x

/-! ### Cholesky (07 R194, R197, R208) -/

/-- A factorisation in progress: the matrix (L in its lower part), pivots flagged or replaced, stopped at one, saturation. -/
structure Chol where
  mat : Mat
  piv : List Nat
  stop : Bool
  sat : Bool
  deriving DecidableEq, Repr, Inhabited

/-- A pivot test: d < τ × m or NaN. -/
def flagged (limit d : Nat) : Bool := (fp64Of d).isNan || f64Lt d limit

/-- One column j of the diagonal block that ends at hi. A flagged pivot stops the probe, or is replaced by the limit. -/
def cholColumn (limit : Nat) (modify : Bool) (hi j : Nat) (c : Chol) : Chol :=
  if c.stop then c
  else
    let d := c.mat.at_ j j
    let bad := flagged limit d
    if bad && !modify then { c with piv := c.piv ++ [j], stop := true }
    else
      let l := f64Sqrt (if bad then limit else d)
      let m := c.mat.put j j l
      let m := (List.range (hi - (j + 1))).foldl (fun m k => m.put (j + 1 + k) j (f64Div (m.at_ (j + 1 + k) j) l)) m
      let m := (List.range (hi - (j + 1))).foldl
        (fun m k => (List.range (k + 1)).foldl
          (fun m q => m.put (j + 1 + k) (j + 1 + q)
            (f64Fma (f64Neg (m.at_ (j + 1 + k) j)) (m.at_ (j + 1 + q) j) (m.at_ (j + 1 + k) (j + 1 + q)))) m) m
      { c with mat := m, piv := if bad then c.piv ++ [j] else c.piv }

/-- Row i of a panel: X L(J,J)ᵀ = A, columns lo to hi ascending. -/
def panelRow (lo hi i : Nat) (m : Mat) : Mat :=
  (List.range (hi - lo)).foldl
    (fun m c =>
      let x := (List.range c).foldl (fun a k => f64Fma (f64Neg (m.at_ i (lo + k))) (m.at_ (lo + c) (lo + k)) a) (m.at_ i (lo + c))
      m.put i (lo + c) (f64Div x (m.at_ (lo + c) (lo + c)))) m

/-- A − L Lᵀ for the rows and columns from hi on, lower part: each 64 × 64 block is one span, [A | −L] × [I ; Lᵀ]. -/
def cholTrail (prec lo hi : Nat) (m : Mat) : Mat × Bool :=
  let n := m.length
  let rest := (List.range (n - hi)).map (hi + ·)
  let blocks := chunksOf 64 rest
  let low := (List.range (hi - lo)).map (lo + ·)
  let upd (ms : Mat × Bool) (ik : List Nat × List Nat) : Mat × Bool :=
    let rows := ik.1.map fun i =>
      precVals prec (ik.2.map fun k => if k ≤ i then ms.1.at_ i k else ms.1.at_ k i) ++ precVals prec (low.map fun c => f64Neg (ms.1.at_ i c))
    let cols := ik.2.map fun k => precVals prec (ik.2.map fun q => if q = k then one64 else 0) ++ precVals prec (low.map fun c => ms.1.at_ k c)
    let r := spanBlock (precCls prec) (precFmt prec) rows cols
    let put (m : Mat) (a : Nat × Nat) : Mat := m.put a.1 a.2 (r.1.at_ (a.1 - ik.1.headD 0) (a.2 - ik.2.headD 0))
    ((ik.1.flatMap fun i => (ik.2.filter fun k => decide (k ≤ i)).map fun k => (i, k)).foldl put ms.1, ms.2 || r.2)
  let pairs := blocks.flatMap fun i => (blocks.filter fun k => decide (k.headD 0 ≤ i.headD 0)).map fun k => (i, k)
  pairs.foldl upd (m, false)

/-- One panel of the blocked right-looking factorisation. -/
def cholPanel (prec limit : Nat) (modify : Bool) (c : Chol) (b : Nat) : Chol :=
  let n := c.mat.length
  let lo := 64 * b
  let hi := Nat.min n (lo + 64)
  let c := (List.range (hi - lo)).foldl (fun c k => cholColumn limit modify hi (lo + k) c) c
  if c.stop then c
  else
    let m := (List.range (n - hi)).foldl (fun m k => panelRow lo hi (hi + k) m) c.mat
    let t := cholTrail prec lo hi m
    { c with mat := t.1, sat := c.sat || t.2 }

/-- The factorisation of A with pivot limit τ × m. -/
def cholesky (prec limit : Nat) (modify : Bool) (a : Mat) : Chol :=
  (List.range (ceilDiv a.length 64)).foldl (cholPanel prec limit modify) { mat := a, piv := [], stop := false, sat := false }

/-- L alone. -/
def lowerOf (m : Mat) : Mat := Mat.make m.length m.length fun i j => if j ≤ i then m.at_ i j else 0

/-- x with L x = y, rows ascending. -/
def forwardSolve (l : Mat) (y : List Nat) : List Nat :=
  (List.range l.length).foldl
    (fun xs i =>
      let v := (List.range i).foldl (fun a k => f64Fma (f64Neg (l.at_ i k)) (xs.getD k 0) a) (y.getD i 0)
      xs ++ [f64Div v (l.at_ i i)]) []

/-- x with Lᵀ x = y, rows descending. -/
def backSolve (l : Mat) (y : List Nat) : List Nat :=
  let n := l.length
  (List.range n).foldl
    (fun xs j =>
      let i := n - 1 - j
      let v := (List.range j).foldl (fun a k => f64Fma (f64Neg (l.at_ (i + 1 + k) i)) (xs.getD k 0) a) (y.getD i 0)
      f64Div v (l.at_ i i) :: xs) []

/-- L^(−1) by blocked forward substitution, block columns ascending: below the diagonal block, the sum of products is one span,
then the diagonal block of L is solved for. -/
def lowerInverse (prec : Nat) (l : Mat) : Mat × Bool :=
  let n := l.length
  let nb := ceilDiv n 64
  let idx (b : Nat) : List Nat := (List.range (Nat.min n (64 * b + 64) - 64 * b)).map (64 * b + ·)
  let block (m : Mat) (i j : Nat) : Mat := (idx i).map fun r => (idx j).map fun c => m.at_ r c
  let store (m : Mat) (i j : Nat) (x : Mat) : Mat :=
    (idx i).foldl (fun m r => (idx j).foldl (fun m c => m.put r c (x.at_ (r - 64 * i) (c - 64 * j))) m) m
  let solve (d rhs : Mat) (c : Nat) : Mat := Mat.transpose ((Mat.transpose rhs c).map (forwardSolve d)) d.length
  let one (a : Mat × Bool) (ij : Nat × Nat) : Mat × Bool :=
    let i := ij.1
    let j := ij.2
    let d := block l i i
    if i = j then (store a.1 i j (solve d (identity d.length) d.length), a.2)
    else
      let ks := (List.range (i - j)).map (j + ·)
      let rows := (idx i).map fun r => precVals prec (ks.flatMap fun k => (idx k).map fun c => f64Neg (l.at_ r c))
      let cols := (idx j).map fun c => precVals prec (ks.flatMap fun k => (idx k).map fun r => a.1.at_ r c)
      let p := spanBlock (precCls prec) (precFmt prec) rows cols
      (store a.1 i j (solve d p.1 (idx j).length), a.2 || p.2)
  ((List.range nb).flatMap fun j => (List.range (nb - j)).map fun k => (j + k, j)).foldl one (Mat.make n n fun _ _ => 0, false)

end Sys2Proof.Machine
end

