-- ==== Sys2Proof/Machine/Roots.lean ====
section
/-!
DEFINITION. Root jobs (07 R188–R203) and preconditioned directions (07 R204, R205).
-/

namespace Sys2Proof.Machine

/-! ### Root configuration -/

/-- The ROOT sub-fields of a curvature record. -/
structure RootCfg where
  cadence : Nat
  phase : Nat
  conv : Nat
  p : Nat
  method : Nat
  prec : Nat
  spread : Bool
  lrel : Bool
  graft : Bool
  maxit : Nat
  acc : Nat
  tau : Nat
  lambda : Nat
  base : Nat
  deriving DecidableEq, Repr, Inhabited

def State.rootCfg (s : State) (r : Nat) : RootCfg :=
  let f := s.recField r 0x68
  { cadence := f 11 0, phase := f 23 12, conv := f 31 24, p := 2 ^ f 33 32, method := f 35 34, prec := f 36 36,
    spread := f 37 37 == 1, lrel := f 38 38 == 1, graft := f 39 39 == 1, maxit := f 47 40, acc := f 55 48, tau := f 63 56,
    lambda := s.mem64 (r + 0x70), base := s.mem64 (r + 0x78) }

/-- The side and the owned index of block index j: side A blocks first. -/
def State.blockOf (s : State) (r j : Nat) : Bool × Nat :=
  let a := (s.curvOwned r false).2
  if j < a then (false, j) else (true, j - a)

/-- Block j is owned, its side enabled, and its phase matches the step (07 R188, R191). -/
def State.rootDue (s : State) (r j : Nat) : Bool :=
  let c := s.rootCfg r
  let x := s.blockOf r j
  let want := if c.spread then (c.phase + j) % c.cadence else c.phase
  decide (x.2 < (s.curvOwned r x.1).2) && s.curvOn r x.1 && c.cadence != 0 && s.gbl.step.toNat % c.cadence == want

/-! ### Methods (07 R194–R199) -/

/-- What a method gives: the best iterate with residual and number, iterations done, stopped by its own exit, saturation. -/
structure RootRun where
  best : Option (Mat × Nat × Nat)
  iters : Nat
  ended : Bool
  conv : Bool
  sat : Bool
  deriving DecidableEq, Repr, Inhabited

/-- F + λI. -/
def damped (f : Mat) (lam : Nat) : Mat := Mat.make f.length f.length fun i j => if i = j then f64Add (f.at_ i j) lam else f.at_ i j

/-- The probe: escalations left, factorisation, λ, first flagged pivot so far. -/
def probe (prec tau : Nat) (f : Mat) : Nat → Nat → Option Nat → Chol × Nat × Option Nat
  | n, lam, first =>
    let a := damped f lam
    let c := cholesky prec (f64Mul (twoNeg tau) (maxDiag a)) false a
    let first := match first with | some i => some i | none => c.piv.head?
    match n with
    | 0 => (c, lam, first)
    | n + 1 => if c.stop then probe prec tau f n (f64Mul lam (f64Of 10)) first else (c, lam, first)

/-- The escalations a probe made. -/
def probeEsc (prec tau : Nat) (f : Mat) : Nat → Nat → Nat
  | 0, _ => 0
  | n + 1, lam =>
    let a := damped f lam
    if (cholesky prec (f64Mul (twoNeg tau) (maxDiag a)) false a).stop then 1 + probeEsc prec tau f n (f64Mul lam (f64Of 10)) else 0

/-- Method 0: (F + λI)^(−1) from the probe's factor, when it completes before the deadline. -/
def method0 (prec fits : Nat) (c : Chol) : RootRun :=
  if fits = 0 then { best := none, iters := 0, ended := false, conv := false, sat := c.sat }
  else
    let li := lowerInverse prec (lowerOf c.mat)
    let r := matMul prec (li.1.transpose li.1.length) li.1
    { best := some (r.1, 0, 1), iters := 1, ended := true, conv := true, sat := c.sat || li.2 || r.2 }

/-- The best of two iterates: the earlier on equal residuals. -/
def better {α : Type} (best : Option (α × Nat × Nat)) (x : α) (r k : Nat) : Option (α × Nat × Nat) :=
  match best with
  | none => some (x, r, k)
  | some b => if f64Lt r b.2.1 then some (x, r, k) else best

/-- Iterations k, k + 1, … of method 1: the iterations that may start, then the most there are. One of whose products saturates is
not an iterate: its residual is NaN (07 R203). -/
def newtonLoop (tileOf : Nat → Nat) (p prec conv : Nat) : Nat → Nat → Nat → Mat → Mat → RootRun → RootRun
  | 0, _, _, _, _, w => { w with ended := true }
  | _ + 1, 0, _, _, _, w => w
  | n + 1, fits + 1, k, x, m, w =>
    let b := m.length
    let t := Mat.make b b fun i j => f64Div (f64Sub (if i = j then f64Of (p + 1) else 0) (m.at_ i j)) (f64Of p)
    let x1 := matMul prec x t
    let t2 := matMul prec t t
    let t4 := if p = 4 then matMul prec t2.1 t2.1 else t2
    let m1 := matMul prec t4.1 m
    let r := frobenius tileOf (Mat.make b b fun i j => if i = j then f64Sub (m1.1.at_ i j) one64 else m1.1.at_ i j)
    let w := { w with iters := k, sat := w.sat || x1.2 || t2.2 || t4.2 || m1.2 }
    if f64Bad r || x1.2 || t2.2 || t4.2 || m1.2 then { w with ended := true }
    else
      let w := { w with best := better w.best x1.1 r k }
      if f64Le r (twoNeg conv) then { w with ended := true, conv := true }
      else newtonLoop tileOf p prec conv n fits (k + 1) x1.1 m1.1 w

/-- Method 1: the coupled Newton iteration for the inverse p-th root. -/
def method1 (tileOf : Nat → Nat) (c : RootCfg) (fits : Nat) (a : Mat) : RootRun :=
  let z := f64Div (f64Of (c.p + 1)) (f64Mul (f64Of 2) (frobenius tileOf a))
  let x0 := if c.p = 4 then f64Sqrt (f64Sqrt z) else f64Sqrt z
  let n := a.length
  newtonLoop tileOf c.p c.prec c.conv c.maxit fits 1 (Mat.make n n fun i j => if i = j then x0 else 0)
    (Mat.make n n fun i j => f64Mul z (a.at_ i j)) { best := none, iters := 0, ended := false, conv := false, sat := false }

/-- A dot product in ascending element index. -/
def dot (a b : List Nat) : Nat := (a.zip b).foldl (fun acc x => f64Fma x.1 x.2 acc) 0

/-- Two columns rotated by (cs, sn). -/
def rotate (cs sn : Nat) (a b : List Nat) : List Nat × List Nat :=
  let z := a.zip b
  (z.map fun x => f64Fma cs x.1 (f64Neg (f64Mul sn x.2)), z.map fun x => f64Fma sn x.1 (f64Mul cs x.2))

/-- One pair of a sweep, on the columns of U and V. -/
def jacobiPair (s : Mat × Mat × Nat) (ij : Nat × Nat) : Mat × Mat × Nat :=
  let ui := s.1.getD ij.1 []
  let uj := s.1.getD ij.2 []
  let a := dot ui ui
  let c := dot uj uj
  let g := dot ui uj
  let off := (fpMaxMin true true fmtFP64 s.2.2 (f64Div (f64Abs g) (f64Sqrt (f64Mul a c)))).1
  if (fp64Of g).isZero then (s.1, s.2.1, off)
  else
    let zeta := f64Div (f64Sub c a) (f64Mul (f64Of 2) g)
    let t0 := f64Rcp (f64Add (f64Abs zeta) (f64Sqrt (f64Fma zeta zeta one64)))
    let t := if signBit fmtFP64 zeta && !(fp64Of zeta).isZero then f64Neg t0 else t0
    let cs := f64Rcp (f64Sqrt (f64Fma t t one64))
    let sn := f64Mul cs t
    let u := rotate cs sn ui uj
    let v := rotate cs sn (s.2.1.getD ij.1 []) (s.2.1.getD ij.2 [])
    ((s.1.set ij.1 u.1).set ij.2 u.2, (s.2.1.set ij.1 v.1).set ij.2 v.2, off)

/-- Sweeps of method 2; the matrices are lists of columns. -/
def jacobiLoop (conv : Nat) : Nat → Nat → Nat → Mat → Mat → Option ((Mat × Mat) × Nat × Nat) → Option ((Mat × Mat) × Nat × Nat) × Nat × Bool × Bool
  | 0, _, k, _, _, best => (best, k - 1, true, false)
  | _ + 1, 0, k, _, _, best => (best, k - 1, false, false)
  | n + 1, fits + 1, k, u, v, best =>
    let b := u.length
    let pairs := (List.range b).flatMap fun i => (List.range (b - (i + 1))).map fun j => (i, i + 1 + j)
    let s := pairs.foldl jacobiPair (u, v, 0)
    let best := better best (s.1, s.2.1) s.2.2 k
    if f64Le s.2.2 (twoNeg conv) then (best, k, true, true) else jacobiLoop conv n fits (k + 1) s.1 s.2.1 best

/-- λ_i^(−1/p). -/
def powNeg (p x : Nat) : Nat := if p = 1 then f64Rcp x else if p = 2 then f64Rsq x else f64Rsq (f64Sqrt x)

/-- Method 2: one-sided Jacobi, and the root from the spectrum by an FP64-slice product. -/
def method2 (c : RootCfg) (fits : Nat) (a : Mat) : RootRun :=
  let n := a.length
  let w := jacobiLoop c.conv c.maxit fits 1 (a.transpose n) (identity n) none
  match w.1 with
  | none => { best := none, iters := w.2.1, ended := w.2.2.1, conv := w.2.2.2, sat := false }
  | some b =>
    let lam := b.1.1.map fun u => powNeg c.p (f64Sqrt (dot u u))
    let v := b.1.2.transpose n
    let vl := v.map fun row => (row.zip lam).map fun x => f64Mul x.1 x.2
    let r := mulCols 1 vl v
    { best := some (r.1, b.2.1, b.2.2), iters := w.2.1, ended := w.2.2.1, conv := w.2.2.2, sat := r.2 }

/-! ### A root job (07 R191–R195, R200) -/

/-- The factor of block j as FP64. -/
def State.factorOf (s : State) (r : Nat) (x : Bool × Nat) : Mat :=
  let b := s.curvB r x.1
  unpackSym b ((s.hbmElems fmtFP32 (s.factorAt r x.1 x.2).2 (blockElems b)).map (cvtBits fmtFP64 fmtFP32))

/-- The tiles of a job group (log entry 53). -/
def State.jobTiles (s : State) (r j : Nat) : List Nat :=
  (List.range (s.curvB r (s.blockOf r j).1)).map fun i => Config.jobTile r j i % 1024

/-- Schedule time of a job group (07 R192). -/
def State.jobNow (s : State) (r j : Nat) : Nat := s.schedNow - s.lagOf (s.jobTiles r j)

/-- How many iterations may start, of at most `most`, when the first starts `start` cycles on and `avail` cycles are left to D: each ends
at or before D − FIN (07 R193). -/
def jobFits (t : JobTime) (start avail most : Nat) : Nat :=
  if avail < start + t.fin then 0 else if t.iter = 0 then most else (avail - t.fin - start) / t.iter

/-- Cycle after a job's start at which its first iteration starts: behind a probe for each factorisation, and the setting up. -/
def jobStart (t : JobTime) (esc : Nat) : Nat := t.probe * (1 + esc) + t.setup

/-- The workspace of a job that ran its probe and the iterations that could start before its deadline. -/
def State.runRoot (s : State) (r j : Nat) (t : JobTime) : RootWork :=
  let c := s.rootCfg r
  let now := s.jobNow r j
  let x := s.blockOf r j
  let f := s.factorOf r x
  let lam := if c.lrel then f64Mul c.lambda (maxDiag f) else c.lambda
  let esc := probeEsc c.prec c.tau f 4 lam
  let pr := probe c.prec c.tau f 4 lam none
  if pr.1.stop then
    { record := r, blk := j, idle := false, esc := esc, probeFail := true, firstPiv := pr.2.2.getD 0, best := none, iters := 0,
      conv := false, sat := pr.1.sat, final := true, deadline := false, fin := t.fin,
      ends := now + s.countsOf (t.probe * (1 + esc) + t.fin) }
  else
    let fits := jobFits t (jobStart t esc) (s.cyclesOf (s.seqr.deadline - now)) (Nat.max 1 c.maxit)
    let a := damped f pr.2.1
    let tileOf := Config.jobTile r j
    let run := match c.method with
      | 0 => method0 c.prec fits pr.1
      | 1 => method1 tileOf c fits a
      | _ => method2 c fits a
    let best := run.best.map fun b =>
      ((packSym (s.curvB r x.1) b.1).map fun v => BitVec.ofNat 32 (cvtBits fmtFP32 fmtFP64 v), BitVec.ofNat 64 b.2.1, b.2.2)
    { record := r, blk := j, idle := false, esc := esc, probeFail := false, firstPiv := pr.2.2.getD 0, best := best,
      iters := run.iters, conv := run.conv, sat := run.sat, final := run.ended, deadline := false, fin := t.fin,
      ends := now + s.countsOf (jobStart t esc + run.iters * t.iter + t.fin) }

/-- The job of a block, once it is there. -/
def State.rootJobOf (s : State) (r j : Nat) : Option RootWork := s.seqr.jobs.find? fun w => w.record == r && w.blk == j

/-- A root job starts in a Penumbra slot: its probe, and the iterations whose ends lie at or before D − FIN in schedule time. A block
without a committed fold only ages. -/
def execRootJob (record blk : Nat) (fits : JobTime) (s : State) : Host.Outcome State Fault Refusal :=
  if s.stepGoes = true ∧ 4 ≤ s.seqr.phase ∧ s.seqr.phase ≤ 6 ∧ s.rootDue record blk = true ∧ s.rootJobOf record blk = none
      ∧ s.inSlot (s.schedCycle (s.jobTiles record blk)) = true then
    let x := s.blockOf record blk
    let init := Bytes.readLe s.hbm.mem (s.factorAt record x.1 x.2).1 4 % 2
    let w := if init = 1 then s.runRoot record blk fits
      else { record := record, blk := blk, idle := true, esc := 0, probeFail := false, firstPiv := 0, best := none, iters := 0,
             conv := false, sat := false, final := true, deadline := false, fin := fits.fin, ends := s.jobNow record blk }
    ok { s with seqr := { s.seqr with jobs := s.seqr.jobs ++ [w] } }
  else ok s

/-- A job whose next iteration would pass D − FIN finalises its best iterate once its last iteration has ended (07 R193, R200). -/
def execRootDeadline (record blk : Nat) (s : State) : Host.Outcome State Fault Refusal :=
  let now := s.jobNow record blk
  let each (w : RootWork) : RootWork :=
    if w.record = record ∧ w.blk = blk ∧ w.final = false ∧ w.ends ≤ now + s.countsOf w.fin then { w with final := true, deadline := true }
    else w
  ok { s with seqr := { s.seqr with jobs := s.seqr.jobs.map each } }

/-! ### Commit (07 R190, R201, R202) -/

/-- Addresses of the status word and the root of block index j. -/
def State.rootAt (s : State) (r j : Nat) : Nat × Nat :=
  let a := s.curvOwned r false
  let g := s.curvOwned r true
  let x := s.blockOf r j
  let before := if x.1 then a.2 * blockElems (s.curvB r false) else 0
  let base := (s.rootCfg r).base
  (base + 8 * j, base + alignUp (8 * (a.2 + g.2)) 128 + 4 * (before + x.2 * blockElems (s.curvB r x.1)))

/-- Statuses of a job. -/
def RootWork.statuses (w : RootWork) : List (BitVec 8) :=
  (if w.esc = 0 then [] else [stPivot]) ++ (if w.deadline then [stBest] else []) ++ (if w.sat then [stSaturated] else [])

/-- The chosen iterate passes the acceptance threshold. -/
def RootWork.accepted (w : RootWork) (acc : Nat) : Bool :=
  match w.best with | none => false | some b => f64Le b.2.1.toNat (twoNeg acc)

/-- RESID: the chosen iterate's residual as FP32; +Inf for a method 0 cut short; open for any other job without an iterate. -/
def State.rootResid (s : State) (w : RootWork) : Nat :=
  match w.best with
  | some b => cvtBits fmtFP32 fmtFP64 b.2.1.toNat
  | none => if (s.rootCfg w.record).method = 0 ∧ w.probeFail = false then infBits fmtFP32 false else s.freeVal.toNat % 2 ^ 32

/-- The status word a job leaves. -/
def State.rootWord (s : State) (w : RootWork) (old : Nat) : Nat :=
  let good := w.accepted (s.rootCfg w.record).acc
  let valid := good || bitAt old 1
  let age := if good then 0 else satAdd 9 (field old 12 4) 1
  b2n valid * 2 + b2n (!good && bitAt old 1) * 4 + b2n w.probeFail * 8 + age * 16 + w.esc * 2 ^ 13 + w.iters % 256 * 2 ^ 16
    + (stCode (stChoose w.statuses)).toNat * 2 ^ 24 + s.rootResid w * 2 ^ 32

/-- The job's result is committed: root, status word, statuses. -/
def State.commitRoot (s : State) (w : RootWork) : State :=
  let at_ := s.rootAt w.record w.blk
  let old := s.mem64 at_.1
  let layer := s.recField w.record 0 15 0
  let side := b2n (s.blockOf w.record w.blk).1
  if w.idle then s.ownWord64 2 at_.1 (setField old 12 4 (satAdd 9 (field old 12 4) 1))
  else
    let s1 := match w.best with
      | none => s
      | some b => if w.accepted (s.rootCfg w.record).acc then s.ownWords 2 at_.2 (b.1.map BitVec.toNat) else s
    let s2 := (s1.ownWord64 2 at_.1 (s.rootWord w old)).useFree 1
    let last := stChoose w.statuses
    let note (s : State) (st : BitVec 8) : State :=
      s.logCause { status := st, sev := stSev st, src := srcStep, unit := 0, tag := s.seqr.tag,
                   detail := [s.gbl.step.toNat, layer, side, w.blk] }
    let s3 := (w.statuses.filter (· != last)).foldl note s2
    let s4 := if w.esc = 0 then s3
      else s3.logCause { status := stPivot, sev := stSev stPivot, src := srcStep, unit := 0, tag := s.seqr.tag,
                         detail := [s.gbl.step.toNat, layer, side, w.blk, w.firstPiv] }
    w.statuses.foldl State.addStatus s4

/-- At the later of the deadline and the decision, in schedule time, and not before the job has finalised. -/
def execRootCommit (record blk : Nat) (s : State) : Host.Outcome State Fault Refusal :=
  match s.rootJobOf record blk with
  | none => ok s
  | some w =>
    if s.stepGoes = true ∧ s.seqr.decision.isSome = true ∧ w.final = true
        ∧ Nat.max w.ends s.seqr.deadline ≤ s.jobNow record blk then
      ok (s.writes fun s =>
        let s1 := s.commitRoot w
        { s1 with seqr := { s1.seqr with jobs := s1.seqr.jobs.filter fun x => !(x.record == record && x.blk == blk) } })
    else ok s

/-! ### Preconditioned directions (07 R204, R205) -/

/-- The stored root of owned block i of a side, with its STALE bit; none where the side contributes the identity. -/
def State.storedRoot (s : State) (r : Nat) (g : Bool) (i : Nat) : Option (Mat × Bool) :=
  let o := s.curvOwned r g
  let at_ := s.rootAt r (if g then (s.curvOwned r false).2 + i else i)
  let w := s.mem64 at_.1
  let b := s.curvB r g
  if s.curvOn r g && (s.rootCfg r).cadence != 0 && decide (i < o.2) && bitAt w 1 then
    some (unpackSym b ((s.hbmElems fmtFP32 at_.2 (blockElems b)).map (cvtBits fmtFP64 fmtFP32)), bitAt w 2)
  else none

/-- R_G × Ĝ × R_A of one block, and whether a stale root was used. -/
def precondition (rg ra : Option (Mat × Bool)) (g : Mat) : Mat × Bool :=
  let l := match rg with | none => g | some x => (matMul 0 x.1 g).1
  let d := match ra with | none => l | some x => (matMul 0 l x.1).1
  (d, (match rg with | none => false | some x => x.2) || (match ra with | none => false | some x => x.2))

/-- Rescaled to the magnitude of the base direction; the base direction itself where a norm is not usable. -/
def graft (tileOf : Nat → Nat) (b d : Mat) : Mat :=
  let nb := frobenius tileOf b
  let nd := frobenius tileOf d
  if (fp64Of nd).isZero || f64Bad nb || f64Bad nd then b
  else
    let k := f64Div nb nd
    d.map fun row => row.map fun x => cvtBits fmtFP64 fmtFP32 (cvtBits fmtFP32 fmtFP64 (f64Mul k x))

/-- Rows of a matrix cut out: rows from r, columns from c. -/
def Mat.cut (m : Mat) (r nr c nc : Nat) : Mat := ((m.drop r).take nr).map fun row => (row.drop c).take nc

/-- The direction of a whole shard, block by block: its matrix and whether a stale root was used. -/
def State.shardDirection (s : State) (r urec opt : Nat) : Mat × Bool :=
  let n := s.nown urec
  let cols := Nat.max 1 (s.recField urec 0 63 32)
  let e64 (a : Nat) : Mat := chunksOf cols ((s.hbmElems fmtFP32 a n).map (cvtBits fmtFP64 fmtFP32))
  let grad := e64 (s.mem64 (urec + 0x20))
  let mom := s.mem64 (urec + 0x18)
  let k := s.optConst opt (s.mem64 (opt + 0x48) + 1)
  let e32 (a i : Nat) : Nat := Bytes.readLe s.hbm.mem (a + 4 * i) 4
  let base : Mat := chunksOf cols ((List.range n).map fun i =>
    cvtBits fmtFP64 fmtFP32
      (k.direction (k.moments (e32 mom i) (e32 (mom + alignUp (4 * n) 128) i) (e32 (s.mem64 (urec + 0x20)) i))))
  let bg := Nat.max 1 (s.curvB r true)
  let ba := Nat.max 1 (s.curvB r false)
  let one (i j : Nat) : Mat × Bool :=
    let g := grad.cut (bg * i) bg (ba * j) ba
    let d := precondition (s.storedRoot r true i) (s.storedRoot r false j) g
    (if (s.rootCfg r).cadence ≠ 0 ∧ (s.rootCfg r).graft = true then graft (Config.jobTile r (2 ^ 16 + i * 2 ^ 16 + j)) (base.cut (bg * i) bg (ba * j) ba) d.1 else d.1,
     d.2)
  let bands := (List.range (ceilDiv grad.length bg)).map fun i => (List.range (ceilDiv cols ba)).map fun j => one i j
  let join (l : List (Mat × Bool)) : Mat :=
    match l with
    | [] => []
    | x :: xs => xs.foldl (fun m y => List.zipWith (· ++ ·) m y.1) x.1
  (bands.flatMap join, bands.any fun l => l.any (·.2))

/-- The preconditioning of a layer's shard in a Penumbra slot, unless a pending block of the layer holds it: D′ is held at DIR_BASE until
the sweep (07 R204; 08 R219, R235). -/
def execPrecondition (record urec optRec : Nat) (s : State) : Host.Outcome State Fault Refusal :=
  if s.stepGoes = true ∧ 4 ≤ s.seqr.phase ∧ s.seqr.phase ≤ 6 ∧ s.layerHeld (s.recField record 0 15 0) = false
      ∧ s.slotGoes = true then
    let d := s.shardDirection record urec optRec
    let bs := packElems fmtFP32 (d.1.flatten.map (cvtBits fmtFP32 fmtFP64)) []
    let s1 := s.hbmWrite (s.mem64 (urec + 0x28)) bs
    ok { s1 with seqr := { s1.seqr with stale := s1.seqr.stale || d.2 } }
  else ok s

end Sys2Proof.Machine
end

