-- ==== Sys2Proof/Machine/Solve.lean ====
section
/-!
DEFINITION. Solve jobs (07 R206–R212): the solve record and its check, dense least squares, bundle adjustment, and what a job
leaves. Layouts of the operands in HBM and the orders the manual leaves open are log entry 57; what the manual gives no formula
for (a Householder vector with its scalars, the residual of KIND 2) is open: Config.reflector and Config.solveWord (log entry 40).
-/

namespace Sys2Proof.Machine

/-! ### The record (07 R206) -/

structure SolveRec where
  kind : Nat
  prec : Nat
  lm : Bool
  lmdiag : Bool
  acc : Nat
  tau : Nat
  camdim : Nat
  maxit : Nat
  conv : Nat
  rows : Nat
  cols : Nat
  mu : Nat
  j : Nat
  y : Nat
  x : Nat
  npt : Nat
  due : Nat
  deriving DecidableEq, Repr, Inhabited

def State.solveRec (s : State) (r : Nat) : SolveRec :=
  let f := s.recField r 0
  { kind := f 3 0, prec := f 4 4, lm := f 5 5 == 1, lmdiag := f 6 6 == 1, acc := f 15 8, tau := f 23 16, camdim := f 31 24,
    maxit := f 47 32, conv := f 55 48, rows := s.recField r 8 31 0, cols := s.recField r 8 63 32, mu := s.mem64 (r + 0x18),
    j := s.mem64 (r + 0x20), y := s.mem64 (r + 0x28), x := s.mem64 (r + 0x30), npt := s.recField r 0x40 31 0,
    due := s.mem64 (r + 0x10) }

/-- The order of the dense system. -/
def SolveRec.order (v : SolveRec) : Nat := if v.kind ≤ 1 then v.cols else if v.kind = 2 then v.cols * v.camdim else 0

/-- Bundle adjustment. -/
def SolveRec.bundle (v : SolveRec) : Bool := decide (2 ≤ v.kind)

/-- The record breaks no field range. -/
def State.solveOk (s : State) (r : Nat) : Bool :=
  let v := s.solveRec r
  let f := s.recField r
  r % 128 == 0 && decide (v.kind ≤ 3) && (!v.bundle || v.prec == 1) && f 0 7 7 == 0 && f 0 63 56 == 0
    && (if v.bundle then decide (6 ≤ v.camdim ∧ v.camdim ≤ 9) else v.camdim == 0)
    && (if v.kind = 3 then v.maxit != 0 else v.maxit == 0) && s.mem64 (r + 0x10) != 0 && finiteNonneg (fp64Of v.mu)
    && (v.bundle || decide (v.cols ≤ v.rows)) && f 0x40 63 32 == 0
    && ((List.range 3).all fun i => s.mem64 (r + 0x48 + 8 * i) == 0) && decide (v.order ≤ 65536)

/-! ### What a solve gives -/

/-- Solution elements with their place in X, residual, pivots replaced, iterations, cut short, saturated. -/
structure SolveRun where
  x : Option (List Nat)
  resid : Nat
  piv : List Nat
  iters : Nat
  cut : Bool
  sat : Bool
  deriving DecidableEq, Repr, Inhabited

/-- FP64 +Inf. -/
def inf64 : Nat := infBits fmtFP64 false

/-- A direct kind cut short. -/
def SolveRun.short : SolveRun := { x := none, resid := inf64, piv := [], iters := 0, cut := true, sat := false }

/-- Values of J, y and x as FP64. -/
def State.solveVals (s : State) (v : SolveRec) (a n : Nat) : List Nat :=
  (s.hbmElems (precFmt v.prec) a n).map (cvtBits fmtFP64 (precFmt v.prec))

/-- A value as X holds it. -/
def SolveRec.store (v : SolveRec) (x : Nat) : Nat := cvtBits (precFmt v.prec) fmtFP64 x

/-- Damping of a diagonal element (07 R209). -/
def SolveRec.damp (v : SolveRec) (d : Nat) : Nat :=
  if v.lm then f64Add d (if v.lmdiag then f64Mul v.mu d else v.mu) else d

/-- A symmetric system with its diagonal damped. -/
def SolveRec.dampMat (v : SolveRec) (m : Mat) : Mat := Mat.make m.length m.length fun i j => if i = j then v.damp (m.at_ i j) else m.at_ i j

/-- Modified Cholesky and both substitutions: solution, replaced pivots, saturation. -/
def solveSpd (prec tau : Nat) (h : Mat) (g : List Nat) : List Nat × List Nat × Bool :=
  let c := cholesky prec (f64Mul (twoNeg tau) (maxDiag h)) true h
  let l := lowerOf c.mat
  (backSolve l (forwardSolve l g), c.piv, c.sat)

def norm2 (x : List Nat) : Nat := f64Sqrt (redSsqOf true fmtFP64 x).1

/-- ‖Jᵀ(Jx − y)‖ ÷ ‖Jᵀy‖, 0 when Jᵀy = 0; the columns of J are given. -/
def denseResid (cols : List (List Nat)) (y x : List Nat) : Nat :=
  let row (i : Nat) : Nat := dot (cols.map fun c => c.getD i 0) x
  let e := (List.range y.length).map fun i => f64Sub (row i) (y.getD i 0)
  let g := cols.map fun c => dot c y
  if g.all fun v => (fp64Of v).isZero then 0 else f64Div (norm2 (cols.map fun c => dot c e)) (norm2 g)

/-- The words of a solve record and of the operands it names, for what the manual leaves open. -/
def State.solveWords (s : State) (r : Nat) (v : SolveRec) : List Nat :=
  let at_ (a n : Nat) : List Nat := (List.range n).map fun i => s.mem64 (a + 8 * i)
  let b := if v.prec = 0 then 4 else 8
  let js := if v.bundle then 8 * (10 + 2 * v.camdim) * v.rows else b * (v.rows * v.cols)
  let ys := if v.bundle then 0 else b * v.rows
  at_ r 12 ++ at_ v.j (ceilDiv js 8) ++ at_ v.y (ceilDiv ys 8) ++ at_ v.x v.order

/-- J and y of KIND 0 with the rows that damping appends: √μ or √(μ diag(JᵀJ)) on a diagonal, and zeros (07 R209). -/
def SolveRec.appended (v : SolveRec) (cols : List (List Nat)) (y : List Nat) : List (List Nat) × List Nat :=
  if v.lm then
    let n := cols.length
    let d (c : List Nat) : Nat := f64Sqrt (if v.lmdiag then f64Mul v.mu ((mulCols v.prec [c] [c]).1.at_ 0 0) else v.mu)
    (((List.range n).zip cols).map fun jc => jc.2 ++ (List.range n).map fun i => if i = jc.1 then d jc.2 else 0, y ++ List.replicate n 0)
  else (cols, y)

/-- A Householder factorisation in progress: columns, the right-hand side, saturation. -/
structure Qr where
  cols : List (List Nat)
  y : List Nat
  sat : Bool
  deriving DecidableEq, Repr, Inhabited

/-- (I − scale v vᵀ) c of each column: vᵀc is one span, and each element of the result another, [c | −v] × [1 ; w]. -/
def reflectCols (prec : Nat) (v : List Nat) (scale : Nat) (cs : List (List Nat)) : List (List Nat) × Bool :=
  let w := mulCols prec [v] cs
  let ws := (w.1.headD []).map (f64Mul scale)
  let rs := (cs.zip ws).map fun x => mulCols prec ((x.1.zip v).map fun e => [e.1, f64Neg e.2]) [[one64, x.2]]
  (rs.map fun r => r.1.map (·.headD 0), w.2 || rs.any (·.2))

/-- The reflector of column k, on the columns behind it and on the right-hand side. -/
def qrColumn (prec : Nat) (q : Qr) (k : Nat) : Qr :=
  let c := q.cols.getD k []
  let h := Config.reflector (c.drop k)
  let v := (List.range (c.length - k)).map fun i => h.1.getD i 0
  let later := q.cols.drop (k + 1) ++ [q.y]
  let r := reflectCols prec v h.2.1 (later.map (·.drop k))
  let new := List.zipWith (fun (c n : List Nat) => c.take k ++ n) later r.1
  { cols := q.cols.take k ++ [c.take k ++ [h.2.2]] ++ new.dropLast, y := new.getLastD [], sat := q.sat || r.2 }

/-- KIND 0: the columns in ascending order, which is panels of 64 in ascending order, then R x = Qᵀy by back-substitution (07 R207). -/
def solveQr (prec : Nat) (cols : List (List Nat)) (y : List Nat) : List Nat × Bool :=
  let q := (List.range cols.length).foldl (qrColumn prec) { cols := cols, y := y, sat := false }
  (backSolve q.cols q.y, q.sat)

/-- KIND 0 and 1 (07 R207). -/
def State.solveDense (s : State) (v : SolveRec) (fits : Nat) : SolveRun :=
  if fits = 0 then SolveRun.short
  else
    let cols := chunksOf (Nat.max 1 v.rows) (s.solveVals v v.j (v.rows * v.cols))
    let y := s.solveVals v v.y v.rows
    if v.kind = 0 then
      let a := v.appended cols y
      let w := solveQr v.prec a.1 a.2
      { x := some w.1, resid := denseResid cols y w.1, piv := [], iters := 0, cut := false, sat := w.2 }
    else
      let h := mulCols v.prec cols cols
      let g := mulCols v.prec cols [y]
      let w := solveSpd v.prec v.tau (v.dampMat h.1) (g.1.map (·.headD 0))
      { x := some w.1, resid := denseResid cols y w.1, piv := w.2.1, iters := 0, cut := false, sat := h.2 || g.2 || w.2.2 }

/-! ### Bundle adjustment (07 R211, R212) -/

/-- An observation: camera, point, residual, camera Jacobian and point Jacobian by rows. -/
structure Obs where
  cam : Nat
  pt : Nat
  e : List Nat
  jc : Mat
  jp : Mat
  deriving DecidableEq, Repr, Inhabited

/-- Words of an observation. -/
def obsWords (d : Nat) : Nat := 10 + 2 * d

def State.obsAt (s : State) (v : SolveRec) (i : Nat) : Obs :=
  let w := s.hbmElems fmtFP64 (v.j + 8 * obsWords v.camdim * i) (obsWords v.camdim)
  { cam := w.getD 0 0, pt := w.getD 1 0, e := (w.drop 2).take 2, jc := chunksOf v.camdim ((w.drop 4).take (2 * v.camdim)),
    jp := chunksOf 3 (w.drop (4 + 2 * v.camdim)) }

/-- Observations by point, and within a point by camera (two stable sorts). -/
def sortObs (l : List Obs) (npt ncam : Nat) : List Obs :=
  let byCam := (List.range ncam).flatMap fun c => l.filter fun o => o.cam == c
  (List.range npt).flatMap fun p => byCam.filter fun o => o.pt == p

/-- aᵀ b of two-row factors. -/
def tmul (a b : Mat) (ra rb : Nat) : Mat :=
  Mat.make ra rb fun i j => f64Fma (a.at_ 1 i) (b.at_ 1 j) (f64Mul (a.at_ 0 i) (b.at_ 0 j))

/-- aᵀ e. -/
def tvec (a : Mat) (e : List Nat) (n : Nat) : List Nat :=
  (List.range n).map fun i => f64Fma (a.at_ 1 i) (e.getD 1 0) (f64Mul (a.at_ 0 i) (e.getD 0 0))

def addMat (a b : Mat) : Mat := List.zipWith (List.zipWith f64Add) a b

def zeroMat (r c : Nat) : Mat := Mat.make r c fun _ _ => 0

def sumMats (r c : Nat) (l : List Mat) : Mat := l.foldl addMat (zeroMat r c)

def sumVecs (n : Nat) (l : List (List Nat)) : List Nat := l.foldl (List.zipWith f64Add) (List.replicate n 0)

/-- Small products on the vector engine. -/
def mulV (a b : Mat) (c : Nat) : Mat := Mat.make a.length c fun i j => dot (a.getD i []) (b.map fun r => r.getD j 0)

def mulVec (a : Mat) (x : List Nat) : List Nat := a.map fun r => dot r x

/-- The inverse of a small symmetric block from its Cholesky factor with replaced pivots. -/
def spdInverse (tau : Nat) (m : Mat) : Mat × List Nat :=
  let c := cholesky 1 (f64Mul (twoNeg tau) (maxDiag m)) true m
  let li := (lowerInverse 1 (lowerOf c.mat)).1
  (mulV (Mat.transpose li li.length) li li.length, c.piv)

/-- Everything the assembly forms: points' inverses, right-hand sides and replaced pivots, observations by point, and the blocks
(a, b) of S with a ≤ b and r, both with their sums in source order. -/
structure Reduced where
  vinv : List Mat
  vs : List (List Nat)
  piv : List Nat
  groups : List (List Obs)
  blocks : List ((Nat × Nat) × Mat)
  rhs : List (List Nat)
  deriving DecidableEq, Repr, Inhabited

/-- Adds into a block of S, made when it is not there yet. -/
def addBlock (d : Nat) (l : List ((Nat × Nat) × Mat)) (k : Nat × Nat) (m : Mat) : List ((Nat × Nat) × Mat) :=
  if l.any fun x => x.1 == k then l.map fun x => if x.1 = k then (k, addMat x.2 m) else x else l ++ [(k, addMat (zeroMat d d) m)]

def negMat (m : Mat) : Mat := m.map fun r => r.map f64Neg

/-- The reduced camera system in the order of R211. -/
def State.reduce (s : State) (v : SolveRec) : Reduced :=
  let d := v.camdim
  let obs := sortObs ((List.range v.rows).map (s.obsAt v)) v.npt v.cols
  let groups := (List.range v.npt).map fun p => obs.filter fun o => o.pt == p
  let vm := groups.map fun g => v.dampMat (sumMats 3 3 (g.map fun o => tmul o.jp o.jp 3 3))
  let vs := groups.map fun g => sumVecs 3 (g.map fun o => tvec o.jp o.e 3)
  let inv := vm.map (spdInverse v.tau)
  let mine (c : Nat) : List Obs := obs.filter fun o => o.cam == c
  let u := (List.range v.cols).map fun c => v.dampMat (sumMats d d ((mine c).map fun o => tmul o.jc o.jc d d))
  let r0 := (List.range v.cols).map fun c => sumVecs d ((mine c).map fun o => tvec o.jc o.e d)
  let blocks0 := (List.range v.cols).map fun c => ((c, c), u.getD c [])
  let point (acc : List ((Nat × Nat) × Mat) × List (List Nat)) (p : Nat) : List ((Nat × Nat) × Mat) × List (List Nat) :=
    let g := groups.getD p []
    let vi := (inv.getD p ([], [])).1
    let w (o : Obs) : Mat := tmul o.jc o.jp d 3
    let wv (o : Obs) : Mat := mulV (w o) vi 3
    let pairs := g.flatMap fun a => (g.filter fun b => decide (a.cam ≤ b.cam)).map fun b => (a, b)
    (pairs.foldl (fun l ab => addBlock d l (ab.1.cam, ab.2.cam) (negMat (mulV (wv ab.1) (Mat.transpose (w ab.2) 3) d))) acc.1,
     g.foldl (fun r a => r.set a.cam (List.zipWith f64Add (r.getD a.cam []) ((mulVec (wv a) (vs.getD p [])).map f64Neg))) acc.2)
  let sr := (List.range v.npt).foldl point (blocks0, r0)
  { vinv := inv.map (·.1), vs := vs,
    piv := ((List.range v.npt).zip inv).flatMap fun x => x.2.2.map fun k => 3 * x.1 + k,
    groups := groups, blocks := sr.1, rhs := sr.2 }

/-- Δp of every point. -/
def Reduced.points (q : Reduced) (d : Nat) (dc : List Nat) : List Nat :=
  (List.range q.groups.length).flatMap fun p =>
    let back := (q.groups.getD p []).foldl
      (fun a o => List.zipWith f64Sub a (mulVec (Mat.transpose (tmul o.jc o.jp d 3) 3) ((dc.drop (d * o.cam)).take d)))
      (q.vs.getD p [])
    mulVec (q.vinv.getD p []) back

/-- S as a dense matrix. -/
def Reduced.dense (q : Reduced) (d n : Nat) : Mat :=
  let block (a b : Nat) : Mat := match q.blocks.find? fun x => x.1 == (a, b) with | none => zeroMat d d | some x => x.2
  Mat.make n n fun i j =>
    if i / d ≤ j / d then (block (i / d) (j / d)).at_ (i % d) (j % d) else (block (j / d) (i / d)).at_ (j % d) (i % d)

/-- S x with the block-sparse S, over the blocks whose first camera is among those given. -/
def Reduced.apply (q : Reduced) (d n : Nat) (own : Nat → Bool) (x : List Nat) : List Nat :=
  (List.range n).flatMap fun a =>
    (q.blocks.filter fun b => own b.1.1).foldl
      (fun acc b =>
        let acc := if b.1.1 = a then List.zipWith f64Add acc (mulVec b.2 ((x.drop (d * b.1.2)).take d)) else acc
        if b.1.2 = a ∧ b.1.1 ≠ a then
          List.zipWith f64Add acc (mulVec (Mat.transpose b.2 d) ((x.drop (d * b.1.1)).take d)) else acc) (List.replicate d 0)

/-- KIND 2 (07 R212). -/
def State.solveBundle (s : State) (r : Nat) (v : SolveRec) (fits : Nat) : SolveRun :=
  if fits = 0 then SolveRun.short
  else
    let q := s.reduce v
    let w := solveSpd 1 v.tau (q.dense v.camdim v.order) q.rhs.flatten
    { x := some (w.1 ++ q.points v.camdim w.1), resid := (Config.solveWord (s.solveWords r v) 0).toNat,
      piv := q.piv ++ w.2.1, iters := 0, cut := false, sat := w.2.2 }

/-- Reduction k of a group: the members' partials in member order over the tree of SHAPE; on one part, the part's own (07 R212). -/
def groupReduce (g : Option SolveGroup) (k : Nat) (own : List Nat) : List Nat :=
  match g with
  | none => own
  | some g =>
    let of_ (m : Nat) : List Nat :=
      if m = g.me then own else (List.range own.length).map fun i => ((g.peers.getD k []).getD m []).getD i 0
    reduceAll g.chain 0 fmtFP64 ((List.range g.n).map of_)

/-- The cameras of a record that lie on this member. -/
def groupOwns (g : Option SolveGroup) (r c : Nat) : Bool :=
  match g with | none => true | some g => Config.solveShare r c % g.n == g.me

/-- What the iterations of the conjugate gradients take from the system: S x, a dot product and a sum of squares, each in the numbered
reduction of its partials, and the preconditioner. -/
structure PcgOps where
  mv : Nat → List Nat → List Nat
  dot : Nat → List Nat → List Nat → Nat
  ssq : Nat → List Nat → Nat
  pre : List Nat → List Nat

/-- Iterations of the conjugate gradients: x, r, z, p, r·z, best so far. Reductions 0 to 2 come before the first iteration, and each has
four. -/
def pcgLoop (o : PcgOps) (conv n0 : Nat) :
    Nat → Nat → Nat → List Nat → List Nat → List Nat → Nat → Option (List Nat × Nat × Nat) → Option (List Nat × Nat × Nat) × Nat × Bool
  | 0, _, k, _, _, _, _, best => (best, k - 1, false)
  | _ + 1, 0, k, _, _, _, _, best => (best, k - 1, true)
  | n + 1, fits + 1, k, x, r, p, rz, best =>
    let k4 := 4 * k - 1
    let sp := o.mv k4 p
    let alpha := f64Div rz (o.dot (k4 + 1) p sp)
    let x1 := (x.zip p).map fun a => f64Fma alpha a.2 a.1
    let r1 := (r.zip sp).map fun a => f64Fma (f64Neg alpha) a.2 a.1
    let e := f64Div (f64Sqrt (o.ssq (k4 + 2) r1)) n0
    let best := better best x1 e k
    if f64Le e (twoNeg conv) then (best, k, false)
    else
      let z := o.pre r1
      let rz1 := o.dot (k4 + 3) r1 z
      let beta := f64Div rz1 rz
      pcgLoop o conv n0 n fits (k + 1) x1 r1 ((z.zip p).map fun a => f64Fma beta a.2 a.1) rz1 best

/-- KIND 3: conjugate gradients preconditioned by the inverse camera diagonal blocks, on one part or across a group (07 R212). -/
def State.solvePcg (s : State) (r : Nat) (v : SolveRec) (g : Option SolveGroup) (fits : Nat) : SolveRun :=
  let q := s.reduce v
  let d := v.camdim
  let n := v.cols * d
  let inv := (List.range v.cols).map fun c =>
    spdInverse v.tau (match q.blocks.find? fun x => x.1 == (c, c) with | none => zeroMat d d | some x => x.2)
  let pre (x : List Nat) : List Nat := (List.range v.cols).flatMap fun c => mulVec (inv.getD c ([], [])).1 ((x.drop (d * c)).take d)
  let own (c : Nat) : Bool := groupOwns g r c
  let part (x : List Nat) : List Nat := ((List.range v.cols).filter own).flatMap fun c => (x.drop (d * c)).take d
  let o : PcgOps := {
    mv := fun k x => groupReduce g k (q.apply d v.cols own x)
    dot := fun k a b => (groupReduce g k [Sys2Proof.Machine.dot (part a) (part b)]).headD 0
    ssq := fun k a => (groupReduce g k [(redSsqOf true fmtFP64 (part a)).1]).headD 0
    pre := pre }
  let x0 := s.hbmElems fmtFP64 v.x n
  let r0 := List.zipWith f64Sub q.rhs.flatten (o.mv 0 x0)
  let z0 := pre r0
  let w := pcgLoop o v.conv (f64Sqrt (o.ssq 1 r0)) v.maxit fits 1 x0 r0 z0 (o.dot 2 r0 z0) none
  let piv := q.piv ++ ((List.range v.cols).zip inv).flatMap fun x => x.2.2.map fun k => d * x.1 + k
  match w.1 with
  | none => { x := none, resid := (Config.solveWord (s.solveWords r v) 0).toNat, piv := piv, iters := w.2.1, cut := w.2.2, sat := false }
  | some b => { x := some (b.1 ++ q.points d b.1), resid := b.2.1, piv := piv, iters := w.2.1, cut := w.2.2, sat := false }

/-! ### A solve job (07 R208, R210) -/

/-- How many iterations may start before the record's deadline, in the schedule time of the part as a whole; a direct kind is one (07 R192,
R193, R210). -/
def State.solveFits (s : State) (v : SolveRec) (t : JobTime) : Nat :=
  jobFits t t.setup (s.cyclesOf (v.due - (s.schedNow - s.lagOf s.imageTiles))) (if v.kind = 3 then v.maxit else 1)

def State.runSolve (s : State) (r : Nat) (a : SolveArgs) : SolveRun :=
  let v := s.solveRec r
  let fits := s.solveFits v a.time
  match v.kind with
  | 2 => s.solveBundle r v fits
  | 3 => s.solvePcg r v a.group fits
  | _ => s.solveDense v fits

def SolveRun.statuses (w : SolveRun) : List (BitVec 8) :=
  (if w.piv.isEmpty then [] else [stPivot]) ++ (if w.cut then [stBest] else []) ++ (if w.sat then [stSaturated] else [])

/-- The job's result: X where it is accepted, the SN9 fields of the record, statuses, replaced pivots to the fault log. -/
def State.endSolve (s : State) (r : Nat) (w : SolveRun) : State :=
  let v := s.solveRec r
  let good := w.x.isSome && f64Le w.resid (twoNeg v.acc)
  let last := stChoose w.statuses
  let s1 := if good then s.hbmWrite v.x (packElems (precFmt v.prec) ((w.x.getD []).map v.store) []) else s
  let w0 := (stCode last).toNat + b2n (!good) * 2 ^ 8 + w.iters % 2 ^ 16 * 2 ^ 16 + w.piv.length % 2 ^ 32 * 2 ^ 32
  let out := leBytes 8 w0 ++ leBytes 8 w.resid ++ leBytes 8 (w.piv.headD 0xFFFFFFFF) ++ leBytes 8 0
  let s2 := s1.hbmWrite (r + 0x60) out
  let note (s : State) (st : BitVec 8) (detail : List Nat) : State :=
    s.logCause { status := st, sev := stSev st, src := srcStep, unit := 0, tag := s.prog.tag, detail := detail }
  let s3 := if w.piv.isEmpty then s2 else note s2 stPivot (w.piv.take 64)
  let s4 := (w.statuses.filter (· != last)).foldl (fun (s : State) (st : BitVec 8) => note s st [r]) s3
  w.statuses.foldl State.addStatus s4

/-- A solve job of the running program: an invalid record ends it before any write of its own. -/
def execSolveJob (record : Nat) (fits : SolveArgs) (s : State) : Host.Outcome State Fault Refusal :=
  if s.programRuns = true ∧ s.noStop = true ∧ s.gbl.paused = false ∧ s.recov.stage = .none then
    if s.solveOk record then ok (s.endSolve record (s.runSolve record fits))
    else
      ok ((s.logCause { status := stInvalid, sev := 2, src := srcStep, unit := 0, tag := s.prog.tag,
                        detail := [record] }).addStatus stInvalid)
  else ok s

end Sys2Proof.Machine
end

