-- ==== Sys2Proof/Machine/Update.lean ====
section
/-!
DEFINITION. MCTP and PLDM (15 R403, R404, R410, R416, R419–R421): MCTP control, PLDM types 0, 2 and 5, and the firmware update. A
response is its completion code and data; data that the DMTF standards define is open (Config.pldmData; log entry 31).
-/

namespace Sys2Proof.Machine

/-! ### Who answers (15 R405, R410, R419) -/

/-- MCTP control messages are answered from the mask ROM on. -/
def State.controlUp (s : State) : Bool := s.alive && decide (s.pwr.phase ≠ .inReset)

/-- PLDM type 0 and firmware update are answered by the loader and by Lantern. -/
def State.pldmUp (s : State) : Bool := s.controlUp && decide (s.pwr.phase ≠ .romHalted)

/-- PLDM type 2 is answered by Lantern alone. -/
def State.monitorUp (s : State) : Bool := s.pldmUp && decide (s.pwr.phase ≠ .recovery)

/-- A response on a bus: false I3C, true SMBus. -/
def State.answer (s : State) (bus : Bool) (code : BitVec 8) (data : List Byte) : State := s.emit (.mctp bus code data)

/-- Completion codes: success; invalid data; not ready; invalid state; already in update mode (log entry 31). -/
def ccOk : BitVec 8 := 0x00
def ccInvalidData : BitVec 8 := 0x02
def ccNotReady : BitVec 8 := 0x04
def ccState : BitVec 8 := 0x84
def ccUpdating : BitVec 8 := 0x81

/-! ### MCTP control (15 R419) -/

def Lantern.eid (l : Lantern) (bus : Bool) : BitVec 8 := if bus then l.eidSmb else l.eidI3c

/-- The bus owner assigns the endpoint ID of its bus. -/
def execSetEndpointId (bus : Bool) (eid : BitVec 8) (s : State) : Host.Outcome State Fault Refusal :=
  if s.controlUp then
    let l := if bus then { s.lan with eidSmb := eid } else { s.lan with eidI3c := eid }
    ok ({ s with lan := l }.answer bus ccOk [eid])
  else ok s

def execGetEndpointId (bus : Bool) (s : State) : Host.Outcome State Fault Refusal :=
  if s.controlUp then ok (s.answer bus ccOk [s.lan.eid bus]) else ok s

def execGetEndpointUuid (bus : Bool) (s : State) : Host.Outcome State Fault Refusal :=
  if s.controlUp then ok (s.answer bus ccOk (Config.pldmData 0 (s.fuse.serial.toNat) 0)) else ok s

def execGetMctpVersionSupport (bus : Bool) (type : BitVec 8) (s : State) : Host.Outcome State Fault Refusal :=
  if s.controlUp then ok (s.answer bus ccOk (Config.pldmData 1 type.toNat 0)) else ok s

/-- Message types 0x00 control and 0x01 PLDM. -/
def execGetMessageTypeSupport (bus : Bool) (s : State) : Host.Outcome State Fault Refusal :=
  if s.controlUp then ok (s.answer bus ccOk [0x00, 0x01]) else ok s

/-! ### PLDM type 0 -/

def execGetTid (bus : Bool) (s : State) : Host.Outcome State Fault Refusal :=
  if s.pldmUp then ok (s.answer bus ccOk [s.lan.tid]) else ok s

def execSetTid (bus : Bool) (tid : BitVec 8) (s : State) : Host.Outcome State Fault Refusal :=
  if s.pldmUp then ok ({ s with lan := { s.lan with tid := tid } }.answer bus ccOk []) else ok s

def execGetPldmVersion (bus : Bool) (type : BitVec 8) (s : State) : Host.Outcome State Fault Refusal :=
  if s.pldmUp then ok (s.answer bus ccOk (Config.pldmData 2 type.toNat 0)) else ok s

/-- PLDM types supported: 0, 2 and 5; the others are not (R420). -/
def execGetPldmTypes (bus : Bool) (s : State) : Host.Outcome State Fault Refusal :=
  if s.pldmUp then ok (s.answer bus ccOk [0x00, 0x02, 0x05]) else ok s

def execGetPldmCommands (bus : Bool) (type : BitVec 8) (s : State) : Host.Outcome State Fault Refusal :=
  if s.pldmUp then ok (s.answer bus ccOk (Config.pldmData 3 type.toNat 0)) else ok s

/-! ### PLDM type 2 -/

def execGetPdrRepositoryInfo (bus : Bool) (s : State) : Host.Outcome State Fault Refusal :=
  if s.monitorUp then ok (s.answer bus ccOk (Config.pldmData 4 0 0)) else ok s

def execGetPdr (bus : Bool) (handle : BitVec 32) (s : State) : Host.Outcome State Fault Refusal :=
  if s.monitorUp then ok (s.answer bus ccOk (Config.pldmData 5 handle.toNat 0)) else ok s

/-- Numeric sensors: 0–47 the thermal sensors in °C, the rail powers after them (numbering: log entry 31). -/
def execGetSensorReading (bus : Bool) (sensor : Nat) (s : State) : Host.Outcome State Fault Refusal :=
  if s.monitorUp then
    if sensor < 48 then ok (s.answer bus ccOk (leBytes 2 (wrap 16 (Sparse.get 0 s.pwr.sensors sensor))))
    else ok ((s.answer bus ccOk (leBytes 8 s.freeVal.toNat)).useFree 1)
  else ok s

/-- State sensors: 0 READY, 1 FAULT_N low, 2 THERM_ALERT_N low, 3 firmware phase (numbering: log entry 31). -/
def execGetStateSensorReadings (bus : Bool) (sensor : Nat) (s : State) : Host.Outcome State Fault Refusal :=
  if s.monitorUp then
    let v := match sensor with
      | 0 => b2n s.pins.ready
      | 1 => b2n s.faultN
      | 2 => b2n s.pins.thermAlert
      | _ => (JState.pack s.lan.jstate).toNat % 4
    if sensor < 4 then ok (s.answer bus ccOk [BitVec.ofNat 8 v]) else ok (s.answer bus ccInvalidData [])
  else ok s

def execSetEventReceiver (bus : Bool) (enable eid : BitVec 8) (s : State) : Host.Outcome State Fault Refusal :=
  if s.monitorUp then
    ok ({ s with lan := { s.lan with evRcv := if enable = 0 then none else some (bus, eid) } }.answer bus ccOk [])
  else ok s

def execPlatformEventMessage (bus : Bool) (cls : BitVec 8) (s : State) : Host.Outcome State Fault Refusal :=
  if s.monitorUp then ok ((s.answer bus ccOk (Config.pldmData 6 cls.toNat s.free)).useFree 1) else ok s

/-! ### PLDM type 5: the update (15 R410, R416, R419, R421) -/

def execQueryDeviceIdentifiers (bus : Bool) (s : State) : Host.Outcome State Fault Refusal :=
  if s.pldmUp then ok (s.answer bus ccOk (Config.pldmData 7 0 0)) else ok s

/-- Firmware state: the versions of the running image and of a pending one. -/
def execGetFirmwareParameters (bus : Bool) (s : State) : Host.Outcome State Fault Refusal :=
  if s.pldmUp then
    let v := match s.lan.running.image? with | none => 0 | some i => i.version.toNat
    ok ((s.answer bus ccOk (Config.pldmData 8 v s.free)).useFree 1)
  else ok s

/-- Largest component: 64 MiB. -/
def componentLimit : Nat := 67108864

/-- Bytes of a transfer: min(MaximumTransferSize, 4,096), at least 32. -/
def transferSize (maxTransfer : Nat) : Nat := Nat.max 32 (Nat.min maxTransfer 4096)

/-- An update begins; one at a time, on either bus. -/
def execRequestUpdate (bus : Bool) (maxTransfer : Nat) (s : State) : Host.Outcome State Fault Refusal :=
  if s.pldmUp = false then ok s
  else if s.lan.upd ≠ .idle then ok (s.answer bus ccUpdating [])
  else
    let l : Lantern := { s.lan with upd := .learn, updBus := bus, maxTransfer := transferSize maxTransfer, updStarted := false,
                                    staging := none, stagingKeys := none, received := 0 }
    ok ({ s with lan := l }.answer bus ccOk [])

/-- The update command comes in its state, on the bus of the update. -/
def State.updating (s : State) (bus : Bool) (u : UpdState) : Bool := s.pldmUp && decide (s.lan.upd = u) && s.lan.updBus == bus

/-- A command out of its state is refused. -/
def State.notNow (s : State) (bus : Bool) : State := if s.pldmUp then s.answer bus ccState [] else s

/-- Components: 0x0000 the main image, 0x0001 the key manifest. -/
def execPassComponentTable (bus : Bool) (component : Nat) (s : State) : Host.Outcome State Fault Refusal :=
  if s.updating bus .learn then
    if component ≤ 1 then ok ({ s with lan := { s.lan with upd := .ready } }.answer bus ccOk [])
    else ok (s.answer bus ccInvalidData [])
  else ok (s.notNow bus)

/-- The download of a component starts; recovery boot rejects an image that does not fit before its first erase (R398). -/
def execUpdateComponent (bus : Bool) (component size : Nat) (s : State) : Host.Outcome State Fault Refusal :=
  if s.updating bus .ready then
    if component ≤ 1 ∧ size ≤ componentLimit ∧ (s.gbl.recovery = true → component = 0 → size ≤ 65536 * s.lan.slotSize) then
      let l : Lantern := { s.lan with upd := .download, component := component, compSize := size, received := 0 }
      ok ({ s with lan := l }.answer bus ccOk [])
    else ok (s.answer bus ccInvalidData [])
  else ok (s.notNow bus)

/-- A piece of the component arrives, in order and no larger than the transfer size. In recovery boot it goes straight into the
running slot, under steps 2 and 3; its hash is in the piece (a free value here). -/
def execRequestFirmwareData (bus : Bool) (off len : Nat) (s : State) : Host.Outcome State Fault Refusal :=
  if s.updating bus .download then
    if off = s.lan.received ∧ len ≤ s.lan.maxTransfer ∧ off + len ≤ s.lan.compSize then
      let s1 : State :=
        if s.gbl.recovery = true ∧ s.lan.component = 0 ∧ s.lan.updStarted = false then
          { s with lan := s.lan.startRunning s.freeVal }.useFree 1
        else s
      ok { s1 with lan := { s1.lan with received := off + len } }
    else ok (s.answer bus ccInvalidData [])
  else ok (s.notNow bus)

/-- The download ends: the component is staged. -/
def execTransferComplete (bus : Bool) (image : FwImage) (keys : Option KeyManifest) (s : State) : Host.Outcome State Fault Refusal :=
  if s.updating bus .download then
    if s.lan.received = s.lan.compSize then
      let l : Lantern := if s.lan.component = 0 then { s.lan with upd := .verify, staging := some image }
        else { s.lan with upd := .verify, stagingKeys := keys }
      ok ({ s with lan := l }.answer bus ccOk [])
    else ok (s.answer bus ccState [])
  else ok (s.notNow bus)

/-- Step 0 on a staged image: format, tag, hash, signatures, SVN, stepping, size. -/
def State.stagedGood (s : State) (i : FwImage) : Bool :=
  let l := s.lan
  i.magic == 0x5A4C4E31 && i.fmtVer == 1 && l.imageValid (.whole i) && decide (l.fuseSvn ≤ i.svn)
    && i.steppings.getLsbD (if s.fuse.b0 then 1 else 0) && l.fits i

/-- Step 0 on a staged key manifest: signed under the root key. -/
def Lantern.keysGood (l : Lantern) : Bool := match l.stagingKeys with | none => false | some m => m.rootOk

/-- The update ends with nothing more written. -/
def Lantern.endUpdate (l : Lantern) : Lantern :=
  { l with upd := .idle, staging := none, stagingKeys := none, received := 0, updStarted := false }

/-- Step 0, then the apply steps begin: the shadow copy when the shadow slot is not valid, else UPDATE_STARTED and the running
slot. In recovery boot the slot is being written already. -/
def execVerifyComplete (bus : Bool) (s : State) : Host.Outcome State Fault Refusal :=
  if s.updating bus .verify then
    let l := s.lan
    if l.component = 0 then
      match l.staging with
      | none => ok { s with lan := l.endUpdate }
      | some i =>
        if s.stagedGood i then
          let l1 : Lantern := { l with upd := .apply }
          let l2 :=
            if s.gbl.recovery then
              (if l1.flashOp.isNone && l1.updStarted then { l1 with running := .whole i } else l1)
            else if l1.shadowValid then l1.startRunning (BitVec.ofNat 64 i.hash) else l1.startShadow
          ok ({ s with lan := l2 }.answer bus ccOk [])
        else ok ({ s with lan := l.endUpdate }.answer bus ccInvalidData [])
    else if l.keysGood then ok ({ s with lan := { l with upd := .apply } }.answer bus ccOk [])
    else ok ({ s with lan := l.endUpdate }.answer bus ccInvalidData [])
  else ok (s.notNow bus)

/-- The key manifest goes to the copy not in force. -/
def Lantern.writeKeys (l : Lantern) : Lantern :=
  if l.keyB.isSome && decide (l.keyB = l.manifest) then { l with keyA := l.stagingKeys } else { l with keyB := l.stagingKeys }

/-- Steps 4 and 5: the slot is read back and checked, and PENDING is journalled. A check that fails writes no PENDING. -/
def execApplyComplete (bus : Bool) (readBackOk : Bool) (s : State) : Host.Outcome State Fault Refusal :=
  if s.updating bus .apply && s.lan.flashOp.isNone then
    let l := s.lan
    if l.component = 0 then
      if readBackOk && l.imageValid l.running then
        let v : W64 := match l.running.image? with | none => 0 | some i => i.version
        ok ({ s with lan := { l.append 0x05 v 0 with upd := .activate, staging := none } }.answer bus ccOk [])
      else ok ({ s with lan := { l.endUpdate with running := .torn } }.answer bus ccInvalidData [])
    else ok ({ s with lan := { l.writeKeys with upd := .activate, stagingKeys := none } }.answer bus ccOk [])
  else ok (s.notNow bus)

/-- Activation: self-contained resets at once, unless an operation holds a tag; otherwise at the next reset. -/
def execActivateFirmware (bus : Bool) (self : Bool) (s : State) : Host.Outcome State Fault Refusal :=
  if s.updating bus .activate then
    if self then
      if s.q.ops.isEmpty then ok ((s.answer bus ccOk []).internalReset 0 false) else ok (s.answer bus ccNotReady [])
    else ok ({ s with lan := { s.lan with upd := .idle } }.answer bus ccOk [])
  else ok (s.notNow bus)

/-- State codes of GetStatus (DSP0267; log entry 31). -/
def UpdState.code : UpdState → Nat
  | .idle => 0 | .learn => 1 | .ready => 2 | .download => 3 | .verify => 4 | .apply => 5 | .activate => 6

def execGetStatus (bus : Bool) (s : State) : Host.Outcome State Fault Refusal :=
  if s.pldmUp then
    ok ((s.answer bus ccOk (BitVec.ofNat 8 s.lan.upd.code :: Config.pldmData 9 s.lan.upd.code s.free)).useFree 1)
  else ok s

/-- A transfer, verification or application is cancelled before step 2; afterwards it is refused. -/
def execCancelUpdateComponent (bus : Bool) (s : State) : Host.Outcome State Fault Refusal :=
  let l := s.lan
  if s.pldmUp = false then ok s
  else if (l.upd = .download ∨ l.upd = .verify ∨ l.upd = .apply) ∧ l.updBus = bus ∧ l.updStarted = false then
    ok ({ s with lan := { l with upd := .ready, staging := none, stagingKeys := none, received := 0 } }.answer bus ccOk [])
  else ok (s.notNow bus)

/-- Before step 2 the staging area is discarded; after it CancelUpdate is refused, and the update runs to PENDING. -/
def execCancelUpdate (bus : Bool) (s : State) : Host.Outcome State Fault Refusal :=
  let l := s.lan
  if s.pldmUp = false then ok s
  else if l.upd ≠ .idle ∧ l.upd ≠ .activate ∧ l.updBus = bus ∧ l.updStarted = false then
    ok ({ s with lan := l.endUpdate }.answer bus ccOk [])
  else ok (s.notNow bus)

end Sys2Proof.Machine
end

