-- ==== Sys2Proof/Machine/Dispatch.lean ====
section
/-!
DEFINITION. The meaning of each command: one arm per constructor of Instr.
-/

namespace Sys2Proof.Machine

def exec (i : Instr) (s : State) : Host.Outcome State Fault Refusal :=
  match i with
  | .nop t slot => Sys2Proof.Machine.execNop t slot s
  | .lds t o => Sys2Proof.Machine.execLds t o s
  | .mma t o => Sys2Proof.Machine.execMma t o s
  | .ewm t o => Sys2Proof.Machine.execEwm t o s
  | .drn t o => Sys2Proof.Machine.execDrn t o s
  | .accFlip t p => Sys2Proof.Machine.execAccFlip t p s
  | .add t o => Sys2Proof.Machine.execAdd t o s
  | .sub t o => Sys2Proof.Machine.execSub t o s
  | .mul t o => Sys2Proof.Machine.execMul t o s
  | .fma t o => Sys2Proof.Machine.execFma t o s
  | .sqrt t o => Sys2Proof.Machine.execSqrt t o s
  | .rcp t o => Sys2Proof.Machine.execRcp t o s
  | .rsq t o => Sys2Proof.Machine.execRsq t o s
  | .div t o => Sys2Proof.Machine.execDiv t o s
  | .exp2 t o => Sys2Proof.Machine.execExp2 t o s
  | .log2 t o => Sys2Proof.Machine.execLog2 t o s
  | .max t o => Sys2Proof.Machine.execMax t o s
  | .min t o => Sys2Proof.Machine.execMin t o s
  | .abs t o => Sys2Proof.Machine.execAbs t o s
  | .neg t o => Sys2Proof.Machine.execNeg t o s
  | .cpysgn t o => Sys2Proof.Machine.execCpysgn t o s
  | .cmpEq t o => Sys2Proof.Machine.execCmpEq t o s
  | .cmpNe t o => Sys2Proof.Machine.execCmpNe t o s
  | .cmpLt t o => Sys2Proof.Machine.execCmpLt t o s
  | .cmpLe t o => Sys2Proof.Machine.execCmpLe t o s
  | .cmpGt t o => Sys2Proof.Machine.execCmpGt t o s
  | .cmpGe t o => Sys2Proof.Machine.execCmpGe t o s
  | .sel t o => Sys2Proof.Machine.execSel t o s
  | .iadd t o => Sys2Proof.Machine.execIadd t o s
  | .isub t o => Sys2Proof.Machine.execIsub t o s
  | .imul t o => Sys2Proof.Machine.execImul t o s
  | .and t o => Sys2Proof.Machine.execAnd t o s
  | .or t o => Sys2Proof.Machine.execOr t o s
  | .xor t o => Sys2Proof.Machine.execXor t o s
  | .shl t o => Sys2Proof.Machine.execShl t o s
  | .shr t o => Sys2Proof.Machine.execShr t o s
  | .sar t o => Sys2Proof.Machine.execSar t o s
  | .redAdd t o => Sys2Proof.Machine.execRedAdd t o s
  | .redSsq t o => Sys2Proof.Machine.execRedSsq t o s
  | .redMax t o => Sys2Proof.Machine.execRedMax t o s
  | .redMin t o => Sys2Proof.Machine.execRedMin t o s
  | .cvt t o => Sys2Proof.Machine.execCvt t o s
  | .ldVb t o => Sys2Proof.Machine.execLdVb t o s
  | .stVb t o => Sys2Proof.Machine.execStVb t o s
  | .xfer t o => Sys2Proof.Machine.execXfer t o s
  | .hbmRd t o => Sys2Proof.Machine.execHbmRd t o s
  | .hbmWr t o => Sys2Proof.Machine.execHbmWr t o s
  | .atomAdd t o => Sys2Proof.Machine.execAtomAdd t o s
  | .atomSwap t o => Sys2Proof.Machine.execAtomSwap t o s
  | .gth t o => Sys2Proof.Machine.execGth t o s
  | .gscAdd t o => Sys2Proof.Machine.execGscAdd t o s
  | .segSum t o => Sys2Proof.Machine.execSegSum t o s
  | .segMax t o => Sys2Proof.Machine.execSegMax t o s
  | .segMin t o => Sys2Proof.Machine.execSegMin t o s
  | .sortU32 t o => Sys2Proof.Machine.execSortU32 t o s
  | .sortI32 t o => Sys2Proof.Machine.execSortI32 t o s
  | .sortF32 t o => Sys2Proof.Machine.execSortF32 t o s
  | .walkCsr t o => Sys2Proof.Machine.execWalkCsr t o s
  | .walkBsp t o => Sys2Proof.Machine.execWalkBsp t o s
  | .dgSt t o => Sys2Proof.Machine.execDgSt t o s
  | .loop t o => Sys2Proof.Machine.execLoop t o s
  | .setc t p csel imm => Sys2Proof.Machine.execSetc t p csel imm s
  | .addc t p csel imm => Sys2Proof.Machine.execAddc t p csel imm s
  | .ldc t p csel handle => Sys2Proof.Machine.execLdc t p csel handle s
  | .setcmp t o => Sys2Proof.Machine.execSetcmp t o s
  | .skip t p nm1 => Sys2Proof.Machine.execSkip t p nm1 s
  | .wait t o => Sys2Proof.Machine.execWait t o s
  | .waitSatisfied t => Sys2Proof.Machine.execWaitSatisfied t s
  | .signal t p flag add imm => Sys2Proof.Machine.execSignal t p flag add imm s
  | .signalLanding ts => Sys2Proof.Machine.execSignalLanding ts s
  | .setvl t p vlm1 => Sys2Proof.Machine.execSetvl t p vlm1 s
  | .setmsk t p msel imm => Sys2Proof.Machine.execSetmsk t p msel imm s
  | .setrsp t p vb slot => Sys2Proof.Machine.execSetrsp t p vb slot s
  | .dgClr t p da => Sys2Proof.Machine.execDgClr t p da s
  | .safe t => Sys2Proof.Machine.execSafe t s
  | .halt t => Sys2Proof.Machine.execHalt t s
  | .replayLoopEnd t => Sys2Proof.Machine.execReplayLoopEnd t s
  | .replayReserveEnd t => Sys2Proof.Machine.execReplayReserveEnd t s
  | .bankTransitionComplete t bank => Sys2Proof.Machine.execBankTransitionComplete t bank s
  | .elasticStall t cycles => Sys2Proof.Machine.execElasticStall t cycles s
  | .routerDelivery d => Sys2Proof.Machine.execRouterDelivery d s
  | .indexSlotEnd e => Sys2Proof.Machine.execIndexSlotEnd e s
  | .loadProgram tag => Sys2Proof.Machine.execLoadProgram tag s
  | .unload tag => Sys2Proof.Machine.execUnload tag s
  | .launchAt tag => Sys2Proof.Machine.execLaunchAt tag s
  | .runSteps tag curv => Sys2Proof.Machine.execRunSteps tag curv s
  | .dmaH2d tag => Sys2Proof.Machine.execDmaH2d tag s
  | .dmaD2h tag => Sys2Proof.Machine.execDmaD2h tag s
  | .stateRead tag => Sys2Proof.Machine.execStateRead tag s
  | .snapshot tag => Sys2Proof.Machine.execSnapshot tag s
  | .snapshotTake tag => Sys2Proof.Machine.execSnapshotTake tag s
  | .signalDescriptor tag => Sys2Proof.Machine.execSignalDescriptor tag s
  | .waitDescriptor tag => Sys2Proof.Machine.execWaitDescriptor tag s
  | .waitDescriptorDone tag => Sys2Proof.Machine.execWaitDescriptorDone tag s
  | .collTableLoad tag => Sys2Proof.Machine.execCollTableLoad tag s
  | .preempt tag => Sys2Proof.Machine.execPreempt tag s
  | .preemptSaveComplete => Sys2Proof.Machine.execPreemptSaveComplete s
  | .preemptResume => Sys2Proof.Machine.execPreemptResume s
  | .abort tag => Sys2Proof.Machine.execAbort tag s
  | .abortAll tag => Sys2Proof.Machine.execAbortAll tag s
  | .replay tag s0 => Sys2Proof.Machine.execReplay tag s0 s
  | .doorbellSnoop n stores => Sys2Proof.Machine.execDoorbellSnoop n stores s
  | .doorbellPoll n stores => Sys2Proof.Machine.execDoorbellPoll n stores s
  | .descriptorFetch => Sys2Proof.Machine.execDescriptorFetch s
  | .completionRecordWrite tag => Sys2Proof.Machine.execCompletionRecordWrite tag s
  | .pageRequestResponse port page code => Sys2Proof.Machine.execPageRequestResponse port page code s
  | .atsInvalidation port page deny => Sys2Proof.Machine.execAtsInvalidation port page deny s
  | .waitCycleCheck => Sys2Proof.Machine.execWaitCycleCheck s
  | .ringEnable n cfg => Sys2Proof.Machine.execRingEnable n cfg s
  | .ringDisable n cfg => Sys2Proof.Machine.execRingDisable n cfg s
  | .qCtailWrite n v => Sys2Proof.Machine.execQCtailWrite n v s
  | .faultRespRetry n => Sys2Proof.Machine.execFaultRespRetry n s
  | .faultRespAbort n => Sys2Proof.Machine.execFaultRespAbort n s
  | .qFlagWrite idx v => Sys2Proof.Machine.execQFlagWrite idx v s
  | .qFlagAdd idx v => Sys2Proof.Machine.execQFlagAdd idx v s
  | .hpOwnWrite idx v => Sys2Proof.Machine.execHpOwnWrite idx v s
  | .tbCtrlWrite v => Sys2Proof.Machine.execTbCtrlWrite v s
  | .tbLeadWrite v => Sys2Proof.Machine.execTbLeadWrite v s
  | .tbCollTmoWrite v => Sys2Proof.Machine.execTbCollTmoWrite v s
  | .lnkDisable n => Sys2Proof.Machine.execLnkDisable n s
  | .lnkRetrain n => Sys2Proof.Machine.execLnkRetrain n s
  | .fltAck v => Sys2Proof.Machine.execFltAck v s
  | .settingsRead => Sys2Proof.Machine.execSettingsRead s
  | .settingsWrite => Sys2Proof.Machine.execSettingsWrite s
  | .repairListRead => Sys2Proof.Machine.execRepairListRead s
  | .ssCtrlWrite v => Sys2Proof.Machine.execSsCtrlWrite v s
  | .ssTailWrite v => Sys2Proof.Machine.execSsTailWrite v s
  | .registerWrite port off size v => Sys2Proof.Machine.execRegisterWrite port off size v s
  | .apertureWrite port off data => Sys2Proof.Machine.execApertureWrite port off data s
  | .apertureRead port off len => Sys2Proof.Machine.execApertureRead port off len s
  | .countTick => Sys2Proof.Machine.execCountTick s
  | .timeTransferExchange t1 => Sys2Proof.Machine.execTimeTransferExchange t1 s
  | .timeTransferRequest port t2 t3 => Sys2Proof.Machine.execTimeTransferRequest port t2 t3 s
  | .timeTransferReply port t2 t3 t4 rootCount => Sys2Proof.Machine.execTimeTransferReply port t2 t3 t4 rootCount s
  | .holdoverEntry => Sys2Proof.Machine.execHoldoverEntry s
  | .timePpsEdge => Sys2Proof.Machine.execTimePpsEdge s
  | .ppsLost => Sys2Proof.Machine.execPpsLost s
  | .refLost => Sys2Proof.Machine.execRefLost s
  | .readyMessage part clk => Sys2Proof.Machine.execReadyMessage part clk s
  | .launchDeadline => Sys2Proof.Machine.execLaunchDeadline s
  | .goAnnouncement c coord => Sys2Proof.Machine.execGoAnnouncement c coord s
  | .cancelAnnouncement coord clocks => Sys2Proof.Machine.execCancelAnnouncement coord clocks s
  | .goCountReached => Sys2Proof.Machine.execGoCountReached s
  | .pauseAnnouncement p coord => Sys2Proof.Machine.execPauseAnnouncement p coord s
  | .pauseCountReached => Sys2Proof.Machine.execPauseCountReached s
  | .resumeAnnouncement q => Sys2Proof.Machine.execResumeAnnouncement q s
  | .resumeCountReached => Sys2Proof.Machine.execResumeCountReached s
  | .stopAnnouncement c coord status pre => Sys2Proof.Machine.execStopAnnouncement c coord status pre s
  | .stopCountReached => Sys2Proof.Machine.execStopCountReached s
  | .routerDrainComplete => Sys2Proof.Machine.execRouterDrainComplete s
  | .legReceive port l => Sys2Proof.Machine.execLegReceive port l s
  | .legConfirm entry chunk level member => Sys2Proof.Machine.execLegConfirm entry chunk level member s
  | .legRerequest entry chunk level member => Sys2Proof.Machine.execLegRerequest entry chunk level member s
  | .collectiveTimeout entry => Sys2Proof.Machine.execCollectiveTimeout entry s
  | .flitTransmit n => Sys2Proof.Machine.execFlitTransmit n s
  | .dataFlit n f => Sys2Proof.Machine.execDataFlit n f s
  | .controlFlit n f => Sys2Proof.Machine.execControlFlit n f s
  | .idleFlit n f => Sys2Proof.Machine.execIdleFlit n f s
  | .nak n f => Sys2Proof.Machine.execNak n f s
  | .tunnelledData n f => Sys2Proof.Machine.execTunnelledData n f s
  | .failureNotice n f part port => Sys2Proof.Machine.execFailureNotice n f part port s
  | .laneMap n f lane => Sys2Proof.Machine.execLaneMap n f lane s
  | .retryTimerExpiry n => Sys2Proof.Machine.execRetryTimerExpiry n s
  | .retryBudgetExpiry n => Sys2Proof.Machine.execRetryBudgetExpiry n s
  | .laneLossOfLock n lane => Sys2Proof.Machine.execLaneLossOfLock n lane s
  | .laneErrorWindow n lane bad total => Sys2Proof.Machine.execLaneErrorWindow n lane bad total s
  | .laneRemapComplete n => Sys2Proof.Machine.execLaneRemapComplete n s
  | .lightWarn engine => Sys2Proof.Machine.execLightWarn engine s
  | .lightFail engine => Sys2Proof.Machine.execLightFail engine s
  | .lightRestored engine => Sys2Proof.Machine.execLightRestored engine s
  | .linkTrainingComplete n r => Sys2Proof.Machine.execLinkTrainingComplete n r s
  | .hbmSlot stack pch frame k o => Sys2Proof.Machine.execHbmSlot stack pch frame k o s
  | .hbmReadDelivery => Sys2Proof.Machine.execHbmReadDelivery s
  | .refreshFrame stack pch frame => Sys2Proof.Machine.execRefreshFrame stack pch frame s
  | .odeccPoll => Sys2Proof.Machine.execOdeccPoll s
  | .freeRunEntry die => Sys2Proof.Machine.execFreeRunEntry die s
  | .freeRunExit die => Sys2Proof.Machine.execFreeRunExit die s
  | .backgroundTestSlot t differs => Sys2Proof.Machine.execBackgroundTestSlot t differs s
  | .stepIntake => Sys2Proof.Machine.execStepIntake s
  | .stepReplaySection => Sys2Proof.Machine.execStepReplaySection s
  | .sectionStart sect => Sys2Proof.Machine.execSectionStart sect s
  | .gradientQuantisation urec dw => Sys2Proof.Machine.execGradientQuantisation urec dw s
  | .normDecision sumSq => Sys2Proof.Machine.execNormDecision sumSq s
  | .updateSweep => Sys2Proof.Machine.execUpdateSweep s
  | .shadowFrameEmit => Sys2Proof.Machine.execShadowFrameEmit s
  | .stepEnd => Sys2Proof.Machine.execStepEnd s
  | .rootJob record blk fits => Sys2Proof.Machine.execRootJob record blk fits s
  | .rootDeadline record blk => Sys2Proof.Machine.execRootDeadline record blk s
  | .rootCommit record blk => Sys2Proof.Machine.execRootCommit record blk s
  | .precondition record urec optRec => Sys2Proof.Machine.execPrecondition record urec optRec s
  | .solveJob record fits => Sys2Proof.Machine.execSolveJob record fits s
  | .digestCollection layer mb tid kind parts len => Sys2Proof.Machine.execDigestCollection layer mb tid kind parts len s
  | .ownerDigestWrite tid len => Sys2Proof.Machine.execOwnerDigestWrite tid len s
  | .weightStreamCheck layer tid len => Sys2Proof.Machine.execWeightStreamCheck layer tid len s
  | .shadowFrameHeader bytes => Sys2Proof.Machine.execShadowFrameHeader bytes s
  | .shadowSegment bytes => Sys2Proof.Machine.execShadowSegment bytes s
  | .shadowFrameTrailer bytes => Sys2Proof.Machine.execShadowFrameTrailer bytes s
  | .tileFault t => Sys2Proof.Machine.execTileFault t s
  | .handshakeTimeout t => Sys2Proof.Machine.execHandshakeTimeout t s
  | .recoveryRemap => Sys2Proof.Machine.execRecoveryRemap s
  | .restoreFromReplayPoint => Sys2Proof.Machine.execRestoreFromReplayPoint s
  | .recoveryFetch peer addr len => Sys2Proof.Machine.execRecoveryFetch peer addr len s
  | .catchUpPoint => Sys2Proof.Machine.execCatchUpPoint s
  | .replayRecordComplete idx => Sys2Proof.Machine.execReplayRecordComplete idx s
  | .partLoss part => Sys2Proof.Machine.execPartLoss part s
  | .thermalSample temps => Sys2Proof.Machine.execThermalSample temps s
  | .thermtrip => Sys2Proof.Machine.execThermtrip s
  | .pwrgdLoss => Sys2Proof.Machine.execPwrgdLoss s
  | .sysclkLoss => Sys2Proof.Machine.execSysclkLoss s
  | .auxPowerLoss => Sys2Proof.Machine.execAuxPowerLoss s
  | .avsAdjust mv ok => Sys2Proof.Machine.execAvsAdjust mv ok s
  | .avsRetry ok => Sys2Proof.Machine.execAvsRetry ok s
  | .vcoreOutOfRange => Sys2Proof.Machine.execVcoreOutOfRange s
  | .sysRstAssert => Sys2Proof.Machine.execSysRstAssert s
  | .sysRstDeassert strap loaderOk => Sys2Proof.Machine.execSysRstDeassert strap loaderOk s
  | .pwrgdAllAssert => Sys2Proof.Machine.execPwrgdAllAssert s
  | .pwrgdTimeout => Sys2Proof.Machine.execPwrgdTimeout s
  | .hbmTrainingComplete stack ok => Sys2Proof.Machine.execHbmTrainingComplete stack ok s
  | .bootScrub => Sys2Proof.Machine.execBootScrub s
  | .readyAssert => Sys2Proof.Machine.execReadyAssert s
  | .perstAssert port => Sys2Proof.Machine.execPerstAssert port s
  | .perstDeassert port => Sys2Proof.Machine.execPerstDeassert port s
  | .confirm => Sys2Proof.Machine.execConfirm s
  | .confirmTimeout => Sys2Proof.Machine.execConfirmTimeout s
  | .watchdogReset => Sys2Proof.Machine.execWatchdogReset s
  | .eraseSuspend => Sys2Proof.Machine.execEraseSuspend s
  | .xipBusFault task => Sys2Proof.Machine.execXipBusFault task s
  | .setEndpointId bus eid => Sys2Proof.Machine.execSetEndpointId bus eid s
  | .getEndpointId bus => Sys2Proof.Machine.execGetEndpointId bus s
  | .getEndpointUuid bus => Sys2Proof.Machine.execGetEndpointUuid bus s
  | .getMctpVersionSupport bus type => Sys2Proof.Machine.execGetMctpVersionSupport bus type s
  | .getMessageTypeSupport bus => Sys2Proof.Machine.execGetMessageTypeSupport bus s
  | .getTid bus => Sys2Proof.Machine.execGetTid bus s
  | .setTid bus tid => Sys2Proof.Machine.execSetTid bus tid s
  | .getPldmVersion bus type => Sys2Proof.Machine.execGetPldmVersion bus type s
  | .getPldmTypes bus => Sys2Proof.Machine.execGetPldmTypes bus s
  | .getPldmCommands bus type => Sys2Proof.Machine.execGetPldmCommands bus type s
  | .getPdrRepositoryInfo bus => Sys2Proof.Machine.execGetPdrRepositoryInfo bus s
  | .getPdr bus handle => Sys2Proof.Machine.execGetPdr bus handle s
  | .getSensorReading bus sensor => Sys2Proof.Machine.execGetSensorReading bus sensor s
  | .getStateSensorReadings bus sensor => Sys2Proof.Machine.execGetStateSensorReadings bus sensor s
  | .setEventReceiver bus enable eid => Sys2Proof.Machine.execSetEventReceiver bus enable eid s
  | .platformEventMessage bus cls => Sys2Proof.Machine.execPlatformEventMessage bus cls s
  | .queryDeviceIdentifiers bus => Sys2Proof.Machine.execQueryDeviceIdentifiers bus s
  | .getFirmwareParameters bus => Sys2Proof.Machine.execGetFirmwareParameters bus s
  | .requestUpdate bus maxTransfer => Sys2Proof.Machine.execRequestUpdate bus maxTransfer s
  | .passComponentTable bus component => Sys2Proof.Machine.execPassComponentTable bus component s
  | .updateComponent bus component size => Sys2Proof.Machine.execUpdateComponent bus component size s
  | .requestFirmwareData bus off len => Sys2Proof.Machine.execRequestFirmwareData bus off len s
  | .transferComplete bus image keys => Sys2Proof.Machine.execTransferComplete bus image keys s
  | .verifyComplete bus => Sys2Proof.Machine.execVerifyComplete bus s
  | .applyComplete bus readBackOk => Sys2Proof.Machine.execApplyComplete bus readBackOk s
  | .activateFirmware bus self => Sys2Proof.Machine.execActivateFirmware bus self s
  | .getStatus bus => Sys2Proof.Machine.execGetStatus bus s
  | .cancelUpdateComponent bus => Sys2Proof.Machine.execCancelUpdateComponent bus s
  | .cancelUpdate bus => Sys2Proof.Machine.execCancelUpdate bus s
  | .vddAux33PowerOn => Sys2Proof.Machine.execVddAux33PowerOn s
  | .sysclkStable => Sys2Proof.Machine.execSysclkStable s
  | .time10mEdge => Sys2Proof.Machine.execTime10mEdge s
  | .flashOperationEnd => Sys2Proof.Machine.execFlashOperationEnd s
  | .tapInstruction op balls => Sys2Proof.Machine.execTapInstruction op balls s

end Sys2Proof.Machine
end

