-- ==== Sys2Proof/Machine/Figures.lean ====
section
/-!
DEFINITION. Figures of the part that no command reads: rates and power (00 R1, R2, R4), balls and straps (17 R452–R455), rails (17
R456–R458), timing and clocks (17 R461, R462), the sensor map (17 R466), cooling, ratings and conditions (17 R468–R470), and
package and optics (17 R471, R472, R474). Units are in the names; a limit the manual does not give is none.
-/

namespace Sys2Proof.Machine.Figures

/-- A limit with minimum, typical and maximum, in the smallest unit its table needs. -/
structure Limit where
  name : String
  min : Option Int
  typ : Option Int
  max : Option Int
  unit : String
  deriving DecidableEq, Repr

/-! ### The binding figures (00 R1, R2, R4) -/

/-- Core clock in MHz of a grade: true B14. -/
def clockMHz (b14 : Bool) : Nat := if b14 then 1400 else 1600

def logicalTiles : Nat := 1024
def physicalTiles : Nat := 1088
def hbmGiB : Nat := 512
def hbmStacks : Nat := 8
def zilioPorts : Nat := 32
def hostPorts : Nat := 2
def operationsInFlight : Nat := 4096
def scratchpadMiB : Nat := 1
def accumulatorEntries : Nat := 16384

/-- Multiply-adds of a tile's array in a cycle, two operations each. -/
def denseOpsPerCycle : Nat := logicalTiles * 64 * 64 * 2

/-- Dense FP8 rate in operations per microsecond. -/
def denseRate (b14 : Bool) : Nat := denseOpsPerCycle * clockMHz b14

/-- Zilio payload per direction in GB/s. -/
def zilioGBs : Nat := zilioPorts * 320

/-- HBM peak in GB/s. -/
def hbmGBs : Nat := hbmStacks * 2560

/-- TDP, typical training power and idle power in W. -/
def powerW (b14 : Bool) : Nat × Nat × Nat := if b14 then (2100, 1700, 240) else (2400, 1950, 260)

/-- Consumers at full load of an A16 part in W. -/
def loadW : List (String × Nat) :=
  [("Matrix arrays and data movement", 950), ("Vector engines and SRAM", 300), ("HBM at full bandwidth", 400),
   ("Optical engines", 245), ("Routers", 100), ("Host ports, management and miscellaneous", 60)]

/-- Decode figure in tokens per second per sequence. -/
def decodeTokens (b14 : Bool) : Nat := if b14 then 17500 else 20000

/-- Interruption after a single in-part fault in microseconds. -/
def interruptionUs : Nat := 1000

/-- An orderable part: grade (true B14), stepping (true B0), for production (00 R2; 17 R474). -/
def orderable : List (Bool × Bool × Bool) := [(false, true, true), (true, true, true), (false, false, false)]

/-- An ordering code: SN9-grade-L-stepping. -/
def orderingCode (b14 b0 : Bool) : String :=
  "SN9-" ++ (if b14 then "B14" else "A16") ++ "-L-" ++ (if b0 then "B0" else "A0")

/-! ### Balls (17 R452–R454) -/

/-- A position of the 93 × 93 array that carries no ball: the centre void, or a corner and its two edge neighbours. -/
def voidPosition (r c : Nat) : Bool :=
  let edge (x : Nat) : Bool := x == 1 || x == 93
  let next (x : Nat) : Bool := x == 2 || x == 92
  (decide (40 ≤ r ∧ r ≤ 54 ∧ 40 ≤ c ∧ c ≤ 54)) || (edge r && edge c) || (edge r && next c) || (next r && edge c)

def populated (r c : Nat) : Bool := decide (1 ≤ r ∧ r ≤ 93 ∧ 1 ≤ c ∧ c ≤ 93) && !voidPosition r c

def ballCount : Nat := 8412

/-- Ball groups and their balls. -/
def ballGroups : List (String × Nat) :=
  [("VDD_CORE", 2400), ("VSS", 4200), ("VDD_SRAM", 320), ("VDD_HBM", 400), ("VDDQ_HBM", 360), ("VDD_OPT09", 240),
   ("VDD_OPT18", 80), ("VDD_SERDES", 96), ("VDD_IO18", 24), ("VDD_AUX33", 16), ("Host port A", 67), ("Host port B", 67),
   ("Control and management", 40), ("Remote sense", 22), ("RSVD", 80)]

/-- The forty balls of clocks, time, control, flash, management, AVSBus and JTAG. -/
def controlBalls : List (String × Nat) :=
  [("SYSCLK", 2), ("TIME_PPS, TIME_10M", 2), ("SYS_RST_N, PWRGD_ALL, MAIN_EN, READY, FAULT_N, THERM_ALERT_N, THERMTRIP_N", 7),
   ("STRAP", 4), ("xSPI", 12), ("I3C", 2), ("SMBus", 3), ("AVSBus", 3), ("JTAG", 5)]

/-- Balls of a host port: lanes, reference clock, PERST_N. -/
def hostPortBalls : List (String × Nat) := [("TX and RX", 64), ("REFCLK", 2), ("PERST_N", 1)]

/-! ### Rails (17 R456–R458) -/

/-- A rail: nominal in mV (lowest and highest), regulation in parts per 1,000, TDC and EDC in A, stage (0 standby). -/
structure Rail where
  name : String
  lowMv : Nat
  highMv : Nat
  regulation : Nat
  tdc : Nat
  edc : Nat
  stage : Nat
  deriving DecidableEq, Repr

def rails : List Rail :=
  [⟨"VDD_AUX33", 3300, 3300, 50, 3, 4, 0⟩, ⟨"VDD_IO18", 1800, 1800, 50, 2, 3, 1⟩, ⟨"VDD_SRAM", 800, 800, 30, 180, 260, 2⟩,
   ⟨"VDD_CORE", 680, 880, 15, 1900, 3000, 2⟩, ⟨"VDD_HBM", 1050, 1050, 30, 280, 360, 3⟩,
   ⟨"VDDQ_HBM", 700, 700, 30, 220, 300, 4⟩, ⟨"VDD_OPT09", 900, 900, 30, 200, 240, 5⟩,
   ⟨"VDD_OPT18", 1800, 1800, 30, 45, 55, 5⟩, ⟨"VDD_SERDES", 900, 900, 30, 30, 40, 5⟩]

/-- VDD_CORE at boot in mV. -/
def bootCoreMv : Nat := 780

/-- The two relations that hold at all times: VDD_CORE ≤ VDD_SRAM + 0.15 V, VDDQ_HBM ≤ VDD_HBM + 0.10 V. -/
def railsRelated (core sram hbmq hbm : Nat) : Bool := decide (core ≤ sram + 150 ∧ hbmq ≤ hbm + 100)

/-! ### Timing and clocks (17 R461, R462) -/

def powerTiming : List Limit :=
  [⟨"tAUX", some 10000, none, none, "us"⟩, ⟨"tRST", some 1000, none, none, "us"⟩, ⟨"tSTS, tSTH", some 1000, none, none, "us"⟩,
   ⟨"tMEN", none, some 180000, some 400000, "us"⟩, ⟨"tRAMP", some 100, none, some 10000, "us"⟩,
   ⟨"tPG", none, none, some 200000, "us"⟩, ⟨"tSCK", some 1000, none, none, "us"⟩,
   ⟨"tRDY", none, some 600000, some 2800000, "us"⟩, ⟨"tPRST", some 100000, none, none, "us"⟩,
   ⟨"tREFP", some 100, none, none, "us"⟩, ⟨"tPCFG", none, none, some 1000000, "us"⟩, ⟨"tMOFF", none, none, some 1, "us"⟩]

def clockLimits : List Limit :=
  [⟨"fSYS", none, some 156250, none, "kHz"⟩, ⟨"dfSYS", some (-10), none, some 10, "ppm"⟩,
   ⟨"JSYS", none, none, some 150, "fs RMS"⟩, ⟨"SSYS", none, none, some 50, "ppb"⟩, ⟨"fREF", none, some 100000, none, "kHz"⟩,
   ⟨"f10M", none, some 10000, none, "kHz"⟩, ⟨"df10M", some (-10), none, some 10, "ppm"⟩, ⟨"D10M", some 40, none, some 60, "percent"⟩,
   ⟨"tPPSW", some 100, none, some 500000000, "ns"⟩]

/-- The counter runs at 6.4 × fSYS: kHz. -/
def counterKHz : Nat := 156250 * 64 / 10

/-! ### Sensors (17 R466) -/

/-- Where a thermal sensor is. -/
inductive SensorPlace where
  | die0 | die1 | hbmBase | optical | bridge | hostPhy
  deriving DecidableEq, Repr

def sensorPlace (k : Nat) : Option SensorPlace :=
  if k < 16 then some .die0 else if k < 32 then some .die1 else if k < 40 then some .hbmBase else if k < 44 then some .optical
  else if k < 46 then some .bridge else if k < 48 then some .hostPhy else none

/-- The value a sensor reports for a temperature: a stack's has 5 °C added. -/
def reported (k : Nat) (t : Int) : Int := if sensorPlace k = some .hbmBase then t + 5 else t

/-- Reported values at which a pause begins, its release counts, and THERMTRIP_N is asserted. -/
def pauseAt : Int := 100
def releaseAt : Int := 97
def tripAt : Int := 115

/-! ### Cooling, ratings and conditions (17 R468–R470) -/

/-- Junction-to-coolant-inlet resistance in 10^-4 °C per W. -/
def thetaJi : Nat := 208

def cooling : List Limit :=
  [⟨"TIN", some 15, none, some 40, "C"⟩, ⟨"QCOOL", some 3000, none, none, "mL/min"⟩, ⟨"FLID", some 400, none, some 600, "N"⟩,
   ⟨"TJ", some 0, none, some 105, "C"⟩]

def absoluteRatings : List Limit :=
  [⟨"VCORE_AM", some (-300), none, some 1000, "mV"⟩, ⟨"VSRAM_AM", some (-300), none, some 950, "mV"⟩,
   ⟨"VHBM_AM", some (-300), none, some 1200, "mV"⟩, ⟨"VHBMQ_AM", some (-300), none, some 850, "mV"⟩,
   ⟨"V09_AM", some (-300), none, some 1050, "mV"⟩, ⟨"V18_AM", some (-300), none, some 2000, "mV"⟩,
   ⟨"VAUX_AM", some (-300), none, some 3600, "mV"⟩, ⟨"VIN_AM over its rail", some (-300), none, some 300, "mV"⟩,
   ⟨"PLS_AM", none, none, some 21, "dBm"⟩, ⟨"TSTG", some (-40), none, some 125, "C"⟩, ⟨"TJ_AM", none, none, some 125, "C"⟩,
   ⟨"ESDH", none, none, some 1000, "V"⟩, ⟨"ESDC", none, none, some 250, "V"⟩]

def conditions : List Limit :=
  [⟨"VIH33", some 2000, none, some 3465, "mV"⟩, ⟨"VIL33", some (-300), none, some 800, "mV"⟩,
   ⟨"VIH18", some 1170, none, some 1890, "mV"⟩, ⟨"VIL18", some (-300), none, some 630, "mV"⟩,
   ⟨"VOL", none, none, some 400, "mV"⟩, ⟨"ILOSS", none, none, some 4000, "mdB"⟩]

/-! ### Package and optics (17 R471, R472; 10 R274) -/

def outline : List Limit :=
  [⟨"D, E", some 109850, some 110000, some 110150, "um"⟩, ⟨"e", none, some 1150, none, "um"⟩,
   ⟨"b", some 550, some 600, some 650, "um"⟩, ⟨"A", some 5900, some 6200, some 6500, "um"⟩, ⟨"ccc", none, none, some 200, "um"⟩,
   ⟨"m", none, some 255, none, "g"⟩]

/-- Distance between the outer ball centres in um. -/
def ballSpanUm : Nat := 92 * 1150

/-- Fibre positions of engine port i: transmit, receive. -/
def fibres (i : Nat) : Nat × Nat := (i + 1, i + 9)

/-- Light frequency of lane k in 0.1 THz. -/
def laneFreq (k : Nat) : Nat := 2288 + 4 * k

/-- Light input power per wavelength in dBm: operating range, warning, failure. -/
def lightLevels : Limit × Int × Int := (⟨"PLS", some 13, some 16, some 19, "dBm"⟩, 12, 10)

end Sys2Proof.Machine.Figures
end

