-- ==== Sys2Proof/Safety.lean ====
section
/-!
DEFINITION. What claims call safe: a step that answers a next state, and the memories of a state in their canonical form;
and the frames that the claims about bundles share.
-/

namespace Sys2Proof.Machine

/-- A step answers a next state. -/
def Completes (s : State) : Prop := ∃ s', step s = Host.Outcome.next s'

/-! ### Canonical forms -/

/-- HBM and the memories of the two hosts are in their canonical form. -/
def State.MemoryCanonical (s : State) : Prop :=
  Memory.wf s.hbm.mem = true ∧ Memory.wf s.hpA.mem = true ∧ Memory.wf s.hpB.mem = true

/-- The tiles, and those that a pre-emption saved, are listed in rising order, no tile twice and none that is as reset leaves it. -/
def State.TilesCanonical (s : State) : Prop :=
  Sparse.wfFrom Tile.reset 0 s.tiles = true ∧ ∀ v, s.saved = some v → Sparse.wfFrom Tile.reset 0 v.tiles = true

/-! ### The frame of a bundle's end (04 R110, R121–R123; 13 R368, R479) -/

/-- Two sequencers with the same registers: they may differ in where they stand (run, bundle, loops, skip, cycle). -/
def TileSeq.SameRegisters (q q' : TileSeq) : Prop :=
  q' = { q with run := q'.run, bundle := q'.bundle, loops := q'.loops, skip := q'.skip, cycle := q'.cycle }

/-- What the end of a bundle of tile t may change beside the C slot's own register: the tile's sequencer moves by one cycle,
power-bank transitions start, port cycles that are past are forgotten, a stop that falls due takes effect, and accesses of the
tile that the issue has passed are withdrawn. Everything else stays, every other tile included. -/
def BundleFrame (s u : State) (t : Nat) : Prop :=
  u = { s with tiles := u.tiles, hbm := { s.hbm with plan := withdrawPassed t (u.tile t).seq s.hbm.plan } } ∧
  (∀ v, v ≠ t → u.tile v = s.tile v) ∧
  u.tile t = { s.tile t with
    seq := (u.tile t).seq
    bankSp := { (s.tile t).bankSp with target := (u.tile t).bankSp.target }
    bank0 := { (s.tile t).bank0 with target := (u.tile t).bank0.target }
    bank1 := { (s.tile t).bank1 with target := (u.tile t).bank1.target }
    port := (s.tile t).port.filter fun e => decide ((s.tile t).seq.cycle + 1 ≤ e.1)
    stopAt := (u.tile t).stopAt } ∧
  (u.tile t).seq.cycle = (s.tile t).seq.cycle + 1

/-- The bundle of tile t ends and leaves the sequencer's registers as those of `q`. -/
def BundleLeaves (s u : State) (t : Nat) (q : TileSeq) : Prop := BundleFrame s u t ∧ q.SameRegisters (u.tile t).seq

/-! ### The result of a vector instruction (03 R82, R85; 01 R46) -/

/-- The elements `rs` stand at the start of operand d of tile t with their flags raised; the bits of the last byte past them,
every other byte of the vector buffers, everything else of the tile and everything else of the part stay. -/
def VectorResult (s u : State) (t : Nat) (d : VbOpnd) (rs : List Res) : Prop :=
  u = { s with tiles := u.tiles } ∧ (∀ v, v ≠ t → u.tile v = s.tile v) ∧
  u.tile t = { s.tile t with
    vb := (u.tile t).vb
    flags := raise (s.tile t).flags (rs.foldl (fun a r => a ||| r.2) 0) } ∧
  d.elems (u.tile t) rs.length = rs.map (fun r => r.1 % 2 ^ fmtBits d.d.fmt) ∧
  (let n := packedBytes d.d.fmt rs.length
   leNat (d.read (u.tile t) n) / 2 ^ (rs.length * fmtBits d.d.fmt)
      = leNat (d.read (s.tile t) n) / 2 ^ (rs.length * fmtBits d.d.fmt) ∧
   ∀ a, a < vbAt d.vb d.off.toNat ∨ vbAt d.vb d.off.toNat + n ≤ a →
      Bytes.read (u.tile t).vb a = Bytes.read (s.tile t).vb a)

/-! ### Operands of index engines -/

/-- n bytes of two operands do not meet. -/
def IxOperand.Apart (a b : IxOperand) (n : Nat) : Prop :=
  a.hbm ≠ b.hbm ∨ (a.hbm = false ∧ a.tile ≠ b.tile) ∨ a.addr + n ≤ b.addr ∨ b.addr + n ≤ a.addr

/-- Nothing that engine e's command reads or writes stands in its way: its inputs are there, it has no line of its own in the slot
plan, and the banks of its scratchpad operands are ON with every granule good. -/
def State.IxWhole (s : State) (e : Nat) (c : IxCmd) : Prop :=
  s.ixReady e c = true ∧ (∀ a ∈ s.hbm.plan, a.engine ≠ some e) ∧
  ∀ h ∈ [c.h0, c.h1, c.h2, c.h3], h.hbm = false → h.null = false →
    (s.tile h.tile).bankSp.state = .on ∧ (∀ g, Sparse.get 0 (s.tile h.tile).spErr g = 0) ∧ (s.tile h.tile).ctr.spEcc < 2 ^ 32

/-! ### Host operations -/

/-- A descriptor of an opcode holds the tag as its fetch left it and may start now (12 R331, R337), on a part that does not
refuse it (13 R375). -/
def State.Startable (s : State) (tag opcode : Nat) (o : Op) : Prop :=
  s.op tag = some o ∧ o.opcode = opcode ∧ o.valid = true ∧ o.phase = .fetched ∧ o.moved = 0 ∧ o.statuses = [] ∧
    s.mayStart tag o = true ∧ (o.compute && s.restricted) = false

/-- The operation of a tag is `o` afterwards; those of the other tags stay. -/
def State.OpIs (s u : State) (tag : Nat) (o : Op) : Prop := u.op tag = some o ∧ ∀ g, g ≠ tag → u.op g = s.op g

/-- No byte of a host access lies on a denied page. -/
def HostPort.Reaches (h : HostPort) (a n : Nat) : Prop := ∀ k, k < n → h.denies (a + k) = false

/-- A host port that takes the bytes at an address: they stand in host memory, and translations may be cached. -/
def State.HostTakes (s u : State) (b : Bool) (a : Nat) (bs : List Byte) : Prop :=
  u.hp b = { s.hp b with mem := Bytes.writeN (s.hp b).mem a bs, tcache := (u.hp b).tcache } ∧ u.hp (!b) = s.hp (!b)

/-! ### Replay points -/

/-- The recovery state takes state `u` as its replay point, the one before it as the previous, and empties what a re-execution from the
one before would have used (14 R382, R384). -/
def Recovery.Points (r v : Recovery) (u : State) : Prop :=
  ∃ p, p.step = u.gbl.step ∧ p.seqr = u.seqr ∧ p.pos = u.coll.pos ∧ p.segs = u.ss.segs ∧
    p.tiles = u.tiles.map (fun c => (c.1, c.2.seq)) ∧
    v = { r with
      previous := r.current
      current := some p
      log := []
      logFull := false
      upTo := []
      undo := []
      carried := []
      want := [] }

/-! ### The router at rest -/

/-- No collective is in progress and none waits for an attempt (11 R310). -/
def State.RouterAtRest (s : State) : Prop := s.coll.runs = [] ∧ s.coll.due = []

end Sys2Proof.Machine
end

