-- ==== Sys2Proof/WellFormed.lean ====
section
/-!
DEFINITION. Well-formed commands: numbers of tiles, tags, rings, ports, engines and parts lie in the ranges the manual gives them
(05 R141 1,024 tiles; 12 R338 4,096 tags; 12 R326 128 rings; 10 R262 32 ports; 03 R97 32 index engines; 13 R355 8 stacks of 64
pseudo-channels; 10 R278 part IDs to 4,111; 10 R271 17 lanes).
-/

namespace Sys2Proof

def okTile (t : Nat) : Bool := decide (t < 1024)
def okTag (g : Nat) : Bool := decide (g < 4096)
def okRing (n : Nat) : Bool := decide (n < 128)
def okPort (n : Nat) : Bool := decide (n < 32)
def okEngine (e : Nat) : Bool := decide (e < 32)
def okStack (k : Nat) : Bool := decide (k < 8)
def okPch (k : Nat) : Bool := decide (k < 64)
def okPart (p : Nat) : Bool := decide (p < 4112)

/-- A lane, or 17 for the loss of every lane. -/
def okLane (k : Nat) : Bool := decide (k ≤ 17)

/-- A flit carries 256 bytes of payload, and its two codewords are 160 bytes each (10 R264). -/
def okFlit (f : Flit) : Bool := decide (f.payload.length = 256 ∧ f.err0 ≤ 160 ∧ f.err1 ≤ 160)

/-- A leg's member is a part of a domain, or no part at all. -/
def okLeg (l : Leg) : Bool := decide (l.data.length ≤ 2 ^ 20)

/-- The operands of a command lie in their ranges. -/
def Instr.wf : Instr → Bool
  | .nop t _ | .lds t _ | .mma t _ | .ewm t _ | .drn t _ | .accFlip t _ | .add t _ | .sub t _ | .mul t _ | .fma t _
  | .sqrt t _ | .rcp t _ | .rsq t _ | .div t _ | .exp2 t _ | .log2 t _ | .max t _ | .min t _ | .abs t _ | .neg t _
  | .cpysgn t _ | .cmpEq t _ | .cmpNe t _ | .cmpLt t _ | .cmpLe t _ | .cmpGt t _ | .cmpGe t _ | .sel t _ | .iadd t _
  | .isub t _ | .imul t _ | .and t _ | .or t _ | .xor t _ | .shl t _ | .shr t _ | .sar t _ | .redAdd t _ | .redSsq t _
  | .redMax t _ | .redMin t _ | .cvt t _ | .ldVb t _ | .stVb t _ | .xfer t _ | .hbmRd t _ | .hbmWr t _ | .atomAdd t _
  | .atomSwap t _ | .gth t _ | .gscAdd t _ | .segSum t _ | .segMax t _ | .segMin t _ | .sortU32 t _ | .sortI32 t _
  | .sortF32 t _ | .walkCsr t _ | .walkBsp t _ | .dgSt t _ | .loop t _ | .setc t _ _ _ | .addc t _ _ _ | .ldc t _ _ _
  | .setcmp t _ | .skip t _ _ | .wait t _ | .waitSatisfied t | .signal t _ _ _ _ => okTile t
  | .signalLanding ts => ts.all okTile
  | .setvl t _ _ | .setmsk t _ _ _ | .setrsp t _ _ _ | .dgClr t _ _ | .safe t | .halt t | .replayLoopEnd t
  | .replayReserveEnd t | .bankTransitionComplete t _ => okTile t
  | .elasticStall t cycles => okTile t && decide (0 < cycles)
  | .routerDelivery d => decide (d.data.length ≤ 2 ^ 20)
  | .indexSlotEnd e => okEngine e
  | .loadProgram tag | .unload tag | .launchAt tag | .runSteps tag _ | .dmaH2d tag | .dmaD2h tag | .stateRead tag
  | .snapshot tag | .snapshotTake tag | .signalDescriptor tag | .waitDescriptor tag | .waitDescriptorDone tag
  | .collTableLoad tag | .preempt tag => okTag tag
  | .preemptSaveComplete | .preemptResume => true
  | .abort tag | .abortAll tag | .replay tag _ => okTag tag
  | .doorbellSnoop n _ | .doorbellPoll n _ => okRing n
  | .descriptorFetch => true
  | .completionRecordWrite tag => okTag tag
  | .pageRequestResponse _ page _ | .atsInvalidation _ page _ => decide (page < 2 ^ 52)
  | .waitCycleCheck => true
  | .ringEnable n _ | .ringDisable n _ | .qCtailWrite n _ | .faultRespRetry n | .faultRespAbort n => okRing n
  | .qFlagWrite i _ | .qFlagAdd i _ => decide (i < 256)
  | .hpOwnWrite i _ => decide (i < 16)
  | .tbCtrlWrite _ | .tbLeadWrite _ | .tbCollTmoWrite _ => true
  | .lnkDisable n | .lnkRetrain n => okPort n
  | .fltAck _ | .settingsRead | .settingsWrite | .repairListRead | .ssCtrlWrite _ | .ssTailWrite _ => true
  | .registerWrite _ off _ _ => decide (off < 2 ^ 26)
  | .apertureWrite _ off data => decide (off + data.length ≤ 2 ^ 34)
  | .apertureRead _ off len => decide (off + len ≤ 2 ^ 34)
  | .countTick | .timeTransferExchange _ => true
  | .timeTransferRequest port _ _ | .timeTransferReply port _ _ _ _ => okPort port
  | .holdoverEntry | .timePpsEdge | .ppsLost | .refLost => true
  | .readyMessage part clk => okPart part && decide (clk = 1400 ∨ clk = 1600)
  | .launchDeadline => true
  | .goAnnouncement _ coord | .cancelAnnouncement coord _ => okPart coord
  | .goCountReached => true
  | .pauseAnnouncement _ coord => okPart coord
  | .pauseCountReached | .resumeAnnouncement _ | .resumeCountReached => true
  | .stopAnnouncement _ coord _ _ => okPart coord
  | .stopCountReached | .routerDrainComplete => true
  | .legReceive port l => okPort port && okLeg l
  | .legConfirm entry chunk level member | .legRerequest entry chunk level member
    => decide (entry < 4096) && decide (chunk < 2 ^ 20) && decide (level < 256) && decide (member < 2 ^ 13)
  | .collectiveTimeout entry => decide (entry < 4096)
  | .flitTransmit n => okPort n
  | .dataFlit n f | .controlFlit n f | .idleFlit n f | .nak n f | .tunnelledData n f => okPort n && okFlit f
  | .failureNotice n f part port => okPort n && okFlit f && okPart part && okPort port
  | .laneMap n f lane => okPort n && okFlit f && okLane lane
  | .retryTimerExpiry n | .retryBudgetExpiry n => okPort n
  | .laneLossOfLock n lane => okPort n && okLane lane
  | .laneErrorWindow n lane bad total => okPort n && okLane lane && decide (bad ≤ total)
  | .laneRemapComplete n => okPort n
  | .lightWarn _ | .lightFail _ | .lightRestored _ => true
  | .linkTrainingComplete n _ => okPort n
  | .hbmSlot stack pch _ _ _ => okStack stack && okPch pch
  | .hbmReadDelivery => true
  | .refreshFrame stack pch _ => okStack stack && okPch pch
  | .odeccPoll | .freeRunEntry _ | .freeRunExit _ => true
  | .backgroundTestSlot t _ => okTile t
  | .stepIntake | .stepReplaySection | .sectionStart _ | .gradientQuantisation _ _ | .normDecision _ | .updateSweep
  | .shadowFrameEmit | .stepEnd | .rootJob _ _ _ | .rootDeadline _ _ | .rootCommit _ _ | .precondition _ _ _
  | .solveJob _ _ => true
  | .digestCollection _ _ tid kind _ _ => decide (tid < 65536) && decide (kind ≤ 4)
  | .ownerDigestWrite tid _ | .weightStreamCheck _ tid _ => decide (tid < 65536)
  | .shadowFrameHeader bytes => decide (bytes.length = 64)
  | .shadowSegment bytes => decide (32 ≤ bytes.length)
  | .shadowFrameTrailer bytes => decide (bytes.length = 64)
  | .tileFault t | .handshakeTimeout t => okTile t
  | .recoveryRemap | .restoreFromReplayPoint => true
  | .recoveryFetch peer addr len => okPart peer && decide (addr + len ≤ 2 ^ 39)
  | .catchUpPoint | .replayRecordComplete _ => true
  | .partLoss part => okPart part
  | .thermalSample temps => decide (temps.length = 48)
  | .thermtrip | .pwrgdLoss | .sysclkLoss | .auxPowerLoss => true
  | .avsAdjust mv _ => decide (680 ≤ mv ∧ mv ≤ 880)
  | .avsRetry _ | .vcoreOutOfRange | .sysRstAssert | .sysRstDeassert _ _ | .pwrgdAllAssert | .pwrgdTimeout
  | .hbmTrainingComplete _ _ | .bootScrub | .readyAssert | .perstAssert _ | .perstDeassert _ | .confirm
  | .confirmTimeout | .watchdogReset | .eraseSuspend | .xipBusFault _ | .setEndpointId _ _ | .getEndpointId _
  | .getEndpointUuid _ | .getMctpVersionSupport _ _ | .getMessageTypeSupport _ | .getTid _ | .setTid _ _
  | .getPldmVersion _ _ | .getPldmTypes _ | .getPldmCommands _ _ | .getPdrRepositoryInfo _ | .getPdr _ _
  | .getSensorReading _ _ | .getStateSensorReadings _ _ | .setEventReceiver _ _ _ | .platformEventMessage _ _
  | .queryDeviceIdentifiers _ | .getFirmwareParameters _ | .requestUpdate _ _ | .passComponentTable _ _
  | .updateComponent _ _ _ | .requestFirmwareData _ _ _ | .transferComplete _ _ _ | .verifyComplete _
  | .applyComplete _ _ | .activateFirmware _ _ | .getStatus _ | .cancelUpdateComponent _ | .cancelUpdate _
  | .vddAux33PowerOn | .sysclkStable | .time10mEdge | .flashOperationEnd | .tapInstruction _ _ => true

end Sys2Proof
end

