-- ==== Sys2Proof/Certificates/Slice0/Obligations.lean ====
section
/-!
DEFINITION. The statements for the provers, by family of commands. Each docstring names the rules its statement formalises, or
the log entry of a choice of the model that it states.
-/

section

open Sys2Proof Sys2Proof.Machine

/-! ### The block's step -/

/-- A step with a command at the front of the queue runs that command with the queue's rest (the block's step). -/
def Obligations.StepRunsFrontCommand : Prop :=
  ∀ (s : State) (c : Instr) (rest : List Instr), s.pending = c :: rest →
    step s = exec c { s with pending := rest }

/-! ### The C slot (04 R120–R131) -/

/-- SETC, ADDC, SETVL, SETMSK, SETRSP, SETCMP and DG.CLR write their one register at the end of the bundle's cycle (04 R120,
R121). ADDC adds to the value the bundle sees; an LDC value on its way lands first (R121). Nothing else changes but what the
end of a bundle changes.

LDC reads its word in the bundle's cycle, takes the port cycle, and its value reaches CNT at the end of the next cycle
(04 R121); granules corrected are counted (03 R94). It is on its way when the bundle has ended, or has landed when the section ended with it. -/
def Obligations.CSlotRegisterWrites : Prop :=
  (∀ (s : State) (t : Nat), s.issues t = true →
     let q := (s.tile t).seq.landLdc
     (∀ p k imm, s.runs t p = true → ∃ u : State, exec (.setc t p k imm) s = .next (u.landAtoms t) ∧
       BundleLeaves s u t { q with cnt := Sparse.set 0 q.cnt k.toNat imm }) ∧
     (∀ p k imm, s.runs t p = true → ∃ u : State, exec (.addc t p k imm) s = .next (u.landAtoms t) ∧
       BundleLeaves s u t
         { q with cnt := Sparse.set 0 q.cnt k.toNat (Sparse.get 0 (s.tile t).seq.cnt k.toNat + imm) }) ∧
     (∀ p n, s.runs t p = true → ∃ u : State, exec (.setvl t p n) s = .next (u.landAtoms t) ∧ BundleLeaves s u t { q with vl := n.toNat + 1 }) ∧
     (∀ p m imm, s.runs t p = true → ∃ u : State, exec (.setmsk t p m imm) s = .next (u.landAtoms t) ∧
       BundleLeaves s u t { q with msk := Sparse.set 0 q.msk m.toNat imm }) ∧
     (∀ p b slot, s.runs t p = true → ∃ u : State, exec (.setrsp t p b slot) s = .next (u.landAtoms t) ∧
       BundleLeaves s u t { q with rsp := Sparse.set 0 q.rsp b.toNat (slot.toNat * 8) }) ∧
     (∀ o, s.runs t o.pred = true → ∃ u : State, exec (.setcmp t o) s = .next (u.landAtoms t) ∧
       BundleLeaves s u t { q with
         cmp := Sparse.set { conf := false, imm := 0, rel := 0, src := false, idx := 0 } q.cmp o.j.toNat
           { conf := true, imm := o.imm, rel := o.rel, src := o.src, idx := o.idx } }) ∧
     (∀ p d, s.runs t p = true → ∃ u : State, exec (.dgClr t p d) s = .next (u.landAtoms t) ∧
       BundleLeaves (s.setTile t { s.tile t with da := Sparse.set 0 (s.tile t).da d.toNat 0 }) u t q)) ∧
  (∀ (s : State) (t : Nat) p (k : BitVec 4) (h : BitVec 9), s.issues t = true → s.runs t p = true →
     let x := s.tile t
     let d := x.desc h
     let a := d.addr x.seq.li
     d.valid = true → d.space = 0 → d.covers a 4 = true → 0 ≤ a → a + 4 ≤ 0x100000 → x.portUser x.seq.cycle = none →
     x.bankSp.state = .on → (∀ g ∈ granules a.toNat 4, Sparse.get 0 x.spErr g ≠ 2) →
     ∃ u : State, exec (.ldc t p k h) s = .next (u.landAtoms t) ∧
       BundleFrame (s.setTile t ((x.portTake 1 [x.seq.cycle]).countSpEcc
         ((granules a.toNat 4).filter fun g => Sparse.get 0 x.spErr g == 1).length)) u t ∧
       let v : W32 := Bytes.read32 x.sp a.toNat
       let q := x.seq.landLdc
       ({ q with ldc := some (k.toNat, v) } : TileSeq).SameRegisters (u.tile t).seq ∨
         ((u.tile t).seq.run ≠ .running ∧
           ({ q with cnt := Sparse.set 0 q.cnt k.toNat v } : TileSeq).SameRegisters (u.tile t).seq))

/-- Where a bundle that writes no sequencing register leads (04 R109, R122, R125): to the next bundle; at the last bundle of a
counted body to its first bundle while iterations are left, else out of the loop; at the last bundle of a replay loop's body to
the end of that execution; past the last bundle the section ends. Each bundle takes one off a skip (R127).

LOOP copies CNT[CSEL] and starts its body, with VL from VLM1 + 1 when VLSET is set; a count of zero continues after the
body and leaves VL (04 R122, R124); a replay loop ignores the count (R125).

REPLAY_LOOP_END waits for the last accumulator update (counted as a replay stall), then runs the body again while a
LOOP-class block awaits replay, four executions at most, else enters the reserve (02 R66, R68; 05 R150). REPLAY_RESERVE_END
goes on at the end of the reserve, start + (1 + F) × B; a replay that took longer is an overrun that shifts the tile (02 R68). -/
def Obligations.BundleSequencingAndLoops : Prop :=
  (∀ (s : State) (t : Nat), s.issues t = true → (s.tile t).stopAt = none →
     let x := (s.tile t).seq
     ∃ u : State, exec (.nop t .c) s = .next (u.landAtoms t) ∧ BundleLeaves s u t x.landLdc ∧ (u.tile t).seq.skip = x.skip - 1 ∧
       let y := (u.tile t).seq
       ((∀ f, x.loops.getLast? = some f → x.bundle ≠ f.last) →
         y.bundle = x.bundle + 1 ∧ y.loops = x.loops ∧ y.run = if s.nb t ≤ x.bundle + 1 then .halted else .running) ∧
       (∀ fs f, x.loops = fs ++ [f] → x.bundle = f.last → f.rpl = false →
         (f.iter + 1 < f.count → y.bundle = f.first ∧ y.loops = fs ++ [{ f with iter := f.iter + 1 }]) ∧
         (f.count ≤ f.iter + 1 → (∀ g, fs.getLast? = some g → x.bundle ≠ g.last) →
           y.bundle = x.bundle + 1 ∧ y.loops = fs)) ∧
       (∀ fs f, x.loops = fs ++ [f] → x.bundle = f.last → f.rpl = true → y.run = .replayEnd ∧ y.loops = x.loops)) ∧
  (∀ (s : State) (t : Nat) (o : LoopOp), s.issues t = true → s.runs t Pred.always = true → (s.tile t).stopAt = none →
     (s.tile t).seq.bundle + o.lenm1.toNat + 2 ≤ s.nb t →
     let x := (s.tile t).seq
     let n := (Sparse.get 0 x.cnt o.csel.toNat).toNat
     ∃ u : State, exec (.loop t o) s = .next (u.landAtoms t) ∧
       (o.rpl = false → n = 0 → (∀ f, x.loops.getLast? = some f → x.bundle + o.lenm1.toNat + 1 < f.last) →
         BundleLeaves s u t x.landLdc ∧ (u.tile t).seq.loops = x.loops ∧
         ((u.tile t).seq.bundle = x.bundle + o.lenm1.toNat + 2)) ∧
       ((o.rpl = true ∨ n ≠ 0) →
         BundleLeaves s u t { x.landLdc with
           vl := if o.vlset then o.vlm1.toNat + 1 else x.vl
           land := if o.rpl then 0 else x.land } ∧
         (u.tile t).seq.run = .running ∧ (u.tile t).seq.bundle = x.bundle + 1 ∧
         (u.tile t).seq.loops = x.loops ++
           [⟨x.bundle + 1, x.bundle + o.lenm1.toNat + 1, n, 0, o.rpl, b2n o.rpl, x.cycle + 1, 0⟩])) ∧
  (∀ (s : State) (t : Nat) (fs : List LoopFrame) (f : LoopFrame), t < 1024 → s.issueHeld = false →
     (s.tile t).seq.loops = fs ++ [f] → (s.tile t).stopAt = none →
     let x := s.tile t
     ((s.tile t).seq.run = .replayEnd →
       let n := x.seq.land + 1 - x.seq.cycle
       let c := x.seq.cycle + n
       let g := if f.execs = 1 then { f with len := c - f.start } else f
       let w := { x.ctr with replay := satAdd 32 x.ctr.replay n }
       exec (.replayLoopEnd t) s = .next ((s.setTile t
         (if x.loopPending = true ∧ f.execs < 4 then
           { x with
             seq := { x.seq with
               run := .running
               bundle := f.first
               cycle := c
               land := 0
               loops := fs ++ [{ g with execs := f.execs + 1 }] }
             ctr := w }
          else { x with seq := { x.seq with run := .reserve, cycle := c, loops := fs ++ [g] }, ctr := w })).landAtoms t)) ∧
     ((s.tile t).seq.run = .reserve →
       let stop := f.start + (1 + s.rrf) * s.bodyLen t x.seq f
       let late := x.seq.cycle - stop
       ∃ u : State, exec (.replayReserveEnd t) s = .next (u.landAtoms t) ∧
         u = { s with tiles := u.tiles, hbm := { s.hbm with plan := u.hbm.plan } } ∧
         (∀ v, v ≠ t → u.tile v = s.tile v) ∧
         ({ x.seq with shift := x.seq.shift + late } : TileSeq).SameRegisters (u.tile t).seq ∧
         (u.tile t).seq.cycle = stop ∧
         (u.tile t).ctr = { x.ctr with replay := satAdd 32 x.ctr.replay late, overrun := satAdd 32 x.ctr.overrun late } ∧
         ((∀ g, fs.getLast? = some g → f.last ≠ g.last) →
           (u.tile t).seq.bundle = f.last + 1 ∧ (u.tile t).seq.loops = fs)))

/-- SKIP: the NM1 + 1 bundles that follow are skipped (04 R127). HALT ends the section (R109). SAFE is a NOP unless a
pre-emption stop is due at it: then the tile stops there (R131, 11 R301); or a SNAPSHOT is: then the tile is held there (12 R350; log
entry 45).

WAIT observes its flag in one cycle, as it stood 24 cycles ago on die 0 and 28 on die 1, and counts the cycle; while the
threshold is not reached the tile is held, no slot of the bundle issues, and WAIT_SATISFIED lets it go on once the observed flag
has reached it, with the cycles since counted and its issue later by them (04 R129, R130; that they are taken from TB_COUNT is log
entry 15's choice). In a taken skip region its cycle passes without waiting (R127), with no count (log entry 15).

SIGNAL puts its update on its way and ends the bundle; SIGNAL_LANDING applies the updates of one cycle in ascending tile
order: a set writes IMM zero-extended, an add adds it modulo 2^64 (04 R128). Stated where no program waits on the flag.

A bank transition leaves the bank in its target state; a scratchpad bank that passes through OFF comes back as zeros with
good ECC, an accumulator half with V = 0, flags clear and status words zero (13 R365, R366). Everything else stays. A tile
stalls as a whole while an instruction lacks a network input or an output link is full: in each stalled cycle it counts one
late-input cycle, and what it has yet to do, the lines it has yet to send included, comes one cycle later; a tile that lacks
nothing does not stall (04 R130; 05 R147, R148, R150). -/
def Obligations.SkipsWaitsSignalsAndStalls : Prop :=
  (∀ (s : State) (t : Nat), s.issues t = true → (s.tile t).stopAt = none →
     (∀ p n, s.runs t p = true → ∃ u : State, exec (.skip t p n) s = .next (u.landAtoms t) ∧ BundleLeaves s u t (s.tile t).seq.landLdc ∧
       (u.tile t).seq.skip = n.toNat + 1) ∧
     (s.runs t Pred.always = true → ∃ u : State, exec (.halt t) s = .next (u.landAtoms t) ∧ BundleLeaves s u t (s.tile t).seq.landLdc ∧
       (u.tile t).seq.run = .halted ∧ (u.tile t).seq.bundle = (s.tile t).seq.bundle) ∧
     (s.runs t Pred.always = true → ∃ u v : State, exec (.safe t) s = .next (u.landAtoms t) ∧
       exec (.nop t .c) s = .next (v.landAtoms t) ∧
       (s.safeStops t = false → s.safeHolds t = false → u = v) ∧
       (s.safeStops t = false → s.safeHolds t = true → u = { v with tiles := u.tiles } ∧ (∀ w, w ≠ t → u.tile w = v.tile w) ∧
         u.tile t = { v.tile t with
           seq := { (v.tile t).seq with
             run := if (v.tile t).seq.run = .running then .atSafe s.tb.count else (v.tile t).seq.run } }) ∧
       (s.safeStops t = true → u = { v with tiles := u.tiles } ∧ (∀ w, w ≠ t → u.tile w = v.tile w) ∧
         u.tile t = { v.tile t with
           seq := { (v.tile t).seq with run := if (v.tile t).seq.run = .halted then .halted else .stopped } }))) ∧
  (∀ (s : State) (t : Nat), t < 1024 → s.issueHeld = false → (s.tile t).stopAt = none →
     (∀ o : WaitOp, (s.tile t).seq.run = .running →
       let x := s.tile t
       let thr (q : TileSeq) : W64 := (if o.ths then Sparse.get 0 q.cnt o.csel.toNat else o.imm).setWidth 64
       let z := { x with
         seq := { x.seq.landLdc with cycle := x.seq.cycle + 1 }
         port := x.port.filter fun e => decide (x.seq.cycle + 1 ≤ e.1) }
       let y := { z with ctr := { x.ctr with wait := satAdd 32 x.ctr.wait 1 } }
       s.outFull t = false →
       exec (.wait t o) s = .next ((s.setTile t
         (if 0 < x.seq.skip then z
          else if thr x.seq ≤ s.observed t o.flag.toNat then y
          else { y with seq := { y.seq with
            run := .waiting
            wait := some (o.flag.toNat, thr y.seq, s.tb.count) } })).landAtoms t)) ∧
     (∀ f thr since, (s.tile t).seq.run = .waiting → (s.tile t).seq.wait = some (f, thr, since) → thr ≤ s.observed t f →
       let n := Nat.max 1 (s.cyclesOf (s.tb.count - since))
       exec (.waitSatisfied t) s = .next (s.setTile t { s.tile t with
         seq := { (s.tile t).seq with run := .running, wait := none, shift := (s.tile t).seq.shift + n }
         ctr := { (s.tile t).ctr with wait := satAdd 32 (s.tile t).ctr.wait n } })) ∧
     (∀ f thr since, (s.tile t).seq.run = .waiting → (s.tile t).seq.wait = some (f, thr, since) → s.observed t f < thr →
       exec (.waitSatisfied t) s = .next s) ∧
     (∀ f, (∀ e ∈ s.q.flagLog, e.2.1 = f → e.1 ≤ s.observedAt t) → s.observed t f = s.flag f) ∧
     (∀ f n v l, s.q.flagLog = (n, f, v) :: l → s.observedAt t < n → (∀ e ∈ l, e.2.1 = f → e.1 ≤ s.observedAt t) →
       s.observed t f = v)) ∧
  ((∀ (s : State) (t : Nat) p (f : BitVec 8) add imm, s.issues t = true → s.runs t p = true → s.reexecuting t = false →
     ∃ u : State, exec (.signal t p f add imm) s = .next (u.landAtoms t) ∧
       BundleLeaves { s with q := { s.q with landing := s.q.landing ++ [(t, f.toNat, add, imm)] } } u t
         (s.tile t).seq.landLdc) ∧
   (∀ (s : State) (t i : Nat) add (imm : W32) rest, t < 1024 → s.q.landing = (t, i, add, imm) :: rest →
     s.programRuns = false → s.coll.runs = [] →
     ∃ u, exec (.signalLanding [t]) s = .next u ∧ ((∀ x ∈ s.coll.entries, x.tflag ≠ i) → u.coll.due = s.coll.due) ∧
       u = { s with
         q := { s.q with
           landing := rest
           flag := Sparse.set 0 s.q.flag i (if add then s.flag i + imm.setWidth 64 else imm.setWidth 64)
           flagLog := s.flagHistory i }
         coll := { s.coll with due := u.coll.due } }) ∧
   (∀ (s : State) (a b i : Nat) (va vb : W32), a < b → b < 1024 → s.q.landing = [(b, i, false, vb), (a, i, false, va)] →
     s.programRuns = false → s.coll.runs = [] →
     ∃ u, exec (.signalLanding [b, a]) s = .next u ∧ u.flag i = vb.setWidth 64 ∧ u.q.landing = [])) ∧
  (∀ (s : State) (t : Nat), t < 1024 →
     let x := s.tile t
     (∀ st, x.bankSp.target = some st →
       exec (.bankTransitionComplete t 0) s = .next (s.setTile t { x with
         sp := if st = .off ∨ x.bankSp.state = .off then [] else x.sp
         spErr := if st = .off ∨ x.bankSp.state = .off then [] else x.spErr
         bankSp := { state := st, target := none } })) ∧
     (∀ st, x.bank0.target = some st → ∃ y, exec (.bankTransitionComplete t 1) s = .next (s.setTile t y) ∧
       y = { x with acc := y.acc, accErr := y.accErr, rgw := y.rgw, blkLen := y.blkLen, bank0 := { state := st, target := none } } ∧
       (∀ e, Sparse.get default y.acc e =
         if (st = .off ∨ x.bank0.state = .off) ∧ e < 8192 then default else Sparse.get default x.acc e) ∧
       (∀ g, Sparse.get 0 y.rgw g = if (st = .off ∨ x.bank0.state = .off) ∧ g < 128 then 0 else Sparse.get 0 x.rgw g)) ∧
     (∀ st, x.bank1.target = some st → ∃ y, exec (.bankTransitionComplete t 2) s = .next (s.setTile t y) ∧
       y = { x with acc := y.acc, accErr := y.accErr, rgw := y.rgw, blkLen := y.blkLen, bank1 := { state := st, target := none } } ∧
       (∀ e, e < 16384 → Sparse.get default y.acc e =
         if (st = .off ∨ x.bank1.state = .off) ∧ 8192 ≤ e then default else Sparse.get default x.acc e) ∧
       (∀ g, g < 256 → Sparse.get 0 y.rgw g =
         if (st = .off ∨ x.bank1.state = .off) ∧ 128 ≤ g then 0 else Sparse.get 0 x.rgw g)) ∧
     (s.stalls t = false → ∀ n, exec (.elasticStall t n) s = .next s) ∧
     (s.stalls t = true → ∃ u, exec (.elasticStall t 1) s = .next u ∧
       (∀ n, exec (.elasticStall t (n + 1)) s = exec (.elasticStall t n) u) ∧ u = { s with tiles := u.tiles } ∧
       u.tile t = { x with
         links := (u.tile t).links
         seq := { x.seq with
           shift := x.seq.shift + 1
           lag := x.seq.lag + 1 }
         ctr := { x.ctr with late := satAdd 32 x.ctr.late 1 } } ∧
       (∀ v, v ≠ t → u.tile v = { s.tile v with links := (u.tile v).links }) ∧
       (∀ v k, Sparse.get [] (u.tile v).links k = (Sparse.get [] (s.tile v).links k).map fun e =>
         if e.src = t ∧ x.now ≤ e.sent then { e with sent := e.sent + 1, arr := e.arr + 1 } else e)))

/-! ### The V slot (01 R27–R46; 03 R80–R89) -/

/-- Every two-operand vector instruction puts op(a, b) of its elements 0 to VL − 1 at its destination, in the mode of 01 R27, and
raises their flags (03 R84, R85, R88; 01 R46). -/
def Obligations.VectorTwoOperandResults : Prop :=
  ∀ (s : State) (t : Nat) (o : VecOp) (d a b : VbOpnd),
    let x := s.tile t
    s.issues t = true → s.runs t o.pred = true → vecOpnd x o.d x.seq.vl = .ok d → vecOpnd x o.a x.seq.vl = .ok a →
    vecOpnd x o.b x.seq.vl = .ok b →
    ∀ c ∈ ([(.add t o, fpAdd), (.sub t o, fpSub), (.mul t o, fpMul), (.div t o, fpDiv), (.max t o, fpMaxMin true),
        (.min t o, fpMaxMin false), (.cpysgn t o, fun _ => fpCpysgn), (.cmpEq t o, fpCmp .eq), (.cmpNe t o, fpCmp .ne),
        (.cmpLt t o, fpCmp .lt), (.cmpLe t o, fpCmp .le), (.cmpGt t o, fpCmp .gt), (.cmpGe t o, fpCmp .ge),
        (.iadd t o, fun _ => intAdd), (.isub t o, fun _ => intSub), (.imul t o, fun _ => intMul),
        (.and t o, fun _ _ => intAnd), (.or t o, fun _ _ => intOr), (.xor t o, fun _ _ => intXor),
        (.shl t o, fun _ => intShl), (.shr t o, fun _ => intShr), (.sar t o, fun _ => intSar)] :
        List (Instr × (Bool → Nat → Nat → Nat → Res))),
      ∃ u, exec c.1 s = .next u ∧
        VectorResult s u t d (List.zipWith (c.2 (s.strict o) d.d.fmt) (a.elems x x.seq.vl) (b.elems x x.seq.vl))

/-- Every one-operand vector instruction puts op(a) of its elements at its destination and raises their flags (03 R88).

CVT to an unscaled format converts element by element in its rounding mode, with the random words of the destination under
SR (01 R34–R37). CVT to a block-scaled format writes the elements of each block of 32 and the block's scale byte in the scale
array that the destination names (01 R38–R40); nothing else of the tile changes but its flags. -/
def Obligations.VectorOneOperandAndConversionResults : Prop :=
  (∀ (s : State) (t : Nat) (o : VecOp) (d a : VbOpnd),
     let x := s.tile t
     s.issues t = true → s.runs t o.pred = true → vecOpnd x o.d x.seq.vl = .ok d → vecOpnd x o.a x.seq.vl = .ok a →
     ∀ c ∈ ([(.sqrt t o, fpSqrt), (.rcp t o, fpRcp), (.rsq t o, fpRsq), (.exp2 t o, fpExp2), (.log2 t o, fpLog2),
         (.abs t o, fun _ => fpAbs), (.neg t o, fun _ => fpNeg)] : List (Instr × (Bool → Nat → Nat → Res))),
       ∃ u, exec c.1 s = .next u ∧ VectorResult s u t d ((a.elems x x.seq.vl).map (c.2 (s.strict o) d.d.fmt))) ∧
  (∀ (s : State) (t : Nat) (o : VecOp) (d : VbOpnd) (vs : List FVal),
     let x := s.tile t
     let n := x.seq.vl
     let us := s.srWords t d.d (rmOf o.rm) n
     s.issues t = true → s.runs t o.pred = true → vecOpnd x o.d n = .ok d → cvtInput x o.a n = .ok vs →
     (isBlock d.d.fmt = false → ∃ u, exec (.cvt t o) s = .next u ∧
       VectorResult s u t d ((us.zip vs).map fun e => cvtVal d.d.fmt (rmOf o.rm) o.sat e.1 e.2)) ∧
     (∀ sc, isBlock d.d.fmt = true → scaleOpnd x d.d (ceilDiv n 32) = .ok sc →
       let bs := ((chunksOf 32 us).zip (chunksOf 32 vs)).map fun e => cvtBlock d.d.fmt (rmOf o.rm) e.1 e.2
       ∃ u, exec (.cvt t o) s = .next u ∧ u = { s with tiles := u.tiles } ∧ (∀ v, v ≠ t → u.tile v = s.tile v) ∧
         u.tile t = { x with
           vb := (u.tile t).vb
           flags := raise x.flags (bs.foldl (fun a b => a ||| b.2.2) 0) } ∧
         sc.read (u.tile t) bs.length = bs.map (fun b => BitVec.ofNat 8 b.1) ∧
         ((vbAt d.vb d.off.toNat + packedBytes d.d.fmt (bs.flatMap (·.2.1)).length ≤ vbAt sc.vb sc.off.toNat ∨
             vbAt sc.vb sc.off.toNat + bs.length ≤ vbAt d.vb d.off.toNat) →
           d.elems (u.tile t) (bs.flatMap (·.2.1)).length = (bs.flatMap (·.2.1)).map (· % 2 ^ fmtBits d.d.fmt)) ∧
         ∀ a, (a < vbAt d.vb d.off.toNat ∨ vbAt d.vb d.off.toNat + packedBytes d.d.fmt (bs.flatMap (·.2.1)).length ≤ a) →
           (a < vbAt sc.vb sc.off.toNat ∨ vbAt sc.vb sc.off.toNat + bs.length ≤ a) →
           Bytes.read (u.tile t).vb a = Bytes.read x.vb a))

/-- FMA and SEL put op(a, b, c) of their elements at the destination; a reduction puts one element there: the sequential
reduction in STRICT mode, the fixed pairwise tree in FAST mode (03 R86–R88). One element alone is the model's own reading of the
NaN and flushing rules (log entry 84). -/
def Obligations.VectorFmaSelAndReductionResults : Prop :=
  ∀ (s : State) (t : Nat) (o : VecOp) (d a : VbOpnd),
    let x := s.tile t
    let n := x.seq.vl
    let st := s.strict o
    s.issues t = true → s.runs t o.pred = true → vecOpnd x o.a n = .ok a →
    (vecOpnd x o.d n = .ok d → ∀ b c, vecOpnd x o.b n = .ok b → vecOpnd x o.c n = .ok c →
      ∀ f ∈ ([(.fma t o, fpFma st d.d.fmt), (.sel t o, selBits)] : List (Instr × (Nat → Nat → Nat → Res))),
        ∃ u, exec f.1 s = .next u ∧ VectorResult s u t d
          (((a.elems x n).zip ((b.elems x n).zip (c.elems x n))).map fun e => f.2 e.1 e.2.1 e.2.2)) ∧
    (vecOpnd x o.d 1 = .ok d →
      let f := d.d.fmt
      let l := a.elems x n
      ∀ r ∈ ([(.redAdd t o, if n = 1 then redAlone true st f (l.headD 0)
            else if st then seqReduce (fpAdd true f) (l.headD 0) l.tail else treeReduce (fpAdd false f) 13 l),
          (.redMax t o, if n = 1 then redAlone false st f (l.headD 0)
            else if st then seqReduce (fpMaxMin true true f) (l.headD 0) l.tail else treeReduce (fpMaxMin true false f) 13 l),
          (.redMin t o, if n = 1 then redAlone false st f (l.headD 0)
            else if st then seqReduce (fpMaxMin false true f) (l.headD 0) l.tail else treeReduce (fpMaxMin false false f) 13 l),
          (.redSsq t o, redSsqOf st f l)] : List (Instr × Res)),
        ∃ u, exec r.1 s = .next u ∧ VectorResult s u t d [r.2])

/-- A vector destination or A operand that runs past its extent or its buffer: the access is not performed, the tile stops at the end of the
cycle, the stop of the domain is announced with PROGRAM_INVALID and the record of 04 R135 is written (03 R82). No vector buffer,
scratchpad, accumulator or flag word changes.

A suppressed instruction writes nothing (04 R112): in the V slot the state stays; in the C slot only the bundle ends. -/
def Obligations.OverrunsAndSuppressedInstructions : Prop :=
  (∀ (s : State) (t : Nat) (o : VecOp) (h : BitVec 9), s.issues t = true → s.runs t o.pred = true →
     (s.tile t).stopAt = none →
     (vecOpnd (s.tile t) o.d (s.tile t).seq.vl = .error h ∨
       (∃ d, vecOpnd (s.tile t) o.d (s.tile t).seq.vl = .ok d) ∧ vecOpnd (s.tile t) o.a (s.tile t).seq.vl = .error h) →
     ∀ c ∈ ([.add t o, .sub t o, .mul t o, .fma t o, .sqrt t o, .rcp t o, .rsq t o, .div t o, .exp2 t o, .log2 t o, .max t o,
         .min t o, .abs t o, .neg t o, .cpysgn t o, .cmpEq t o, .cmpNe t o, .cmpLt t o, .cmpLe t o, .cmpGt t o, .cmpGe t o,
         .sel t o, .iadd t o, .isub t o, .imul t o, .and t o, .or t o, .xor t o, .shl t o, .shr t o, .sar t o, .cvt t o] :
         List Instr),
       ∃ u, exec c s = .next u ∧ u.out = s.out ++ [.stop s.announceCount stInvalid false] ∧
         u.flt.head = s.flt.head + 2 ∧ u.tile t = { s.tile t with stopAt := some ((s.tile t).seq.cycle + 1) }) ∧
  (∀ (s : State) (t : Nat), s.issues t = true →
     (∀ o : VecOp, s.runs t o.pred = false →
       ∀ c ∈ ([.add t o, .sub t o, .mul t o, .fma t o, .sqrt t o, .rcp t o, .rsq t o, .div t o, .exp2 t o, .log2 t o, .max t o,
           .min t o, .abs t o, .neg t o, .cpysgn t o, .cmpEq t o, .cmpNe t o, .cmpLt t o, .cmpLe t o, .cmpGt t o, .cmpGe t o,
           .sel t o, .iadd t o, .isub t o, .imul t o, .and t o, .or t o, .xor t o, .shl t o, .shr t o, .sar t o, .redAdd t o,
           .redSsq t o, .redMax t o, .redMin t o, .cvt t o] : List Instr), exec c s = .next s) ∧
     (∀ p, s.runs t p = false → ∀ k imm h n m b slot d f add (j : CmpOp),
       ∀ c ∈ ([.setc t p k imm, .addc t p k imm, .ldc t p k h, .setcmp t { j with pred := p }, .skip t p n,
           .signal t p f add imm, .setvl t p n, .setmsk t p m imm, .setrsp t p b slot, .dgClr t p d] : List Instr),
         exec c s = exec (.nop t .c) s))

/-! ### Arithmetic (01 R16, R42, R43; 03 R88) -/

/-- 01 R16: two's complement values, UINT8 from 0 to 255, and vector integer sums, differences and products modulo 2^32 and
2^64 that raise no flag. -/
def Obligations.IntegerArithmeticWraps : Prop :=
  (∀ f ∈ [fmtINT8, fmtINT32, fmtINT64], ∀ x, x < 2 ^ fmtBits f →
    intVal f x = if x < 2 ^ (fmtBits f - 1) then (x : Int) else (x : Int) - 2 ^ fmtBits f) ∧
  (∀ x, x < 256 → intVal fmtUINT8 x = (x : Int) ∧ 0 ≤ intVal fmtUINT8 x ∧ intVal fmtUINT8 x ≤ 255) ∧
  (∀ fw ∈ [(fmtINT32, 32), (fmtINT64, 64)], ∀ a b, a < 2 ^ fw.2 → b < 2 ^ fw.2 →
    (intAdd fw.1 a b).2 = 0 ∧ (intSub fw.1 a b).2 = 0 ∧ (intMul fw.1 a b).2 = 0 ∧
    BitVec.ofNat fw.2 (intAdd fw.1 a b).1 = BitVec.ofNat fw.2 a + BitVec.ofNat fw.2 b ∧
    BitVec.ofNat fw.2 (intSub fw.1 a b).1 = BitVec.ofNat fw.2 a - BitVec.ofNat fw.2 b ∧
    BitVec.ofNat fw.2 (intMul fw.1 a b).1 = BitVec.ofNat fw.2 a * BitVec.ofNat fw.2 b ∧
    (intAdd fw.1 a b).1 < 2 ^ fw.2 ∧ (intSub fw.1 a b).1 < 2 ^ fw.2 ∧ (intMul fw.1 a b).1 < 2 ^ fw.2)

/-- The bitwise, shift, sign and select rows of 03 R88, bit for bit and with no flag: a shift count is B modulo the width and a
count of 0 returns A; SAR keeps the sign; ABS clears the sign bit, NEG inverts it, CPYSGN copies B's; SEL tests the bits.

01 R42: the table of MAX and MIN; the NaN results are the canonical quiet NaN in FAST mode and the first NaN operand with its
quiet bit set in STRICT mode (R33), where a signalling NaN raises IV. And the special cases of division of 01 R30 row 5, in both
modes: a finite non-zero number by zero is Inf with DZ; 0 ÷ 0 and Inf ÷ Inf are the canonical NaN with IV; Inf by a finite number
is Inf; a finite number by Inf, and 0 by a finite non-zero number, are zeros; signs multiply, and every FAST division raises NX
(operands not subnormal: those FAST flushes first). -/
def Obligations.BitOperationsMaximaAndDivisions : Prop :=
  ((∀ fw ∈ [(fmtINT32, 32), (fmtINT64, 64)], ∀ a b, a < 2 ^ fw.2 → b < 2 ^ fw.2 →
     let x := BitVec.ofNat fw.2 a
     let y := BitVec.ofNat fw.2 b
     intAnd a b = ((x &&& y).toNat, 0) ∧ intOr a b = ((x ||| y).toNat, 0) ∧ intXor a b = ((x ^^^ y).toNat, 0) ∧
     intShl fw.1 a b = ((x <<< (b % fw.2)).toNat, 0) ∧ intShr fw.1 a b = ((x >>> (b % fw.2)).toNat, 0) ∧
     intSar fw.1 a b = ((x.sshiftRight (b % fw.2)).toNat, 0)) ∧
   (∀ fw ∈ [(fmtFP16, 16), (fmtBF16, 16), (fmtFP32, 32), (fmtFP64, 64)], ∀ a b, a < 2 ^ fw.2 → b < 2 ^ fw.2 →
     (∀ i, i < fw.2 - 1 → (fpAbs fw.1 a).1.testBit i = a.testBit i ∧ (fpNeg fw.1 a).1.testBit i = a.testBit i ∧
       (fpCpysgn fw.1 a b).1.testBit i = a.testBit i) ∧
     (fpAbs fw.1 a).1.testBit (fw.2 - 1) = false ∧ (fpNeg fw.1 a).1.testBit (fw.2 - 1) = !a.testBit (fw.2 - 1) ∧
     (fpCpysgn fw.1 a b).1.testBit (fw.2 - 1) = b.testBit (fw.2 - 1) ∧
     (fpAbs fw.1 a).2 = 0 ∧ (fpNeg fw.1 a).2 = 0 ∧ (fpCpysgn fw.1 a b).2 = 0) ∧
   (∀ a b c, selBits a b c = (if c = 0 then b else a, 0))) ∧
  (∀ f ∈ [fmtFP16, fmtBF16, fmtFP32, fmtFP64], ∀ st : Bool,
     let row (a b mx mn : Nat) : Prop := fpMaxMin true st f a b = (mx, 0) ∧ fpMaxMin false st f a b = (mn, 0)
     row (zeroBits f false) (zeroBits f true) (zeroBits f false) (zeroBits f true) ∧
     row (zeroBits f true) (zeroBits f false) (zeroBits f false) (zeroBits f true) ∧
     (∀ x, x < 2 ^ fmtBits f → (decodeVal f x).isNan = false →
       row (infBits f false) x (infBits f false) x ∧ row (infBits f true) x x (infBits f true)) ∧
     (∀ x n sig mx, (decodeVal f x).isNan = false → decodeVal f n = .nan sig →
       let r : Res := if st then (n ||| 2 ^ (manBits f - 1), flagIf sig fIV) else (canonNan f, 0)
       fpMaxMin mx st f x n = r ∧ fpMaxMin mx st f n x = r) ∧
     (∀ (a b : Nat) (sa sb : Bool) (ma mb : Nat) (ea eb : Int),
       isSubnormal f a = false → isSubnormal f b = false →
       let nx := flagIf (!st) fNX
       (decodeVal f a = .fin sa ma ea → decodeVal f b = .fin sb 0 eb → ma ≠ 0 → fpDiv st f a b = (infBits f (sa != sb), fDZ ||| nx)) ∧
       (decodeVal f a = .fin sa 0 ea → decodeVal f b = .fin sb 0 eb → fpDiv st f a b = (canonNan f, fIV ||| nx)) ∧
       (decodeVal f a = .inf sa → decodeVal f b = .inf sb → fpDiv st f a b = (canonNan f, fIV ||| nx)) ∧
       (decodeVal f a = .inf sa → decodeVal f b = .fin sb mb eb → fpDiv st f a b = (infBits f (sa != sb), nx)) ∧
       (decodeVal f a = .fin sa ma ea → decodeVal f b = .inf sb → fpDiv st f a b = (zeroBits f (sa != sb), nx)) ∧
       (decodeVal f a = .fin sa 0 ea → decodeVal f b = .fin sb mb eb → mb ≠ 0 → fpDiv st f a b = (zeroBits f (sa != sb), nx))))

/-- 01 R43: the comparison table, in both modes and in either order of a NaN operand. In FAST mode a signalling NaN counts as
a quiet one. -/
def Obligations.ComparisonTable : Prop :=
  ∀ f ∈ [fmtFP16, fmtBF16, fmtFP32, fmtFP64], ∀ st : Bool,
    let row (a b : Nat) (eq ne lt le gt ge : Res) : Prop :=
      fpCmp .eq st f a b = eq ∧ fpCmp .ne st f a b = ne ∧ fpCmp .lt st f a b = lt ∧ fpCmp .le st f a b = le ∧
      fpCmp .gt st f a b = gt ∧ fpCmp .ge st f a b = ge
    let t : Res := (2 ^ fmtBits f - 1, 0)
    let z : Res := (0, 0)
    row (zeroBits f true) (zeroBits f false) t z z t z t ∧ row (zeroBits f false) (zeroBits f true) t z z t z t ∧
    row (infBits f true) (infBits f false) z t t t z z ∧ row (infBits f false) (infBits f false) t z z t z t ∧
    ∀ x n sig, (decodeVal f x).isNan = false → decodeVal f n = .nan sig →
      let iv := flagIf (st && sig) fIV
      row x n (0, iv) (2 ^ fmtBits f - 1, iv) (0, fIV) (0, fIV) (0, fIV) (0, fIV) ∧
      row n x (0, iv) (2 ^ fmtBits f - 1, iv) (0, fIV) (0, fIV) (0, fIV) (0, fIV)

/-! ### The M slot (02; 04 R114–R116, R480) -/

/-- LDS from the scratchpad fills the set with its lines, one port cycle each (every second cycle in the interleaved form), counts
corrected granules and gives the set the descriptor's format and tensor; LDS from a link takes the oldest lines of the link (02 R53; 04 R114,
R480); while they have not come in their cycles the tile stalls on them and the LDS issues again (04 R130; 05 R147). Every other byte
of the sets and everything else of the part stays. -/
def Obligations.StationarySetsLoad : Prop :=
  ∀ (s : State) (t : Nat) (o : LdsOp),
    let x := s.tile t
    let d := x.desc o.handle
    let n := o.lm1.toNat + 1
    let a := d.addr x.seq.li
    let base := b2n o.set * 32768
    let cs := (List.range n).map fun i => x.seq.cycle + (if o.form then 2 * i else i)
    s.acts t o.pred = true → d.valid = true →
    (o.src = false → d.space = 0 → x.bankSp.state = .on →
      (∀ i, i < n → d.covers (a + (128 * i : Nat)) 128 = true ∧ inSp (a + (128 * i : Nat)) 128 = true) →
      (∀ c ∈ cs, x.portUser c = none) → (∀ g, Sparse.get 0 x.spErr g ≠ 2) →
      ∃ u, exec (.lds t o) s = .next u ∧ u = { s with tiles := u.tiles } ∧ (∀ v, v ≠ t → u.tile v = s.tile v) ∧
        u.tile t = { x with
          sets := (u.tile t).sets
          setFmt := Sparse.set 0 x.setFmt (b2n o.set) (d.fmt + 1)
          setTid := Sparse.set 0 x.setTid (b2n o.set) (d.tid + 1)
          port := (u.tile t).port
          ctr := { x.ctr with spEcc := satAdd 32 x.ctr.spEcc ((List.range n).map fun i =>
            ((granules (a + (128 * i : Nat)).toNat 128).filter fun g => Sparse.get 0 x.spErr g == 1).length).sum } } ∧
        (∀ e, e ∈ (u.tile t).port ↔ e ∈ x.port ∨ (e.2 = 2 ∧ e.1 ∈ cs)) ∧
        (∀ i, i < 128 * n → Bytes.read (u.tile t).sets (base + i) = Bytes.read x.sp (a.toNat + i)) ∧
        (∀ b, b < base ∨ base + 128 * n ≤ b → Bytes.read (u.tile t).sets b = Bytes.read x.sets b)) ∧
    (o.src = true → d.space = 7 →
      let offs := (List.range n).map fun i => if o.form then 2 * i else i
      (x.linkReady d.link offs = true → exec (.lds t o) s = .next (s.setTile t { x with
        links := Sparse.set [] x.links d.link ((Sparse.get [] x.links d.link).drop n)
        sets := Bytes.writeN x.sets base (((Sparse.get [] x.links d.link).take n).map (·.line)).flatten
        setFmt := Sparse.set 0 x.setFmt (b2n o.set) (d.fmt + 1)
        setTid := Sparse.set 0 x.setTid (b2n o.set) (d.tid + 1) })) ∧
      (x.linkReady d.link offs = false → exec (.lds t o) s = .next (s.setTile t { x with
        seq := { x.seq with run := .stalled, need := some (d.link, offs) } })) ∧
      (∀ y, exec (.lds t o) (s.setTile t { x with seq := { x.seq with run := .stalled, need := some y } }) =
        exec (.lds t o) (s.setTile t { x with seq := { x.seq with run := .running, need := none } })))

/-- MMA and EWM whose operands are of one class stream their vectors into the array: an OPEN opens the block first, then vector r
adds its sums into the row groups the instruction names (02 R49, R62, R77; 04 R115), in the fill half in ping-pong mode (R71). An OPEN
of a product of a W-pass takes its window from the layer's curvature record, and a Gram pass of a step that does not gather leaves the
array idle (06 R175, R178; which products those are is log entry 128's choice). The
tile changes in its accumulator, its flags, its port cycles and counters, its links and the cycle of its last update; no other
tile, no HBM byte and no queue changes when no entry saturates and no digest is checked. One whose predicate suppresses it writes
nothing and occupies the array as if it executed (04 R112). ACC.FLIP exchanges the halves only. -/
def Obligations.AccumulatorPasses : Prop :=
  ∀ (s : State) (t : Nat),
    let x := s.tile t
    (∀ (c : Instr) (h : BitVec 9) (set : Bool) (p : Pred) (n : Nat),
      ((∃ m : MmaOp, c = .mma t m ∧ h = m.handle ∧ set = m.set ∧ p = m.pred ∧ n = m.nm1.toNat + 1) ∨
        (∃ m : EwmOp, c = .ewm t m ∧ h = m.handle ∧ set = m.set ∧ p = m.pred ∧ n = m.nm1.toNat + 1)) →
      s.issues t = true → s.runs t p = false → ∀ cls, matClass (x.stationaryFmt (b2n set) (x.desc h).fmt) = some cls →
      exec c s = .next (s.setTile t { x with seq := { x.seq with
        land := Nat.max x.seq.land (x.seq.cycle + n * vecCycles cls + 7) } })) ∧
    (∀ m : MmaOp, s.acts t m.pred = true → m.src = false → s.gramIdle (s.wProduct t (b2n m.set) m.handle) = true →
      ∀ cls, matClass (x.stationaryFmt (b2n m.set) (x.desc m.handle).fmt) = some cls →
      ∃ l, exec (.mma t m) s = .next (s.setTile t { x with
          idle := l
          seq := { x.seq with land := Nat.max x.seq.land (x.seq.cycle + (m.nm1.toNat + 1) * vecCycles cls + 7) } }) ∧
        ∀ g, g ∈ l ↔ g ∈ x.idle ∨ (m.opn = true ∧ s.rowGroup t false m.g.toNat ≤ g ∧
          g < s.rowGroup t false m.g.toNat + (m.nm1.toNat + 1))) ∧
    (∀ r w, s.spanWindow none w = w ∧ s.spanWindow (some (r, .dw)) w = (BitVec.ofNat 16 (s.recField r 0x28 15 0)).toInt ∧
      s.spanWindow (some (r, .a)) w = (BitVec.ofNat 16 (s.recField r 0x28 31 16)).toInt ∧
      s.spanWindow (some (r, .g)) w = (BitVec.ofNat 16 (s.recField r 0x28 47 32)).toInt) ∧
    (∀ p, s.acts t p = true → exec (.accFlip t p) s = .next (s.setTile t { x with fillHalf := !x.fillHalf })) ∧
    (∀ (c : Instr) (o : PassOp) (p : Pred) (span : Nat → Nat)
        (work : Tile → Nat → Nat → Nat → Nat → List (List FVal) → List (Nat × (Int → List ColSum))),
      ((∃ m : MmaOp, c = .mma t m ∧ p = m.pred ∧ span = (fun _ => m.nm1.toNat + 1) ∧ work = mmaWork (b2n m.set) ∧
          s.gramIdle (s.wProduct t (b2n m.set) m.handle) = false ∧
          o = ⟨m.set, m.opn, m.step, m.handle, m.g.toNat, m.nm1.toNat + 1,
            s.spanWindow (s.wProduct t (b2n m.set) m.handle) m.w.toInt, m.src⟩) ∨
        (∃ m : EwmOp, c = .ewm t m ∧ p = m.pred ∧ span = (fun ks => ks / 64) ∧ work = ewmWork (b2n m.set) m.k.toNat ∧
          o = ⟨m.set, m.opn, m.step, m.handle, m.g.toNat, m.nm1.toNat + 1, m.w.toInt, m.src⟩)) →
      let d := x.desc o.handle
      let k := Sparse.get 0 x.setFmt (b2n o.set)
      let f := if k = 0 then d.fmt else k - 1
      let ks := ksOf f d.fmt
      ∀ cls y vs, s.acts t p = true → d.valid = true → d.space = (if o.link then 7 else 0) → matClass f = some cls →
        matClass d.fmt = some cls → x.bankSp.state = .on → d.dchk = false →
        s.stream t o.link d o.handle (vecBytes d.fmt ks) (vecCycles cls) o.n = some (y, vs, none) →
        let g := s.rowGroup t false o.g
        let b := if o.opn then y.openBlock g (span ks) o.w o.step else y
        let el := ks * fmtBits d.fmt / 8
        let z := b.accumulateAll (work b f ks cls g (vs.map fun v => scaledElems d.fmt ks (v.take el) (v.drop el)))
        z.2.sat = 0 → z.2.bad = none →
        exec c s = .next (s.setTile t { z.1 with
          seq := { z.1.seq with land := Nat.max z.1.seq.land (x.seq.cycle + o.n * vecCycles cls + 7) } }))

/-- What one addition into a row group does (02 R58, R59, R63, R65, R70): a frozen block takes nothing, and only IV is
raised (01 R26); sums below the limit are added exactly, with the side flags; an overflow with a replay left freezes the block with
W + 32 and RC + 1 (that the overflowing sum is not stored is log entry 12's reading); with no replay left the entries that reach the limit saturate by the sign of their sum, with SAT and OF.

OPEN (02 R62): the row groups of the block get one word, at the instruction's W with RC = 0, or, when the word of the base
awaits replay there over the same span, at the word's W with RC kept; its entries count as V = 0 with NZ set and the other flags
clear; every other word and entry stays. -/
def Obligations.AccumulationAndOpeningABlock : Prop :=
  (∀ (x : Tile) (g : Nat) (sums : Int → List ColSum),
     let f := rgUnpack (Sparse.get 0 x.rgw g)
     let ent (k : Nat) : AccEntry := Sparse.get AccEntry.zero x.acc (64 * g + k)
     let c (k : Nat) : ColSum := (sums f.w).getD k ColSum.none
     let y := (x.accumulate g sums).1
     let fl := (sums f.w).foldl (fun a e => a ||| e.fl) 0
     (sums f.w).length = 64 → x.accMarked g 2 = [] →
     (f.frz = true → x.accumulate g sums = ({ x with flags := raise x.flags (fl &&& fIV) }, { sat := 0, bad := none })) ∧
     (f.frz = false → (∀ k, k < 64 → (ent k).overflows (c k) = false) →
       (∀ k, k < 64 → Sparse.get AccEntry.zero y.acc (64 * g + k) = (ent k).store (c k)) ∧
       (∀ e, e < 64 * g ∨ 64 * g + 64 ≤ e → Sparse.get AccEntry.zero y.acc e = Sparse.get AccEntry.zero x.acc e) ∧
       y.rgw = x.rgw ∧ y.flags = raise x.flags fl) ∧
     (f.frz = false → (∃ k, k < 64 ∧ (ent k).overflows (c k) = true) → f.rc < 3 → x.seq.fourth = false → f.w ≤ 32735 →
       (∀ b ∈ x.blockOf g, Sparse.get 0 x.rgw b = Sparse.get 0 x.rgw g) →
       (∀ k, k < 64 → Sparse.get AccEntry.zero y.acc (64 * g + k) =
         if (ent k).overflows (c k) then (ent k).withFlags (c k) else (ent k).store (c k)) ∧
       (∀ e, e < 64 * g ∨ 64 * g + 64 ≤ e → Sparse.get AccEntry.zero y.acc e = Sparse.get AccEntry.zero x.acc e) ∧
       y.ctr.replays = satAdd 32 x.ctr.replays 1 ∧
       (∀ b ∈ x.blockOf g, rgUnpack (Sparse.get 0 y.rgw b) =
         { f with frz := true, pend := true, w := f.w + 32, rc := f.rc + 1 }) ∧
       (∀ b, b ∉ x.blockOf g → Sparse.get 0 y.rgw b = Sparse.get 0 x.rgw b)) ∧
     (f.frz = false → (∃ k, k < 64 ∧ (ent k).overflows (c k) = true) → (3 ≤ f.rc ∨ x.seq.fourth = true) →
       (∀ k, k < 64 → Sparse.get AccEntry.zero y.acc (64 * g + k) =
         if (ent k).overflows (c k) then (ent k).saturate (c k) else (ent k).store (c k)) ∧
       (∀ b ∈ x.blockOf g, (rgUnpack (Sparse.get 0 y.rgw b)).sat = true) ∧ y.flags = raise (raise x.flags fl) fOF ∧
       0 < (x.accumulate g sums).2.sat)) ∧
  (∀ (x : Tile) (g n : Nat) (w : Int) (step : Bool), -32768 ≤ w → w ≤ 32671 → g < 256 → 0 < n →
     let old := rgUnpack (Sparse.get 0 x.rgw g)
     let again := old.pend = true ∧ old.base = g ∧ Sparse.get 0 x.blkLen g = n
     let y := x.openBlock g n w step
     y = { x with
       acc := y.acc
       rgw := y.rgw
       blkLen := Sparse.set 0 x.blkLen g n
       idle := x.idle.filter fun k => !((List.range n).map (g + ·)).contains k } ∧
     (∀ b, g ≤ b → b < g + n →
       (again → rgUnpack (Sparse.get 0 y.rgw b) = ⟨old.w, g, false, old.rc, false, step, false, true⟩) ∧
       (¬again → rgUnpack (Sparse.get 0 y.rgw b) = ⟨w, g, false, 0, false, step, false, true⟩)) ∧
     (∀ b, b < g ∨ g + n ≤ b → Sparse.get 0 y.rgw b = Sparse.get 0 x.rgw b) ∧
     (∀ e, 64 * g ≤ e → e < 64 * (g + n) → Sparse.get AccEntry.zero y.acc e = ⟨0, true, false, false, false⟩) ∧
     (∀ e, e < 64 * g ∨ 64 * (g + n) ≤ e → Sparse.get AccEntry.zero y.acc e = Sparse.get AccEntry.zero x.acc e))

/-- How a drain resolves an entry (02 R73): NaN when NAN or both infinities are set, with IV for a floating-point output only when
it came from opposite infinities; else an infinity; else −0 or +0 by NZ; else V × 2^W rounded once.

DRN drains its row groups in order, then clears OPEN and FRZ in them and reports the frozen STEP-class blocks with the Glint
partial of what it wrote for them (02 R69, R76). The drain of a Gram span that did not run drains nothing (06 R178).
 Of one row group into a vector buffer it puts its 64 rounded outputs at the destination, its row maximum and sum at the
next slot of the buffer it names, advances that slot, adds the Glint partial of the outputs to its digest accumulator, raises
their flags and clears OPEN and FRZ of the row group (02 R74–R76). -/
def Obligations.DrainsResolveAndWriteRowGroups : Prop :=
  (∀ (e : AccEntry) (w : Int) (rm : Rm) (sat : Bool), ∀ d ∈ [fmtFP64, fmtFP32, fmtBF16, fmtFP16],
     ((e.nan = true ∨ (e.pinf = true ∧ e.ninf = true)) →
       drainEntry d rm sat w e = (canonNan d, flagIf (!e.nan) fIV)) ∧
     (e.nan = false → e.pinf = true → e.ninf = false →
       drainEntry d rm sat w e = (if sat then maxBits d false else infBits d false, 0)) ∧
     (e.nan = false → e.pinf = false → e.ninf = true →
       drainEntry d rm sat w e = (if sat then maxBits d true else infBits d true, 0)) ∧
     (e.nan = false → e.pinf = false → e.ninf = false → e.v = 0 → drainEntry d rm sat w e = (zeroBits d e.nz, 0)) ∧
     (e.nan = false → e.pinf = false → e.ninf = false → e.v ≠ 0 →
       let r := roundFloat d rm (decide (e.v.toInt < 0)) e.v.toInt.natAbs w false 0
       (r.ovf = false → drainEntry d rm sat w e = (r.bits, roundFlags r.inexact r.tiny)) ∧
       (r.ovf = true → drainEntry d rm sat w e =
         (if sat then maxBits d (decide (e.v.toInt < 0)) else overflowBits d rm (decide (e.v.toInt < 0)), overflowFlags)))) ∧
  (∀ (s : State) (t : Nat) (o : DrnOp) (b : Nat),
     let x := s.tile t
     let d := x.desc o.handle
     let g := s.rowGroup t true o.g.toNat
     let v : VbOpnd := { vb := b, off := d.addr x.seq.li, d := d }
     let out := x.drainRow g d.fmt (rmOf o.rm) o.sat
     let st := x.drainStats g d.fmt out.1
     let half := fmtBits (rowFmt d.fmt) / 8
     let p := Sparse.get 0 x.seq.rsp o.vb.toNat
     let bytes := packElems d.fmt out.1 []
     let f := rgUnpack (Sparse.get 0 x.rgw g)
     let gs := (List.range (o.nm1.toNat + 1)).map (g + ·)
     s.acts t o.pred = true → d.valid = true → d.space ≤ 4 →
     (gs.all x.idle.contains = true → exec (.drn t o) s = .next (s.setTile t { x with
       idle := x.idle.filter fun k => !gs.contains k })) ∧
     (gs.all x.idle.contains = false → ∀ y, drainRows (drainStep t o d (d.addr x.seq.li) g x.seq.cycle) (o.nm1.toNat + 1) 0 x = (y, none) →
       ∃ u, exec (.drn t o) s = .next u ∧ u.tiles = (s.setTile t (y.mapWords gs fun w => { w with opn := false, frz := false })).tiles ∧
         u = { s with
           tiles := u.tiles
           seqr := { s.seqr with
             reports := s.seqr.reports ++ (x.frozenBases gs).map fun e =>
               { layer := s.layerOf d.tid, tile := t, base := e }
             frozenDig := s.seqr.frozenDig ++
               if (x.frozenBases gs).isEmpty then [] else [(d.tid, x.frozenPartial d gs)] } }) ∧
     (gs.all x.idle.contains = false → o.nm1 = 0 → d.vb? = some b → x.accMarked g 2 = [] → v.fits bytes.length = true → p + 2 * half ≤ 16384 →
       (f.frz && f.pend && f.step) = false →
       exec (.drn t o) s = .next (s.setTile t { x with
         vb := Bytes.writeN (Bytes.writeN x.vb (vbAt b v.off.toNat) bytes) (vbAt o.vb.toNat p)
           (leBytes half st.1 ++ leBytes half st.2)
         flags := raise x.flags out.2
         seq := { x.seq with rsp := Sparse.set 0 x.seq.rsp o.vb.toNat (p + 2 * half) }
         ctr := { x.ctr with accEcc := satAdd 32 x.ctr.accEcc (x.accMarked g 1).length }
         da := Sparse.set 0 x.da o.da.toNat ((Sparse.get 0 x.da o.da.toNat + elemPartial d x.seq.li 0 out.1) % ldP)
         rgw := Sparse.set 0 x.rgw g (rgPack { f with opn := false, frz := false }) })))

/-! ### The X slot (03 R90–R96; 04 R118; 13 R357, R479) -/

/-- LD.VB moves whole lines from the scratchpad to a vector buffer; ST.VB moves them back under a word mask, masked-off words and
every byte outside the lines keeping their contents. A load and a whole-granule store take one port cycle a line, a store that
covers part of a granule two (03 R81, R91; 04 R118).

XFER sends its lines to another tile's scratchpad, where each takes the port in the cycle of its arrival, or to a link, whose
line it joins (04 R118; 05 R143; 03 R93). One line to one receiver is stated byte by byte; several lines, and a multicast, are
the lines one after the other.

DG.ST stores a digest accumulator as one whole granule, the value zero-extended to 64 bits and then zero, in one port cycle
(04 R118). -/
def Obligations.TransfersAndDigestStores : Prop :=
  (∀ (s : State) (t : Nat) (o : VbOp) (v : VbOpnd),
     let x := s.tile t
     let d := x.desc o.sph
     let n := o.lm1.toNat + 1
     let a := d.addr x.seq.li
     let vb := vbAt v.vb v.off.toNat
     let mask := Sparse.get 0 x.seq.msk o.msel.toNat
     let fixed := ((List.range n).map fun i =>
       ((granules (a + (128 * i : Nat)).toNat 128).filter fun g => Sparse.get 0 x.spErr g == 1).length).sum
     s.acts t o.pred = true → vbOpnd x o.vbh = some v → d.valid = true → d.space = 0 → x.bankSp.state = .on →
     (∀ i, i < n → ({ v with off := v.off + (128 * i : Nat) } : VbOpnd).fits 128 = true ∧
       d.covers (a + (128 * i : Nat)) 128 = true ∧ inSp (a + (128 * i : Nat)) 128 = true) →
     (∀ g, Sparse.get 0 x.spErr g ≠ 2) →
     ((∀ i, i < n → x.portUser (x.seq.cycle + i) = none) →
       ∃ u, exec (.ldVb t o) s = .next u ∧ u = { s with tiles := u.tiles } ∧ (∀ w, w ≠ t → u.tile w = s.tile w) ∧
         u.tile t = { x with
           vb := (u.tile t).vb
           port := (u.tile t).port
           ctr := { x.ctr with spEcc := satAdd 32 x.ctr.spEcc fixed } } ∧
         (∀ i, i < 128 * n → Bytes.read (u.tile t).vb (vb + i) = Bytes.read x.sp (a.toNat + i)) ∧
         (∀ b, b < vb ∨ vb + 128 * n ≤ b → Bytes.read (u.tile t).vb b = Bytes.read x.vb b) ∧
         (∀ e, e ∈ (u.tile t).port ↔ e ∈ x.port ∨ (e.2 = 1 ∧ x.seq.cycle ≤ e.1 ∧ e.1 < x.seq.cycle + n))) ∧
     (let k := if wholeGranules mask then 1 else 2
      (∀ i, i < k * n → x.portUser (x.seq.cycle + i) = none) →
       ∃ u, exec (.stVb t o) s = .next u ∧ u = { s with tiles := u.tiles } ∧ (∀ w, w ≠ t → u.tile w = s.tile w) ∧
         u.tile t = { x with
           sp := (u.tile t).sp
           spErr := (u.tile t).spErr
           port := (u.tile t).port
           ctr := { x.ctr with spEcc := (u.tile t).ctr.spEcc } } ∧
         (∀ i, i < 128 * n → Bytes.read (u.tile t).sp (a.toNat + i) =
           if mask.getLsbD (i % 128 / 4) then Bytes.read x.vb (vb + i) else Bytes.read x.sp (a.toNat + i)) ∧
         (∀ b, b < a.toNat ∨ a.toNat + 128 * n ≤ b → Bytes.read (u.tile t).sp b = Bytes.read x.sp b) ∧
         (∀ e, e ∈ (u.tile t).port ↔ e ∈ x.port ∨ (e.2 = 1 ∧ x.seq.cycle ≤ e.1 ∧ e.1 < x.seq.cycle + k * n)))) ∧
  (∀ (s : State) (t : Nat) (o : XferOp),
     let x := s.tile t
     let src := x.desc o.src
     let dst := x.desc o.dst
     let a := src.addr x.seq.li
     let b := dst.addr x.seq.li
     let c := x.seq.cycle
     s.acts t o.pred = true → src.valid = true → src.space = 0 → dst.valid = true → (dst.space = 5 ∨ dst.space = 7) →
     (∀ y, runLines (xferLine t o src dst a b c s.free) (o.lm1.toNat + 1) 0 s = (y, none) →
       exec (.xfer t o) s = .next (y.spFree t (128 * (o.lm1.toNat + 1)))) ∧
     (o.lm1 = 0 → o.cast = 0 → src.covers a 128 = true → inSp a 128 = true → x.portUser c = none → x.bankSp.state = .on →
       (∀ g, Sparse.get 0 x.spErr g = 0) → x.ctr.spEcc < 2 ^ 32 →
       (dst.space = 5 → dst.rtile ≠ t → dst.covers b 128 = true → inSp b 128 = true →
         (s.tile dst.rtile).portUser (c + routeCycles t dst.rtile) = none →
         exec (.xfer t o) s = .next ((s.setTile t (x.portTake 1 [c])).setTile dst.rtile
           (((s.tile dst.rtile).portTake 5 [c + routeCycles t dst.rtile]).spWrite b.toNat (Bytes.readN x.sp a.toNat 128)))) ∧
       (∀ p, dst.space = 7 → linkPeer t dst.link = some p → p.1 ≠ t →
         exec (.xfer t o) s = .next ((s.setTile t (x.portTake 1 [c])).setTile p.1 { s.tile p.1 with
           links := Sparse.set [] (s.tile p.1).links p.2 (insertLine
             { src := t, sent := x.now, arr := x.now + linkCycles t dst.link 0, line := Bytes.readN x.sp a.toNat 128 }
             (Sparse.get [] (s.tile p.1).links p.2)) })) ∧
       linkCycles t dst.link 0 = if dst.link = 4 then 5 else 2)) ∧
  (∀ (s : State) (t : Nat) (o : DgStOp),
     let x := s.tile t
     let d := x.desc o.sph
     let a := d.addr x.seq.li
     s.acts t o.pred = true → d.valid = true → d.space = 0 → d.covers a 16 = true → inSp a 16 = true →
     x.portUser x.seq.cycle = none → x.bankSp.state = .on → Sparse.get 0 x.da o.da.toNat < 2 ^ 61 →
     ∃ u, exec (.dgSt t o) s = .next u ∧ u = { s with tiles := u.tiles } ∧ (∀ w, w ≠ t → u.tile w = s.tile w) ∧
       u.tile t = { x with
         sp := (u.tile t).sp
         spErr := (u.tile t).spErr
         port := (x.seq.cycle, 1) :: x.port } ∧
       Bytes.readLe (u.tile t).sp a.toNat 8 = Sparse.get 0 x.da o.da.toNat ∧ Bytes.readLe (u.tile t).sp (a.toNat + 8) 8 = 0 ∧
       (∀ b, b < a.toNat ∨ a.toNat + 16 ≤ b → Bytes.read (u.tile t).sp b = Bytes.read x.sp b))

/-- HBM.RD and HBM.WR make the accesses with an assigned slot eligible, a write with the line's bytes from the scratchpad, those of a
plane-packed saved tensor as its group's slot (08 R221, R222; log entry 66); a line without one stops the tile with PROGRAM_INVALID
(13 R357, R358, R479). One line is stated whole; several lines are the lines one after the other.

ATOM.ADD and ATOM.SWAP on a line of the tile's own scratchpad or of another tile's: the masked elements take the sum or the new
value, the others stay, the old values of the masked elements go to the return operand when there is one, the line's two port
cycles are taken and the flags of an FP32 addition are raised at the bank's tile (03 R95, R96). One on another tile's bank waits
there until that tile has come to its port cycles, behind those of earlier ones, and then acts the same way (03 R96). -/
def Obligations.HbmCommandsAndAtomics : Prop :=
  (∀ (s : State) (t : Nat) (o : HbmOp),
     let x := s.tile t
     let h := x.desc o.hbm
     let d := x.desc o.sph
     let ha := h.addr x.seq.li
     let da := d.addr x.seq.li
     let n := o.lm1.toNat + 1
     s.acts t o.pred = true → h.valid = true → h.space = 6 → d.valid = true → d.space = 0 →
     (∀ y, runLines (hbmRdLine t o h d ha da) n 0 s = (y, none) → exec (.hbmRd t o) s = .next y) ∧
     (∀ y, runLines (hbmWrLine t o h d ha da x.seq.cycle s.free) n 0 s = (y, none) →
       exec (.hbmWr t o) s = .next (y.spFree t (128 * n))) ∧
     (o.lm1 = 0 → h.covers ha 128 = true → d.covers da 128 = true → inSp da 128 = true → x.stopAt = none →
       (∀ pre p post, s.hbm.plan = pre ++ p :: post → isAccess t x.seq 0 false p = true →
         (∀ e ∈ pre, isAccess t x.seq 0 false e = false) →
         exec (.hbmRd t o) s = .next { s with hbm := { s.hbm with
           plan := pre ++ { p with state := .issued, elig := x.now + 16, data := [], save := s.saveSlot h ha } :: post } }) ∧
       (∀ pre p post, s.hbm.plan = pre ++ p :: post → isAccess t x.seq 0 true p = true →
         (∀ e ∈ pre, isAccess t x.seq 0 true e = false) → x.portUser x.seq.cycle = none → x.bankSp.state = .on →
         (∀ g, Sparse.get 0 x.spErr g = 0) → x.ctr.spEcc < 2 ^ 32 →
         let w := s.saveLine t (s.saveSlot h ha) (Bytes.readN x.sp da.toNat 128)
         exec (.hbmWr t o) s = .next { w.1.setTile t (x.portTake 7 [x.seq.cycle]) with hbm := { s.hbm with
           plan := pre ++ { p with state := .issued, elig := x.now + 24, data := w.2, save := s.saveSlot h ha } :: post } }) ∧
       ((∀ e ∈ s.hbm.plan, isAccess t x.seq 0 false e = false) →
         ∃ u, exec (.hbmRd t o) s = .next u ∧ u.out = s.out ++ [.stop s.announceCount stInvalid false] ∧
           u.tile t = { x with stopAt := some (x.seq.cycle + 1) } ∧ u.hbm.plan = s.hbm.plan))) ∧
  (∀ (s : State) (t : Nat) (o : AtomOp) (v : VbOpnd) (swap : Bool),
     let x := s.tile t
     let d := x.desc o.tgt
     let a := d.addr x.seq.li
     let u := if d.space = 5 then d.rtile else t
     let c := if d.space = 5 then x.seq.cycle + routeCycles t u else x.seq.cycle
     let y := s.tile u
     let f := if fmtBits d.fmt = 64 then fmtINT64 else fmtINT32
     let n := if fmtBits d.fmt = 64 then 16 else 32
     let mask := Sparse.get 0 x.seq.msk o.msel.toNat
     let old := unpackElems f n (Bytes.readN y.sp a.toNat 128)
     let new := unpackElems f n (v.read x 128)
     let res := atomLine swap d.fmt mask old new
     s.acts t o.pred = true → d.valid = true → (d.space = 0 ∨ d.space = 5) → d.covers a 128 = true → inSp a 128 = true →
     vbOpnd x o.val = some v → v.fits 128 = true → y.portUser c = none → y.portUser (c + 1) = none → y.bankSp.state = .on →
     (∀ g, Sparse.get 0 y.spErr g = 0) → y.ctr.spEcc < 2 ^ 32 →
     ∀ ret, ((o.ret = 0x1FF ∧ ret = none) ∨
       ∃ w, o.ret ≠ 0x1FF ∧ vbOpnd x o.ret = some w ∧ w.fits 128 = true ∧ ret = some (t, vbAt w.vb w.off.toNat)) →
     let e : RemoteAtom := { cycle := c, addr := a.toNat, swap := swap, fmt := d.fmt, mask := mask, vals := new, ret := ret }
     let z := { y with port := [(c, 8), (c + 1, 8)] ++ y.port }
     (u ≠ t → y.seq.run.live = true → y.seq.cycle ≤ c → exec (if swap then .atomSwap t o else .atomAdd t o) s =
       .next (s.setTile u { z with atoms := insertAtom e y.atoms })) ∧
     (y.atoms = [] → ∃ r, ((u = t ∨ y.seq.run.live = false ∨ c < y.seq.cycle) →
         exec (if swap then .atomSwap t o else .atomAdd t o) s = .next r) ∧
       (∀ w : State, (∀ i, w.tile i = (s.setTile u { z with atoms := [e] }).tile i) →
         (y.seq.run.live = false ∨ c < y.seq.cycle) → ∀ i, (w.landAtoms u).tile i = r.tile i) ∧
       r = { s with tiles := r.tiles } ∧
       (∀ w, w ≠ t → w ≠ u → r.tile w = s.tile w) ∧
       r.tile u = { y with
         sp := (r.tile u).sp
         spErr := (r.tile u).spErr
         vb := (r.tile u).vb
         flags := raise y.flags res.2
         port := [(c, 8), (c + 1, 8)] ++ y.port } ∧
       (u ≠ t → (r.tile u).vb = y.vb ∧ r.tile t = { x with vb := (r.tile t).vb }) ∧
       unpackElems f n (Bytes.readN (r.tile u).sp a.toNat 128) = res.1.map (· % 2 ^ fmtBits f) ∧
       (∀ k, k < n → res.1.getD k 0 = if mask.getLsbD k then
           (if swap then new.getD k 0
            else if d.fmt = fmtFP32 then (atomFp32 (old.getD k 0) (new.getD k 0)).1
            else (old.getD k 0 + new.getD k 0) % 2 ^ fmtBits d.fmt)
         else old.getD k 0) ∧
       (∀ b, b < a.toNat ∨ a.toNat + 128 ≤ b → Bytes.read (r.tile u).sp b = Bytes.read y.sp b) ∧
       (o.ret = 0x1FF → (r.tile t).vb = x.vb) ∧
       (∀ w, o.ret ≠ 0x1FF → vbOpnd x o.ret = some w → w.fits 128 = true →
         unpackElems f n (w.read (r.tile t) 128) =
           (List.range n).map (fun k => if mask.getLsbD k then old.getD k 0 else (unpackElems f n (w.read x 128)).getD k 0) ∧
         ∀ b, b < vbAt w.vb w.off.toNat ∨ vbAt w.vb w.off.toNat + 128 ≤ b →
           Bytes.read (r.tile t).vb b = Bytes.read x.vb b))) ∧
  (∀ (s : State) (t : Nat), (s.tile t).atoms = [] → s.landAtoms t = s)

/-! ### Index engines (03 R97–R104; 04 R119) -/

/-- Every IXC issues into its engine's slot with the bound CNT[NSEL] and its operands resolved, takes the port cycles of its
deliveries (user 6) and its assigned HBM slots, and changes nothing else; its effect comes with the slot's end (03 R92, R97; 04
R119; 13 R357, R358). An operand whose extent is too short for it stops the tile, a delivery whose port cycle is taken is a port
conflict (04 R135; 03 R93).

The slot of a gather ends (03 R98, R100): output row p is table row index[p], a row of zeros for −1 or an index outside the
table, and zeros from the count up to the bound; only indices outside the table other than −1 are counted; the count word holds
the count and the engine is idle. Nothing else changes but the output rows. How many entries an index list has is log entry 117's
choice.

A scatter-add combines the contributions to each destination row in ascending source position, starting from the row's own
value (03 R99, R101); a destination row that no index names keeps its bytes. -/
def Obligations.IndexCommandsGatherAndScatter : Prop :=
  (∀ (s : State) (t : Nat) (o : IxOp) (h0 h1 h2 h3 : IxOperand),
     let x := s.tile t
     let n := (Sparse.get 0 x.seq.cnt o.nsel.toNat).toNat
     let e := o.ixe.toNat
     s.acts t o.pred = true → ixOperand t x o.h0 = some h0 → ixOperand t x o.h1 = some h1 → ixOperand t x o.h2 = some h2 →
     ixOperand t x o.h3 = some h3 → (s.ixe e).cmd = none →
     ∀ c ∈ ([(.gth t o, 0), (.gscAdd t o, 1), (.segSum t o, 2), (.segMax t o, 3), (.segMin t o, 4), (.sortU32 t o, 5),
         (.sortI32 t o, 6), (.sortF32 t o, 7), (.walkCsr t o, 8), (.walkBsp t o, 9)] : List (Instr × Nat)),
       let k : IxCmd := {
         op := c.2, tile := t, bundle := x.seq.bundle, handles := [o.h0, o.h1, o.h2, o.h3], bound := n, h0 := h0, h1 := h1, h2 := h2,
         h3 := h3, mod := o.mod.toNat, dims := (Sparse.get 0 x.seq.cnt ((o.nsel.toNat + 1) % 16)).toNat }
       let taken (u : State) := k.deliveries.foldl (fun u p => u.setTile p.1 ((u.tile p.1).portTake 6 [x.seq.cycle + p.2])) u
       (∀ h, k.outside = some h → exec c.1 s = .next (s.badAccess t x.seq.cycle 2 h)) ∧
       (k.outside = none → ∀ q, s.ixClash x.seq.cycle k.deliveries = some q →
         exec c.1 s = .next (s.portConflict q.1 q.2.1 q.2.2 6)) ∧
       (k.outside = none → (∀ p ∈ k.deliveries, (s.tile p.1).portUser (x.seq.cycle + p.2) = none) →
         ∀ u, s.ixAccesses t e (k.lines.zipIdx.map fun l => (l.2, l.1)) = .ok u →
           exec c.1 s = .next ((taken u).setIxe e { s.ixe e with cmd := some k, tile := t })) ∧
       ((∀ i, i < 4 → (k.opnd i).hbm = false) → s.ixAccesses t e (k.lines.zipIdx.map fun l => (l.2, l.1)) = .ok s)) ∧
  (∀ (s : State) (e : Nat) (c : IxCmd), (s.ixe e).cmd = some c → c.op = 0 → c.h0.entries ≤ c.bound → c.h2.null = false →
     s.IxWhole e c →
     let rb := c.h1.rowBytes
     let idx (p : Nat) : Int := s.ixEntry c.h0 p
     ∃ u, exec (.indexSlotEnd e) s = .next u ∧
       u.ixe e = { s.ixe e with
         oor := ((s.ixe e).oor + ((List.range c.h0.entries).map fun p =>
           if (0 ≤ idx p ∧ idx p < c.h1.rows) ∨ idx p = -1 then 0 else 1).sum) % 2 ^ 32
         count := c.h0.entries
         cmd := none } ∧
       (∀ f, f ≠ e → u.ixe f = s.ixe f) ∧
       (∀ p, p < c.h0.entries → u.ixRead c.h2 (p * rb) rb =
         if 0 ≤ idx p ∧ idx p < c.h1.rows then s.ixRead c.h1 ((idx p).toNat * rb) rb else List.replicate rb 0) ∧
       (∀ p, c.h0.entries ≤ p → p < c.bound → u.ixRead c.h2 (p * rb) rb = List.replicate rb 0) ∧
       u = { s with tiles := u.tiles, ix := u.ix, hbm := { s.hbm with mem := u.hbm.mem } } ∧
       (c.h2.hbm = true → u.tiles = s.tiles ∧ ∀ b, b < c.h2.addr ∨ c.h2.addr + c.bound * rb ≤ b →
         Bytes.read u.hbm.mem b = Bytes.read s.hbm.mem b) ∧
       (c.h2.hbm = false → u.hbm.mem = s.hbm.mem ∧ (∀ w, w ≠ c.h2.tile → u.tile w = s.tile w) ∧
         ∀ b, b < c.h2.addr ∨ c.h2.addr + c.bound * rb ≤ b →
           Bytes.read (u.tile c.h2.tile).sp b = Bytes.read (s.tile c.h2.tile).sp b)) ∧
  (∀ (s : State) (e : Nat) (c : IxCmd) (r : Nat), (s.ixe e).cmd = some c → c.op = 1 → c.h0.entries ≤ c.bound →
     c.h2.fmt ∈ [fmtFP32, fmtFP64, fmtINT32, fmtINT64] → r < c.h2.rows →
     c.h1.width = c.h2.width → c.h2.null = false → s.IxWhole e c →
     ∃ u, exec (.indexSlotEnd e) s = .next u ∧ (u.ixe e).cmd = none ∧ (u.ixe e).count = c.h0.entries ∧
       (u.ixe e).oor = (s.ixe e).oor % 2 ^ 32 ∧
       u.ixRow c.h2 r = ((List.range c.h0.entries).filter fun p => s.ixEntry c.h0 p == (r : Int)).foldl
         (fun d p => (List.zipWith (ixAdd c.h2.fmt) d (s.ixRow c.h1 p)).map fun z => z.1 % 2 ^ fmtBits c.h2.fmt) (s.ixRow c.h2 r))

/-- The engines' sort orders ascending by key in each key mode, keeps every entry, and is stable: entries of equal keys keep their
order; FP32 keys order −NaN below −Inf, −0 below +0 and +NaN above +Inf (03 R103). The slot's end writes the sorted keys and their
payloads, zeros up to the bound, and the count (R98).

The slot of a segmented reduction ends with row k the reduction of segment k in ascending position (+0, −Inf or +Inf for an
empty one with a floating-point format), a decrease of the offsets instead with CAPACITY and its index in the fault record (03
R102). A walk ends with one item for each stored entry, row, column and position, in ascending row and position, each followed by
the gathered row of a CSR walk (R104). -/
def Obligations.SortsSegmentsAndWalks : Prop :=
  ((∀ mode (l : List (Nat × Nat)), (sortKeys mode l).Perm l ∧
     (sortKeys mode l).Pairwise (fun a b => sortKey mode a.1 ≤ sortKey mode b.1) ∧
     ∀ k, (sortKeys mode l).filter (fun a => sortKey mode a.1 == k) = l.filter (fun a => sortKey mode a.1 == k)) ∧
   (∀ x y, x < 2 ^ 32 → y < 2 ^ 32 →
     (sortKey 0 x < sortKey 0 y ↔ x < y) ∧
     (sortKey 1 x < sortKey 1 y ↔ (BitVec.ofNat 32 x).toInt < (BitVec.ofNat 32 y).toInt) ∧
     (sortKey 2 x = if x < 2 ^ 31 then x ^^^ 2 ^ 31 else x ^^^ (2 ^ 32 - 1))) ∧
   (∀ (s : State) (e : Nat) (c : IxCmd), (s.ixe e).cmd = some c → c.op ∈ [5, 6, 7] → c.h0.entries ≤ c.bound → c.h2.null = false →
     c.h3.null = false → c.h2.Apart c.h3 (4 * c.bound) → s.IxWhole e c →
     let word (o : IxOperand) (p : Nat) : Nat := leNat (s.ixRead o (4 * p) 4)
     let l := sortKeys (c.op - 5) ((List.range c.h0.entries).map fun p => (word c.h0 p, word c.h1 p))
     ∃ u, exec (.indexSlotEnd e) s = .next u ∧ (u.ixe e).cmd = none ∧ (u.ixe e).count = c.h0.entries ∧
       ∀ p, p < c.bound → leNat (u.ixRead c.h2 (4 * p) 4) = (l.getD p (0, 0)).1 ∧
         leNat (u.ixRead c.h3 (4 * p) 4) = (l.getD p (0, 0)).2)) ∧
  (∀ (s : State) (e : Nat) (c : IxCmd), (s.ixe e).cmd = some c → c.h2.null = false → s.IxWhole e c →
     (∀ op ∈ [2, 3, 4], c.op = op → c.mod % 2 = 0 → c.h2.fmt ∈ [fmtFP32, fmtFP64] → c.h0.width = c.h2.width →
       let offs := (List.range c.h1.entries).map (s.ixEntry c.h1)
       let seg (k : Nat) : List Nat := (List.range (offs.getD (k + 1) 0 - offs.getD k 0).toNat).map ((offs.getD k 0).toNat + ·)
       (∀ k, firstDecrease 0 offs = some k → ∃ u, exec (.indexSlotEnd e) s = .next u ∧ (u.ixe e).cmd = none ∧
         u.flt.head = s.flt.head + 1 ∧ (∀ g, s.prog.tag = some g → ∀ op', s.op g = some op' →
           ∃ op2, u.op g = some op2 ∧ stCapacity ∈ op2.statuses)) ∧
       (firstDecrease 0 offs = none → 0 ≤ offs.getD 0 0 → (offs.getLastD 0).toNat ≤ c.bound → offs.length - 1 ≤ c.bound →
         (offs.getLastD 0).toNat * c.h0.rowBytes ≤ c.h0.room → (offs.length - 1) * c.h2.rowBytes ≤ c.h2.room →
         ∃ u, exec (.indexSlotEnd e) s = .next u ∧ (u.ixe e).cmd = none ∧ (u.ixe e).count = (offs.getLastD 0).toNat ∧
           ∀ k, k < offs.length - 1 → u.ixRow c.h2 k =
             (if seg k = [] then List.replicate c.h2.width (match op with
                 | 2 => 0 | 3 => infBits c.h2.fmt true | _ => infBits c.h2.fmt false)
              else (segReduce (segOp op c.h2.fmt) ((seg k).map (s.ixRow c.h0))).1).map (· % 2 ^ fmtBits c.h2.fmt))) ∧
     (c.op = 8 → firstDecrease 0 ((List.range c.h0.entries).map (s.ixEntry c.h0)) = none →
       let items := walkEntries ((List.range c.h0.entries).map (s.ixEntry c.h0))
       let gb := if c.h3.null then 0 else c.h3.rowBytes
       items.length ≤ c.bound → (∀ i ∈ items, (i.2 + 1) * elemBytes c.h1.fmt ≤ c.h1.room) → ∃ u, exec (.indexSlotEnd e) s = .next u ∧ (u.ixe e).cmd = none ∧ (u.ixe e).count = items.length ∧
         ∀ k, (hk : k < items.length) →
           u.ixRead c.h2 (k * (12 + gb)) (12 + gb) =
             leBytes 4 items[k].1 ++ leBytes 4 (wrap 32 (s.ixEntry c.h1 items[k].2)) ++ leBytes 4 items[k].2 ++
             (if c.h3.null then [] else (s.gatherRow c.h3 (s.ixEntry c.h1 items[k].2)).1)))

/-! ### Router deliveries (05 R149–R151) -/

/-- A delivery of the router writes its bytes at its address, in every state: to the scratchpad of one tile or to HBM. A tile-linear one
is kept in the receive log of a running program while it has room (14 R384), and what a recovery fetch waits for is then there (14
R383). One that comes after its scheduled count also leaves the 32-byte record of 05 R151 in the late-arrival ring, with the lateness
saturating at 0xFFFF_FFFF, and counts a record it overwrites; TILE names the tile it stalls, and with none the tile that issued the
access of an index engine, else the tile it goes to. A part that re-executes records it no second time (14 R384). -/
def Obligations.RouterDeliveriesAndLateRecords : Prop :=
  ∀ (s : State) (d : Delivery),
    let w := s.linWrite d.addr d.data
    let kept := isTileLinear d.addr && s.prog.tag.isSome && !s.recov.active && !s.recov.logFull
    let room := decide (s.receiveLogBytes + d.data.length ≤ receiveLogSize)
    let v : State := { w with recov := { s.recov with
      log := if kept && room then s.recov.log ++ [(d.addr, d.data)] else s.recov.log
      logFull := s.recov.logFull || (kept && !room)
      want := s.recov.want.flatMap (subRange d.addr d.data.length) } }
    let r := s.dg.late
    (∀ t off, t < 1024 → d.addr = 2 ^ 63 + t * 2 ^ 20 + off → d.data ≠ [] → off + d.data.length ≤ 2 ^ 20 →
      w = s.setTile t ((s.tile t).spWrite off d.data) ∧
      ((d.src.toNat < 0x40 ∨ 0x60 ≤ d.src.toNat) → s.deliveryTile d = t)) ∧
    (d.addr + d.data.length ≤ hbmTop → w = { s with hbm := { s.hbm with mem := Bytes.writeN s.hbm.mem d.addr d.data } }) ∧
    (∀ e, e < 32 → d.src.toNat = 0x40 + e → s.deliveryTile d = (s.ixe e).tile) ∧
    ((d.at_ ≤ d.sched ∨ s.reexecuting (s.deliveryTile d) = true) → exec (.routerDelivery d) s = .next v) ∧
    (d.sched < d.at_ → s.reexecuting (s.deliveryTile d) = false → r.base.toNat + 32 * (r.head % r.size) + 32 ≤ hbmTop →
      ∃ u, exec (.routerDelivery d) s = .next u ∧
      u = { v with
        hbm := { v.hbm with mem := u.hbm.mem }
        dg := { v.dg with late := { r with
          head := r.head + 1
          lost := if r.size ≤ r.head then satAdd 32 r.lost 1 else r.lost } } } ∧
      (let a := r.base.toNat + 32 * (r.head % r.size)
       Bytes.readLe u.hbm.mem a 8 = s.gbl.step.toNat ∧ Bytes.readLe u.hbm.mem (a + 8) 8 = d.sched % 2 ^ 64 ∧
       Bytes.readLe u.hbm.mem (a + 16) 4 = Nat.min (d.at_ - d.sched) (2 ^ 32 - 1) ∧
       Bytes.readLe u.hbm.mem (a + 20) 4 = d.epoch.toNat % 2 ^ 32 ∧ Bytes.readLe u.hbm.mem (a + 24) 1 = d.src.toNat ∧
       Bytes.readLe u.hbm.mem (a + 25) 1 = Nat.min d.retry 255 ∧ Bytes.readLe u.hbm.mem (a + 26) 2 = d.chunk % 2 ^ 16 ∧
       Bytes.readLe u.hbm.mem (a + 28) 2 = (d.stallTile.getD (s.deliveryTile d)) % 2 ^ 16 ∧ Bytes.readLe u.hbm.mem (a + 30) 2 = 0 ∧
       ∀ b, b < a ∨ a + 32 ≤ b → Bytes.read u.hbm.mem b = Bytes.read v.hbm.mem b))

/-! ### Descriptors (04 R136–R139; 08 R228–R232; 11 R298, R303–R308; 12 R331–R352) -/

/-- LOAD_PROGRAM of an image that passes every check replaces the program (04 R136–R139; 08 R228): each tile has its stores from
the image, zero buffers, accumulators and digests, its sequencer at its reset values with CNT_DECL, VL 64 and masks of all ones,
and its resident scratchpad lines kept; the engines, the slot plan and the collective position start anew; PROG is 1, or 3 beside
a pre-empted program. An allocation over 510 GiB ends it with CAPACITY and the bytes missing, and so does a layer whose W-pass does
not fit in the accumulators of its tiles, with the bytes of the entries missing (06 R176; which tiles those are is log entry 68's
choice, and a load with no step plan has none). UNLOAD removes the program.

COLL_TABLE_LOAD of tables in which every record is good replaces the rank map, the communicators, the entries and the order
table as a whole, sets each entry's threshold to its TINC and TB_COLL_POS to 0, and writes TREE into each communicator record
(11 R303–R308, R310). It is refused while a program runs: the tables stay.

A compute request on a restricted part ends with RESTRICTED_MODE and does nothing else (00 R3; 13 R375). -/
def Obligations.ProgramsAndCollectiveTablesLoad : Prop :=
  (∀ (s : State) (tag : Nat) (o : Op), s.Startable tag opLoad o →
     (o.field 0x10 40 40 = 0 →
       let plan := o.word 0x18
       let alloc := if plan = 0 then s.readAlloc (o.word 0x20) (o.field 0x28 15 0)
         else s.readAlloc (Bytes.readLe s.hbm.mem (plan + 0x28) 8) (Bytes.readLe s.hbm.mem (plan + 0x30) 2)
       let both := match s.saved with | none => alloc | some v => alloc ++ v.prog.alloc
       let p : ProgImage := { mem := s.hbm.mem, addr := o.word 0x08, len := o.field 0x10 39 0 }
       (allocLimit < sumSizes both → ∃ u o', exec (.loadProgram tag) s = .next u ∧ s.OpIs u tag o' ∧ o'.phase = .finished ∧
         o'.statuses = [stCapacity] ∧ o'.result = BitVec.ofNat 64 (sumSizes both - allocLimit) ∧ u.tiles = s.tiles ∧
         u.prog = s.prog ∧ u.gbl = s.gbl) ∧
       (∀ slots, sumSizes both ≤ allocLimit → badAlloc alloc = none → (∀ v, s.saved = some v → v.meets alloc = none) →
         p.validate = .ok slots → ∃ u o', exec (.loadProgram tag) s = .next u ∧ s.OpIs u tag o' ∧ o'.phase = .finished ∧
         match s.wpassShort plan (Bytes.readN p.mem p.addr p.len) with
         | some x => o'.statuses = [stCapacity] ∧ o'.result = BitVec.ofNat 64 (16 * x.2) ∧ u.tiles = s.tiles ∧ u.prog = s.prog ∧
           u.gbl = s.gbl
         | none => o' = { o with phase := .finished, result := 0 } ∧
         u = { s with
           tiles := u.tiles
           ix := []
           hbm := { s.hbm with plan := slots.accesses, deliver := [] }
           q := { s.q with ops := u.q.ops }
           coll := { s.coll with pos := 0, refused := false, due := [], runs := [], thr := u.coll.thr }
           tb := { s.tb with discard := 0 }
           seqr := StepSeq.reset
           ss := { s.ss with stall := 0, drop := 0, segs := [], left := none, hostSkip := false, stallFrom := none, hostOut := [] }
           recov := { s.recov with
             current := none
             previous := none
             log := []
             logFull := false
             undo := []
             carried := []
             want := [] }
           prog := u.prog
           gbl := { s.gbl with prog := if s.saved.isSome then 3 else 1, progId := BitVec.ofNat 64 (p.le 0 8) } } ∧
         (u.prog.addr, u.prog.len, u.prog.plan, u.prog.alloc, u.prog.tag) = (p.addr, p.len, plan, alloc, none) ∧
         (∀ i e, s.coll.entries[i]? = some e → Sparse.get 0 u.coll.thr i = e.tinc) ∧
         ∀ t, t < 1024 →
           let x := s.tile t
           let y := u.tile t
           let ds := if p.imageOff t = 0 then [] else (p.descs t).map descOf
           y.seq = { TileSeq.reset with bundle := p.section 0, cnt := p.decl,
                                        msk := (List.range 8).map fun k => (k, 0xFFFFFFFF) } ∧
           y.ctr = TileCtr.reset ∧ (y.vb, y.sets, y.acc, y.da, y.port) = ([], [], [], [], []) ∧ (y.links, y.atoms, y.setTid, y.idle) = ([], [], [], []) ∧ y.flags = 0 ∧
           (y.bankSp, y.bank0, y.bank1) = (Bank.resetOn, Bank.resetOn, Bank.resetOn) ∧
           (p.imageOff t = 0 → y.istore = [] ∧ y.dstore = []) ∧
           (p.imageOff t ≠ 0 → (∀ k b, (p.bundles t)[k]? = some b → Sparse.get 0 y.istore k = b) ∧
             ∀ k d, (p.descs t)[k]? = some d → Sparse.get 0 y.dstore k = d) ∧
           (bitAt p.flags 4 = false → ∀ a, Bytes.read y.sp a =
             if coveredBy ds a = true ∧ x.bankSp.state ≠ .off then Bytes.read x.sp a else 0) ∧
           (bitAt p.flags 4 = true → ∀ w, w < 2 ^ 18 → coveredBy ds (4 * w) = false → Bytes.readLe y.sp (4 * w) 4 = 0x7FC00000))) ∧
     (o.field 0x10 40 40 = 1 → s.noProgram = true →
       ∃ u, exec (.unload tag) s = .next u ∧ s.OpIs u tag { o with phase := .finished, result := 0 } ∧
         u = { s with
           tiles := Sparse.mapVals Tile.reset (fun _ x => { x with seq := { x.seq with run := .idle } }) s.tiles
           prog := Prog.reset
           hbm := { s.hbm with plan := [] }
           q := { s.q with ops := u.q.ops }
           gbl := { s.gbl with prog := 0, progId := 0 } } ∧
         ∀ t, (u.tile t).seq.run = .idle)) ∧
  (∀ (s : State) (tag : Nat) (o : Op), s.Startable tag opCollLoad o →
     (s.programRuns = true → ∃ u o', exec (.collTableLoad tag) s = .next u ∧ s.OpIs u tag o' ∧ o'.phase = .finished ∧
       o'.statuses = [stInvalid] ∧ u.coll = s.coll) ∧
     (s.programRuns = false →
       let rmap := s.hbmArray (o.word 0x08) 2 4112
       let cs := (List.range (o.field 0x28 8 0)).map (s.readComm rmap (o.word 0x10))
       let comms := cs.map (·.1)
       let es := (List.range (o.field 0x28 21 9)).map (s.readEntry comms (o.word 0x18))
       let entries := es.map (·.1)
       let order := s.hbmArray (o.word 0x20) 4 (o.field 0x28 42 22)
       (∀ c ∈ cs, c.2 = []) → (∀ e ∈ es, e.2 = []) → sharedFlags entries = [] → (∀ w ∈ order, field w 11 0 < entries.length) →
       o.word 0x10 + 16 * comms.length ≤ hbmTop →
       ∃ u, exec (.collTableLoad tag) s = .next u ∧ s.OpIs u tag { o with phase := .finished, result := Config.freeValue s.free } ∧
         u = { s with
           free := s.free + 1
           q := { s.q with ops := u.q.ops }
           hbm := { s.hbm with mem := u.hbm.mem }
           coll := { s.coll with rankMap := u.coll.rankMap, comms := comms, entries := entries, order := order.map (BitVec.ofNat 32),
                                 pos := 0, due := [], refused := false, runs := [], thr := u.coll.thr } } ∧
         (∀ i e, entries[i]? = some e → Sparse.get 0 u.coll.thr i = e.tinc) ∧
         (∀ r p, rmap[r]? = some p → Sparse.get 0xFFFF u.coll.rankMap r = p) ∧
         (∀ i c, comms[i]? = some c → Bytes.readLe u.hbm.mem (o.word 0x10 + 16 * i + 4) 4 = c.tree) ∧
         ∀ b, (∀ i, i < comms.length → b < o.word 0x10 + 16 * i + 4 ∨ o.word 0x10 + 16 * i + 8 ≤ b) →
           Bytes.read u.hbm.mem b = Bytes.read s.hbm.mem b)) ∧
  (∀ (s : State) (tag : Nat) (o : Op), s.op tag = some o → o.phase = .fetched → o.statuses = [] → s.mayStart tag o = true →
     s.restricted = true →
     ∃ u r, s.OpIs u tag { o with phase := .finished, statuses := [stRestricted], result := r } ∧
       u = { s with free := u.free, q := { s.q with ops := u.q.ops } } ∧
       (o.opcode = opLoad → o.field 0x10 40 40 = 0 → exec (.loadProgram tag) s = .next u) ∧
       (o.opcode = opLaunch → exec (.launchAt tag) s = .next u) ∧
       (∀ names, o.opcode = opRunSteps → exec (.runSteps tag names) s = .next u) ∧
       ∀ s0, o.opcode = opReplay → exec (.replay tag s0) s = .next u)

/-- LAUNCH_AT of a loaded program: READY goes to the coordinator as a control flit (11 R298). In a domain of this part alone the coordinator is
ready at once: GO is the count asked for, or the first aligned count TB_LEAD ahead when none is asked; a count nearer than
TB_LEAD is cancelled with TIMEOUT. An UNLOCKED part launches nothing. RUN_STEPS with a plan that passes every check begins the
intake of its first step (08 R231, R232). -/
def Obligations.LaunchAndRunStepsBegin : Prop :=
  ∀ (s : State) (tag : Nat) (o : Op), s.launchable = true →
    (s.Startable tag opLaunch o → s.tb.state ≠ .unlocked →
      let c := o.word 0x08
      (s.coordinates = false → ∃ u, exec (.launchAt tag) s = .next u ∧ s.OpIs u tag { o with phase := .started } ∧
        u = { s with
          q := { s.q with ops := u.q.ops }
          ag := { s.ag with launch := some { tag := tag, c := c, go := none } }
          lnk := (s.sendTo s.launchCoordinator (controlFlit s.launchCoordinator [0, s.partNo, s.gbl.clk])).lnk
          out := s.out ++ [.ready s.partNo s.gbl.clk] }) ∧
      (s.coordinates = true → s.launchParts = [s.partNo] → s.ag.ready = [] → (c = 0 ∨ s.tb.count + s.tb.lead ≤ c) →
        ∃ u, exec (.launchAt tag) s = .next u ∧ s.OpIs u tag { o with phase := .started } ∧
        let g := if c = 0 then ceilDiv (s.tb.count + s.tb.lead) 5 * 5 else c
        u = { s with
          q := { s.q with ops := u.q.ops }
          ag := { s.ag with launch := some { tag := tag, c := c, go := some g }, ready := [] }
          out := s.out ++ [.ready s.partNo s.gbl.clk, .go g] }) ∧
      (s.coordinates = true → s.launchParts = [s.partNo] → s.ag.ready = [] → c ≠ 0 → c < s.tb.count + s.tb.lead →
        ∃ u o', exec (.launchAt tag) s = .next u ∧ s.OpIs u tag o' ∧ o'.phase = .finished ∧ o'.statuses = [stTimeout] ∧
          u.ag.launch = none)) ∧
    (s.Startable tag opLaunch o → s.tb.state = .unlocked →
      ∃ u o', exec (.launchAt tag) s = .next u ∧ s.OpIs u tag o' ∧ o'.phase = .finished ∧ o'.statuses = [stTimeout] ∧ u.ag = s.ag) ∧
    (∀ names, s.Startable tag opRunSteps o → s.prog.plan ≠ 0 → s.stepCheck names = none →
      ∃ u, exec (.runSteps tag names) s = .next u ∧ s.OpIs u tag { o with phase := .started } ∧
        u = { s with
          q := { s.q with ops := u.q.ops }
          seqr := { StepSeq.reset with
            tag := some tag
            s0 := s.gbl.step
            n := o.field 0x08 31 0
            phase := 1
            intakeFrom := some s.tb.count
            intakeWait := s.seqr.intakeWait
            spillHbm := s.seqr.spillHbm
            spillHost := s.seqr.spillHost
            overrun := s.seqr.overrun
            optRec := (s.region 0).1
            names := names
            owner := s.seqr.owner } })

/-- DMA_H2D, DMA_D2H and STATE_READ move their bytes when no page of them is denied, and RESULT holds the bytes moved, or the
step counter of a STATE_READ (12 R332, R335, R349); a tile-linear address is refused while a program runs (12 R342). A denied
page stops a DMA_H2D at its first byte: what came before is moved, and a page request goes out (12 R342, R343).

SNAPSHOT takes its image at a snapshot point, at once or when SNAPSHOT_TAKE finds one. A running pre-emptible program other than
RUN_STEPS comes to one when each of its tiles is held at a safe point from an announced count on, and a pause announced then has come;
afterwards the tiles go on at an announced count (R350; that hold is log entry 45's choice). The image: the 64-byte header, the section
entries, the sections in ascending class, written to its destination; RESULT is the image's length. An image longer than DEST_LEN
delivers its header alone and completes with CAPACITY, RESULT being the bytes missing (12 R350). What a section's bytes are is
open (log entry 43). -/
def Obligations.HostTransfersAndSnapshots : Prop :=
  (∀ (s : State) (tag : Nat) (o : Op),
     let b := ringPort o.ring
     let host := o.word 0x08
     let dev := o.word 0x10
     let n := o.field 0x18 39 0
     (s.Startable tag opH2d o → isTileLinear dev = true → s.programRuns = true → ∃ u o', exec (.dmaH2d tag) s = .next u ∧
       s.OpIs u tag o' ∧ o'.phase = .finished ∧ o'.statuses = [stInvalid] ∧ u.tiles = s.tiles ∧ u.hbm = s.hbm) ∧
     (s.Startable tag opH2d o → isTileLinear dev = false → (s.hp b).Reaches host n → ∃ u, exec (.dmaH2d tag) s = .next u ∧
       s.OpIs u tag { o with phase := .finished, moved := n, result := BitVec.ofNat 64 n } ∧ s.HostTakes u b host [] ∧
       u = { s with
         q := { s.q with ops := u.q.ops }
         hpA := u.hpA
         hpB := u.hpB
         hbm := { s.hbm with mem := Bytes.writeN s.hbm.mem dev (Bytes.readN (s.hp b).mem host n) } }) ∧
     (s.Startable tag opH2d o → isTileLinear dev = false → ∀ k, k < n → (s.hp b).Reaches host k → (s.hp b).denies (host + k) = true →
       ∃ u, exec (.dmaH2d tag) s = .next u ∧
       s.OpIs u tag { o with phase := .started, moved := k, faultAt := some (host + k) } ∧
       u.out = s.out ++ [.pageRequest b ((host + k) / 4096)] ∧
       u.hbm.mem = Bytes.writeN s.hbm.mem dev (Bytes.readN (s.hp b).mem host k)) ∧
     (s.Startable tag opD2h o → (isTileLinear dev = false ∨ s.programRuns = false) →
       let prov := o.field 0x20 0 0 == 1
       let data := s.linRead dev n
       let record := s.provRecord (o.field 0x20 31 16) (ld64 (wordsOf data))
       let all := if prov then n + 64 else n
       (s.hp b).Reaches host all → ∃ u, exec (.dmaD2h tag) s = .next u ∧
         s.OpIs u tag { o with phase := .finished, moved := all, result := BitVec.ofNat 64 all } ∧
         s.HostTakes u b host ((data ++ record).take all) ∧ u.tiles = s.tiles ∧
         (prov = false → u = { s with
           q := { s.q with ops := u.q.ops }
           hpA := u.hpA
           hpB := u.hpB }) ∧
         (prov = true → u.dg.prov.head = s.dg.prov.head + 1)) ∧
     (s.Startable tag opStateRead o →
       let off := o.field 0x10 31 0
       let m := o.field 0x18 32 0
       s.debugBad (s.view b) off m = false → (s.hp b).Reaches host m → ∃ u, exec (.stateRead tag) s = .next u ∧
         s.OpIs u tag { o with phase := .finished, moved := m, result := s.gbl.step } ∧
         s.HostTakes u b host (s.debugRead (s.view b) off m) ∧
         u = { s with
           q := { s.q with ops := u.q.ops }
           hpA := u.hpA
           hpB := u.hpB
           free := s.free + 0x8000 })) ∧
  (∀ (s : State) (tag : Nat) (o : Op), s.programRuns = true → s.stepsRun = false → s.preemptible = true →
     (s.Startable tag opSnapshot o → s.ag.snapAt = none → ∃ u, exec (.snapshot tag) s = .next u ∧
       s.OpIs u tag { o with phase := .started } ∧
       u = { s with
         q := { s.q with ops := u.q.ops }
         ag := { s.ag with snapAt := some (ceilDiv (s.tb.count + s.tb.lead) 5 * 5) } }) ∧
     (∀ k, s.op tag = some o → o.opcode = opSnapshot → o.phase = .started → o.todo = true → s.ag.snapAt = some k → s.gbl.paused = false →
       s.ag.pause = none → exec (.snapshotTake tag) s = .next (if s.allAtSafe then s.announcePause else s))) ∧
  (∀ (s r : State) (tag : Nat) (o : Op) (c : Instr), isTileLinear (o.word 0x08) = false → o.field 0x18 8 8 = 0 →
     s.snapshotPoint = true → s.otherSnapshot tag = false →
     ((c = .snapshot tag ∧ s.Startable tag opSnapshot o ∧ r = s.setOp tag (some { o with phase := .started })) ∨
      (c = .snapshotTake tag ∧ s.op tag = some o ∧ o.opcode = opSnapshot ∧ o.phase = .started ∧ o.todo = true ∧ o.statuses = [] ∧
       r = s)) →
     let img := r.snapImage (o.field 0x18 7 0)
     let n := o.word 0x10
     ∃ u v, exec c s = .next v ∧ (s.ag.snapAt = none → v = u) ∧
       (∀ k, s.ag.snapAt = some k → s.gbl.paused = true → s.pauseHolds = false →
         v = { u with ag := { s.ag with snapAt := none } }.announceResume) ∧
       u = { s with
         q := { s.q with ops := u.q.ops }
         hbm := { s.hbm with mem := u.hbm.mem } } ∧
       (img.length ≤ n → u.hbm.mem = Bytes.writeN s.hbm.mem (o.word 0x08) (img.take (hbmTop - o.word 0x08)) ∧
         s.OpIs u tag { o with phase := .finished, todo := false, image := img, result := BitVec.ofNat 64 img.length }) ∧
       (n < img.length → img.length < 2 ^ 64 →
         u.hbm.mem = Bytes.writeN s.hbm.mem (o.word 0x08) ((img.take 64).take (hbmTop - o.word 0x08)) ∧
         s.OpIs u tag { o with phase := .finished, todo := false, image := img.take 64, statuses := [stCapacity],
                               result := BitVec.ofNat 64 (img.length - n) }))

/-! ### Flags, waits, pre-emption and abort (12 R339–R346, R352; 11 R301, R302) -/

/-- SIGNAL sets its flag or adds to it, and RESULT is the new value; collectives the value triggers follow (12 R339). WAIT
completes with the flag's value once the flag has reached its threshold, and until then holds its ring (R340). The detector
makes waits that nothing can end Held, with the flag in RESULT, once the condition has lasted 100 µs (R341). -/
def Obligations.SignalsAndWaitsOfTheHost : Prop :=
  ∀ (s : State) (tag : Nat) (o : Op),
    let r := s.setOp tag (some { o with phase := .started })
    let i := o.field 0x08 7 0
    let free (n : Nat) : State := s.setWork n { s.work n with waiting := false, wcyc := false }
    (s.Startable tag opSignal o →
      let v := if o.field 0x08 8 8 = 1 then s.flag i + BitVec.ofNat 64 (o.word 0x10) else BitVec.ofNat 64 (o.word 0x10)
      exec (.signalDescriptor tag) s = .next ((r.landFlag i v).finish tag [] v) ∧
      (s.programRuns = false → s.coll.runs = [] → ∃ u, exec (.signalDescriptor tag) s = .next u ∧
        s.OpIs u tag { o with phase := .finished, result := v } ∧
        ((∀ x ∈ s.coll.entries, x.tflag ≠ i) → u.coll.due = s.coll.due) ∧
        u = { s with
          q := { s.q with ops := u.q.ops, flag := Sparse.set 0 s.q.flag i v, flagLog := s.flagHistory i }
          coll := { s.coll with due := u.coll.due } })) ∧
    (s.Startable tag opWait o → o.word 0x10 ≤ (s.flag i).toNat → ∃ u, exec (.waitDescriptor tag) s = .next u ∧
      s.OpIs u tag { o with phase := .finished, result := s.flag i } ∧
      u = { free o.ring with q := { (free o.ring).q with ops := u.q.ops } }) ∧
    (s.Startable tag opWait o → (s.flag i).toNat < o.word 0x10 →
      exec (.waitDescriptor tag) s = .next (r.setWork o.ring { s.work o.ring with waiting := true })) ∧
    (s.op tag = some o → o.opcode = opWait → (o.phase = .started ∨ o.phase = .held stWaitCycle) → o.word 0x10 ≤ (s.flag i).toNat →
      ∃ u, exec (.waitDescriptorDone tag) s = .next u ∧ s.OpIs u tag { o with phase := .finished, result := s.flag i } ∧
      u = { free o.ring with q := { (free o.ring).q with ops := u.q.ops } }) ∧
    (s.waitCycle = false → exec .waitCycleCheck s = .next { s with q := { s.q with cycleSince := none } }) ∧
    (s.waitCycle = true → s.q.cycleSince = none →
      exec .waitCycleCheck s = .next { s with q := { s.q with cycleSince := some s.tb.count } }) ∧
    (∀ t, s.waitCycle = true → s.q.cycleSince = some t → t + 100000 ≤ s.tb.count →
      (s.opList.filter fun x => x.2.waits) = [(tag, o)] → o.phase = .started → s.op tag = some o →
      ∃ u, exec .waitCycleCheck s = .next u ∧
        s.OpIs u tag { o with phase := .holding stWaitCycle (BitVec.ofNat 64 i) } ∧
        u.work o.ring = { s.work o.ring with wcyc := true } ∧ u.flt.head = s.flt.head + 1 ∧
        (o.ring < 128 → let a := s.flt.base.toNat + 64 * (s.flt.head % s.flt.size)
          Bytes.readLe u.hbm.mem (a + 16) 1 = 0x06 ∧ Bytes.readLe u.hbm.mem (a + 32) 8 = o.ring ∧
          Bytes.readLe u.hbm.mem (a + 40) 8 = 0x100 + i))

/-- PREEMPT needs class 0; with no program running, or one pre-empted already, it completes at once with RESULT 0; a pre-emptible
program is stopped at its next safe points from a count announced TB_LEAD ahead; one that is not is waited for, and then RESULT is 0
(12 R344). When the save is complete the program's operation is Held with PREEMPTED
and PREEMPT completes (R345, R346); once the urgent work is over the program is restored as it was saved, its collective position,
thresholds and round with it (11 R302), and resumes at an announced count; its schedule time stood meanwhile (07 R203). The save
writes the save area and no other byte of HBM; what it writes there is open (log entry 92), and so is the RESULT of either record
(log entry 44).

ABORT ends the operation it names with ABORTED, at the byte or flag value it has reached; aborting the running program
announces a stop of the domain; a tag without an operation is left (12 R352, 08 R236). ABORT with ALL does so to every operation
of a ring. The ABORT itself completes with OK; its RESULT is open (log entry 44). -/
def Obligations.PreemptionsAndAborts : Prop :=
  (∀ (s : State) (tag : Nat) (o : Op),
     let count := ceilDiv (s.tb.count + s.tb.lead) 5 * 5
     (s.Startable tag opPreempt o → o.cls ≠ 0 → ∃ u o', exec (.preempt tag) s = .next u ∧ s.OpIs u tag o' ∧
       o'.phase = .finished ∧ o'.statuses = [stInvalid] ∧ u = { s with free := s.free + 1, q := { s.q with ops := u.q.ops } }) ∧
     (s.Startable tag opPreempt o → o.cls = 0 → (s.programRuns = false ∨ s.saved.isSome = true) → ∃ u, exec (.preempt tag) s = .next u ∧
       s.OpIs u tag { o with phase := .finished, result := 0 } ∧
       u = { s with
         q := { s.q with ops := u.q.ops }
         ag := { s.ag with preRings := if s.saved.isSome && !s.ag.preRings.contains o.ring then s.ag.preRings ++ [o.ring]
                             else s.ag.preRings } }) ∧
     (s.Startable tag opPreempt o → o.cls = 0 → s.programRuns = true → s.saved = none → s.preempting = false → s.preemptible = false →
       ∃ u, exec (.preempt tag) s = .next u ∧ s.OpIs u tag { o with phase := .started } ∧ u = { s with q := { s.q with ops := u.q.ops } }) ∧
     (s.op tag = some o → o.opcode = opPreempt → o.phase = .started → s.preempting = false → s.programRuns = false →
       ∃ u, exec (.preempt tag) s = .next u ∧ s.OpIs u tag { o with phase := .finished, result := 0 } ∧
       u = { s with q := { s.q with ops := u.q.ops } }) ∧
     (s.Startable tag opPreempt o → o.cls = 0 → s.programRuns = true → s.preemptible = true → s.saved = none → s.ag.stop = none →
       s.ag.preRings = [] → ∃ u, exec (.preempt tag) s = .next u ∧ s.OpIs u tag { o with phase := .started } ∧
       u = { s with
         q := { s.q with ops := u.q.ops }
         ag := { s.ag with preTag := some tag, preRings := [o.ring],
                           stop := some { c := count, coord := s.partNo, status := stPreempted, pre := true } }
         lnk := (s.announce (.stop count stPreempted true) [5, count, stPreempted.toNat, 1]).lnk
         out := s.out ++ [.stop count stPreempted true] }) ∧
     (∀ g og, s.prog.tag = some g → s.op g = some og → s.preempting = true → s.ag.drain = true → s.tilesQuiet = true →
       s.someStopped = true → s.accessesDone = true → s.enginesIdle = true → s.recov.active = false → s.preemptOps = [tag] → s.op tag = some o → tag ≠ g →
       ∃ u, exec .preemptSaveComplete s = .next u ∧ u.op g = some { og with phase := .holding stPreempted (Config.freeValue (s.free + 1)) } ∧
       u.op tag = some { o with phase := .finished, result := Config.freeValue s.free } ∧
       u = { s with
         free := s.free + 2
         q := { s.q with ops := u.q.ops }
         hbm := u.hbm
         saved := some {
           tiles := s.tiles, ix := s.ix, prog := s.prog, colls := s.coll.runs, buf := s.coll.buf, pos := s.coll.pos, thr := s.coll.thr,
           due := s.coll.due, round := s.coll.round, plan := s.hbm.plan, since := s.tb.count, recov := s.recov
           seqr := if s.seqr.phase = 2 then { s.seqr with phase := 1, intakeFrom := some s.tb.count } else s.seqr }
         ag := { s.ag with stop := none, drain := false, preTag := none, savedTag := some g,
                           launch := if s.seqr.tag = some g then none else s.ag.launch }
         prog := { s.prog with tag := none }
         seqr := { s.seqr with tag := none, phase := 0 } } ∧
       u.hbm = { s.hbm with mem := u.hbm.mem } ∧
       ∀ b, (b < 510 * 2 ^ 30 ∨ 510 * 2 ^ 30 + 1537277952 ≤ b) → Bytes.read u.hbm.mem b = Bytes.read s.hbm.mem b) ∧
     (∀ v, s.saved = some v → s.ag.savedTag = some tag → s.op tag = some o → o.phase = .held stPreempted → s.urgentOver = true →
       s.prog.tag = none → s.recov.active = false → s.ag.resume = none → ∃ u, exec .preemptResume s = .next u ∧
       s.OpIs u tag { o with phase := .started } ∧
       u = { s with
         q := { s.q with ops := u.q.ops }
         saved := none
         tiles := Sparse.mapVals Tile.reset
           (fun _ x => if x.seq.run = .stopped then { x with seq := { x.seq with run := .running } } else x) v.tiles
         ix := v.ix
         prog := { v.prog with tag := some tag, paused := v.prog.paused + (s.tb.count - v.since) }
         coll := { s.coll with runs := v.colls, buf := v.buf, pos := v.pos, thr := v.thr, due := v.due, round := v.round }
         seqr := v.seqr
         recov := v.recov
         hbm := { s.hbm with plan := v.plan }
         gbl := { s.gbl with prog := 2, paused := true, progId := BitVec.ofNat 64 (Bytes.readLe v.prog.header 0 8) }
         ag := { s.ag with savedTag := none, preRings := [], pause := some (s.tb.count, s.partNo), resume := some count }
         lnk := (s.announce (.resume count) [4, count]).lnk
         out := s.out ++ [.resume count] })) ∧
  (∀ (s : State) (tag : Nat) (o : Op), s.Startable tag opAbort o →
     (o.field 0x08 12 12 = 0 →
       let g := o.field 0x08 11 0
       (s.op g = none → ∃ u, exec (.abort tag) s = .next u ∧
         s.OpIs u tag { o with phase := .finished, result := Config.freeValue s.free } ∧
         u = { s with free := s.free + 1, q := { s.q with ops := u.q.ops } }) ∧
       (∀ p, s.op g = some p → g ≠ tag → p.ovf = false → s.ag.savedTag ≠ some g → s.prog.tag ≠ some g →
         (∀ l, s.ag.launch = some l → l.tag ≠ g) → s.seqr.tag ≠ some g → p.opcode ≠ opWait → p.opcode ≠ opRunSteps →
         p.faulted = false → s.ag.snapAt = none → ∃ u p' r, exec (.abort tag) s = .next u ∧
         u.op tag = some { o with phase := .finished, result := r } ∧ u.op g = some p' ∧ p'.phase = .finished ∧
         stAborted ∈ p'.statuses ∧ (p.opcode = opH2d ∨ p.opcode = opD2h → p'.result = BitVec.ofNat 64 p.moved) ∧
         u = { s with free := u.free, q := { s.q with ops := u.q.ops } }) ∧
       (∀ p, s.op g = some p → g ≠ tag → p.ovf = false → s.ag.savedTag ≠ some g → s.prog.tag ≠ some g →
         (∀ l, s.ag.launch = some l → l.tag ≠ g) → s.seqr.tag ≠ some g → p.opcode = opWait → ∃ u p', exec (.abort tag) s = .next u ∧
         u.op g = some p' ∧ p'.phase = .finished ∧ stAborted ∈ p'.statuses ∧ p'.result = s.flag (p.field 0x08 7 0) ∧
         u.work p.ring = { s.work p.ring with waiting := false, wcyc := false }) ∧
       (∀ p, s.op g = some p → g ≠ tag → p.ovf = false → s.ag.savedTag ≠ some g → s.prog.tag = some g → s.inSweep g = false →
         s.ag.stop = none → ∃ u p', exec (.abort tag) s = .next u ∧ u.op g = some p' ∧ stAborted ∈ p'.statuses ∧
         p'.phase = p.phase ∧ u.op tag = some { o with phase := .finished, result := Config.freeValue s.free } ∧
         (let c := ceilDiv (s.tb.count + s.tb.lead) 5 * 5
          u = { s with
            free := s.free + 1
            q := { s.q with ops := u.q.ops }
            ag := { s.ag with stop := some { c := c, coord := s.partNo, status := stAborted, pre := false } }
            seqr := (if s.seqr.tag = some g then s.addStepStatus stAborted else s).seqr
            lnk := (s.announce (.stop c stAborted false) [5, c, stAborted.toNat, 0]).lnk
            out := s.out ++ [.stop c stAborted false] }))) ∧
     (o.field 0x08 12 12 = 1 → ∃ u r, exec (.abortAll tag) s = .next u ∧ u.op tag = some { o with phase := .finished, result := r } ∧
       ∀ g p, g ≠ tag → s.op g = some p →
         (p.ring = o.field 0x08 19 13 → p.ovf = false → ∃ p', u.op g = some p' ∧ stAborted ∈ p'.statuses) ∧
         (p.ring ≠ o.field 0x08 19 13 → (∀ x ∈ s.opList, x.1 = g → x.2 = p) → u.op g = some p)))

/-- REPLAY of a step whose checkpoint, frames, compute copies and batch agree with the digest log sets the step counter and the
run seed and begins the launch of that one step, the program being the one that the frames and the provenance records of the step name;
with no program or a step before the checkpoint it is refused (05 R162, R165, R166; 12 R333). How its inputs lie in HBM is the model's reading (log entry 58). -/
def Obligations.ReplayReachesItsLaunch : Prop :=
  ∀ (s : State) (tag : Nat) (o : Op) (s0 : BitVec 64), s.Startable tag opReplay o →
    let step := o.word 0x18
    let r := s.setOp tag (some { o with phase := .started })
    ((s.launchable = false ∨ s.prog.plan = 0 ∨ step < s0.toNat) → ∃ u o', exec (.replay tag s0) s = .next u ∧ s.OpIs u tag o' ∧
      o'.phase = .finished ∧ o'.statuses = [stInvalid] ∧ u.hbm = s.hbm ∧ u.gbl = s.gbl ∧ u.dg = s.dg) ∧
    (∀ s1 progs last, s.launchable = true → s.prog.plan ≠ 0 → s0.toNat ≤ step →
      (r.loadCheckpoint (o.word 0x08)).applyFrames (step - s0.toNat) s0.toNat (o.word 0x10) [] = .good s1 progs last →
      (∀ p ∈ progs ++ s.provDigests step, p = s.prog.dig) →
      let s2 := (s1.urecs (s1.region 0).1).foldl State.deriveCopy s1
      s2.weightsAgree s.digestLog step = true →
      s2.batchAgrees (o.word 0x38) (s.digestLog.filter fun e => e.kind == 3 && e.step == step) = true →
      s.tb.state ≠ .unlocked → s.coordinates = false →
      ∃ u, exec (.replay tag s0) s = .next u ∧ s.OpIs u tag { o with phase := .started } ∧
        u = { s with
          q := { s.q with ops := u.q.ops }
          hbm := { s.hbm with mem := (s2.placeBatch (o.word 0x38) step).hbm.mem }
          gbl := { s.gbl with step := BitVec.ofNat 64 step }
          dg := { s.dg with seed := BitVec.ofNat 128 (o.word 0x20 + o.word 0x28 * 2 ^ 64) }
          seqr := { StepSeq.reset with
            tag := some tag
            s0 := BitVec.ofNat 64 step
            n := 1
            phase := 2
            intakeWait := s.seqr.intakeWait
            spillHbm := s.seqr.spillHbm
            spillHost := s.seqr.spillHost
            overrun := s.seqr.overrun
            optRec := ((s2.placeBatch (o.word 0x38) step).region 0).1
            names := s.seqr.names
            logHead := s.dg.log.head
            params := s1.frameParams step last
            owner := s.seqr.owner }
          ag := { s.ag with launch := some { tag := tag, c := 0, go := none } }
          lnk := (s.sendTo s.launchCoordinator (controlFlit s.launchCoordinator [0, s.partNo, s.gbl.clk])).lnk
          out := s.out ++ [.ready s.partNo s.gbl.clk] })

/-! ### Rings, doorbells and completion records (12 R326–R343; 14 R477; 00 R11) -/

/-- A doorbell of an enabled ring that is not held is read after the host's stores: a count between Q_HEAD and Q_HEAD + N is the
new producer count; any other sets DBERR with a record (12 R328, R329). A SNOOP ring's line is then Shared.

The lowest class with a ready ring and a free tag is served, in it the next ready ring: its descriptor takes the tag,
Q_HEAD rises, and an invalid descriptor ends with PROGRAM_INVALID; a denied page of a descriptor or a doorbell asks the host for the
page (12 R329–R333, R337, R338, R342). -/
def Obligations.DoorbellsAndDescriptorsAreRead : Prop :=
  (∀ (s : State) (n : Nat) (stores : Bytes) (c : Instr),
     let w := s.work n
     let b := ringPort n
     let mem := stores.foldl (fun m x => Bytes.write m x.1 x.2) (s.hp b).mem
     let v := Bytes.readLe mem w.db.toNat 8
     let snooped := w.snoop && !w.noSnoop
     n < 128 → w.enabled = true → w.dbErr = false → w.xfault = false → w.faultAt = none →
     c = (if snooped then .doorbellSnoop n stores else .doorbellPoll n stores) →
     ((s.hp b).denies w.db.toNat = true → ∃ u, exec c s = .next u ∧
       u.work n = { w with faultAt := some w.db.toNat, snoopLine := snooped || w.snoopLine } ∧
       u.out = s.out ++ [.pageRequest b (w.db.toNat / 4096)] ∧ u.flt = s.flt) ∧
     ((s.hp b).denies w.db.toNat = false → w.head ≤ v → v ≤ w.head + w.entries → ∃ u, exec c s = .next u ∧
       u.hp b = { s.hp b with mem := mem, tcache := (u.hp b).tcache } ∧ u.hp (!b) = s.hp (!b) ∧
       u.work n = { w with prod := v, snoopLine := snooped || w.snoopLine } ∧ (∀ k, k ≠ n → u.work k = s.work k) ∧
       u = { s with q := { s.q with work := u.q.work }, hpA := u.hpA, hpB := u.hpB }) ∧
     ((s.hp b).denies w.db.toNat = false → (v < w.head ∨ w.head + w.entries < v) → ∃ u, exec c s = .next u ∧
       u.work n = { w with dbErr := true, snoopLine := snooped || w.snoopLine } ∧ u.flt.head = s.flt.head + 1)) ∧
  (∀ (s : State) (c n tag : Nat), s.fetchClass = some c → s.fetchRing c = some n → s.tagFor c = some tag →
     let w := s.work n
     let b := ringPort n
     let a := w.base.toNat + 64 * (w.head % w.entries)
     let bs := Bytes.readN (s.hp b).mem a 64
     let o : Op := { ring := n, cls := c, opcode := leNat (bs.take 1), dpos := w.head, desc := BitVec.ofNat 512 (leNat bs),
                     phase := .fetched, statuses := [], result := 0, moved := 0, torn := false, heldBefore := false,
                     order := s.q.fetchNo, faultAt := none, lost := false, todo := leNat (bs.take 1) == opSnapshot, image := [],
                     stalled := false, owed := [], recHeld := false }
     ((s.hp b).denies a = false → ∃ u r, exec .descriptorFetch s = .next u ∧
       s.OpIs u tag (if o.valid then o else { o with phase := .finished, statuses := [stInvalid], result := r }) ∧
       (o.opcode = opLoad ∨ o.opcode = opH2d ∨ o.opcode = opD2h → r = 0) ∧ (o.valid = true → u.free = s.free) ∧
       u.work n = { w with head := w.head + 1 } ∧ (∀ k, k ≠ n → u.work k = s.work k) ∧ s.HostTakes u b 0 [] ∧
       u = { s with
         free := u.free
         hpA := u.hpA
         hpB := u.hpB
         q := { s.q with ops := u.q.ops, work := u.q.work, fetchNo := s.q.fetchNo + 1, rr := Sparse.set 0 s.q.rr c (n + 1) } }) ∧
     ((s.hp b).denies a = true → exec .descriptorFetch s =
       .next { s.setWork n { w with faultAt := some a } with out := s.out ++ [.pageRequest b (a / 4096)] }))

/-- An operation that has finished writes its 32-byte record when its completion ring has room, frees its tag, and raises the
ring's MSI-X vector where asked; a full ring counts the wait once and keeps the tag (12 R334–R336, 00 R11). The record of the running
program's operation returns PROG to 1, or 3 beside a pre-empted one (16 R431). A Held record that could not be written before its
operation went on or ended is written first (00 R12; 12 R336). A record whose page the host denies asks for the page and waits (12
R342). -/
def Obligations.CompletionRecordsAreWritten : Prop :=
  ∀ (s : State) (tag : Nat) (o : Op), s.op tag = some o → tag < 4096 → o.ring < 128 → o.lost = false →
    let b := ringPort o.ring
    let n := (s.work o.ring).cring
    let c := s.comp n
    let a := c.base.toNat + 32 * (c.chead % c.entries)
    let free := o.recHeld = false ∧ o.faultAt = none ∧ (s.hp b).denies a = false
    (o.phase = .finished → c.entries ≤ c.chead - c.ctail → s.prog.tag ≠ some tag → o.stalled = true →
      exec (.completionRecordWrite tag) s = .next s) ∧
    (o.phase = .finished → c.chead - c.ctail < c.entries → s.prog.tag ≠ some tag → (o.recHeld = true ∨ o.faultAt.isSome = true) →
      exec (.completionRecordWrite tag) s = .next s) ∧
    (o.phase = .finished → c.chead - c.ctail < c.entries → s.prog.tag ≠ some tag → o.recHeld = false → o.faultAt = none →
      (s.hp b).denies a = true → ∃ u, exec (.completionRecordWrite tag) s = .next u ∧ s.OpIs u tag { o with faultAt := some a } ∧
        u = { s with
          q := { s.q with ops := u.q.ops }
          out := s.out ++ [.pageRequest b (a / 4096)] }) ∧
    (∀ e l, o.owed = e :: l → c.chead - c.ctail < c.entries → s.prog.tag ≠ some tag → free →
      ∃ u, exec (.completionRecordWrite tag) s = .next u ∧ s.OpIs u tag { o with owed := l, heldBefore := true, stalled := false } ∧
        u.comp n = { c with chead := c.chead + 1 } ∧
        Bytes.readLe (u.hp b).mem a 2 = (stCode e.1).toNat + b2n (decide (c.chead / c.entries % 2 = 0)) * 2 ^ 8 + 2 ^ 9
          + b2n o.torn * 2 ^ 10 ∧ Bytes.readLe (u.hp b).mem (a + 16) 8 = e.2.toNat) ∧
    (o.phase = .finished → c.entries ≤ c.chead - c.ctail → s.prog.tag ≠ some tag → o.stalled = false →
      ∃ u, exec (.completionRecordWrite tag) s = .next u ∧ s.OpIs u tag { o with stalled := true } ∧
        u.comp n = { c with cstall := Nat.min (c.cstall + 1) (2 ^ 32 - 1) } ∧ (∀ k, k ≠ n → u.comp k = s.comp k) ∧
        u = { s with q := { s.q with ops := u.q.ops, comp := u.q.comp } }) ∧
    (o.phase = .finished → o.owed = [] → free → c.chead - c.ctail < c.entries → s.prog.tag ≠ some tag → s.seqr.tag ≠ some tag →
      (∀ x ∈ o.statuses, x = stChoose o.statuses) →
      ∃ u, exec (.completionRecordWrite tag) s = .next u ∧ u.op tag = none ∧ (∀ g, g ≠ tag → u.op g = s.op g) ∧
      u.comp n = { c with chead := c.chead + 1 } ∧
      (let h := u.hp b
       h = { s.hp b with mem := h.mem, tcache := h.tcache } ∧ u.hp (!b) = s.hp (!b) ∧
       Bytes.readLe h.mem a 8 = (stCode (stChoose o.statuses)).toNat + b2n (decide (c.chead / c.entries % 2 = 0)) * 2 ^ 8
         + b2n o.torn * 2 ^ 10 + tag * 2 ^ 16 + o.ring * 2 ^ 28 ∧
       Bytes.readLe h.mem (a + 8) 4 = o.user ∧ Bytes.readLe h.mem (a + 12) 4 = o.dpos % 2 ^ 32 ∧
       Bytes.readLe h.mem (a + 16) 8 = o.result.toNat ∧ Bytes.readLe h.mem (a + 24) 8 = s.tb.count % 2 ^ 64 ∧
       ∀ x, x < a ∨ a + 32 ≤ x → Bytes.read h.mem x = Bytes.read (s.hp b).mem x) ∧
      u = { s with
        hpA := u.hpA
        hpB := u.hpB
        q := { s.q with ops := u.q.ops, comp := u.q.comp }
        out := if o.irq && c.cfg.getLsbD 0 then s.out ++ [.msix b (field c.cfg.toNat 14 8)] else s.out }) ∧
    (o.phase = .started → o.owed = [] → free → o.opcode = opLaunch → s.prog.tag = some tag → s.programDone = true →
      c.chead - c.ctail < c.entries →
      ∃ u, exec (.completionRecordWrite tag) s = .next u ∧ u.op tag = none ∧ u.prog.tag = none ∧
        u.gbl = { s.gbl with prog := if s.saved.isSome then 3 else 1 } ∧
        Bytes.readLe (u.hp b).mem (a + 16) 8 = o.result.toNat ∧ u.tiles = s.tiles) ∧
    (∀ st r, o.phase = .holding st r → o.owed = [] → free → c.chead - c.ctail < c.entries →
      ∃ u, exec (.completionRecordWrite tag) s = .next u ∧ s.OpIs u tag { o with phase := .held st, heldBefore := true, stalled := false } ∧
        Bytes.readLe (u.hp b).mem a 2 = (stCode st).toNat + b2n (decide (c.chead / c.entries % 2 = 0)) * 2 ^ 8 + 2 ^ 9
          + b2n o.torn * 2 ^ 10 ∧ Bytes.readLe (u.hp b).mem (a + 16) 8 = r.toNat ∧
        u.gbl = if st = stPreempted then { s.gbl with prog := 3 } else s.gbl)

/-- The answer to a page request lets the operation, or the ring that waits with its descriptor, go on; or it makes the operation Held
at the faulting byte, its record waiting if that met the fault (log entry 124), with XFAULT on its ring and a record (12 R342, R343).
Q_FAULT_RESP retries the accesses of every operation that faults hold on the ring, or ends them with ABORTED, the running program's by a
stop of the domain; without a fault it is ignored and logged.
An ATS invalidation drops the page from the port's translation cache (R342). -/
def Obligations.TranslationFaultsAreAnswered : Prop :=
  ∀ (s : State) (tag : Nat) (o : Op) (page : Nat),
    let b := ringPort o.ring
    let h := s.hp b
    let n := o.ring
    let w := s.work n
    let asking := s.opList.filter fun x => x.2.faultAt.map (· / 4096) == some page && (s.opPorts x.1 x.2).contains b
    let there (u : State) : Prop :=
      (u.hp b).denied = h.denied.filter (· != page) ∧ page ∈ (u.hp b).tcache ∧ (u.hp b).mem = h.mem ∧ u.hp (!b) = s.hp (!b) ∧
        u = { s with
          hpA := u.hpA
          hpB := u.hpB
          q := { s.q with ops := u.q.ops, work := u.q.work } }
    (asking = [(tag, o)] → s.op tag = some o → s.askedRings b page = [] →
      (∃ u, exec (.pageRequestResponse b page 0) s = .next u ∧ s.OpIs u tag { o with faultAt := none } ∧ there u ∧ u.q.work = s.q.work) ∧
      (∀ code, code ≠ 0 → ∃ u, exec (.pageRequestResponse b page code) s = .next u ∧
        s.OpIs u tag (if o.writes then { o with faultAt := none, recHeld := true }
          else { o with faultAt := none, phase := .holding stTranslation (BitVec.ofNat 64 o.moved) }) ∧
        u.work n = { w with xfault := true } ∧ u.flt.head = s.flt.head + 2)) ∧
    (asking = [] → ∀ k a, k < 128 → s.askedRings b page = [(k, a)] →
      (∃ u, exec (.pageRequestResponse b page 0) s = .next u ∧ u.work k = { s.work k with faultAt := none } ∧
        (∀ j, j ≠ k → u.work j = s.work j) ∧ there u ∧ u.q.ops = s.q.ops) ∧
      (∀ code, code ≠ 0 → ∃ u, exec (.pageRequestResponse b page code) s = .next u ∧
        u.work k = { s.work k with faultAt := none, xfault := true } ∧ u.flt.head = s.flt.head + 2 ∧ u.q.ops = s.q.ops)) ∧
    (∀ deny, exec (.atsInvalidation b page deny) s = .next (s.setHp b { h with
      tcache := h.tcache.filter (· != page)
      denied := if deny then h.denied.filter (· != page) ++ [page] else h.denied.filter (· != page) })) ∧
    (s.ready = true → n < 128 → w.xfault = false → ∀ c ∈ ([.faultRespRetry n, .faultRespAbort n] : List Instr),
      exec c s = .next (s.logIgnored (0x20028 + 0x80 * n))) ∧
    (s.ready = true → n < 128 → w.xfault = true → ((s.faultedOps n).map (·.1)).Nodup → (∀ x ∈ s.faultedOps n, s.op x.1 = some x.2) →
      ∃ u, exec (.faultRespRetry n) s = .next u ∧ (∀ x ∈ s.faultedOps n, u.op x.1 = some x.2.retry) ∧
        (∀ g, g ∉ (s.faultedOps n).map (·.1) → u.op g = s.op g) ∧
        u.work n = { w with xfault := false } ∧ u = { s with q := { s.q with ops := u.q.ops, work := u.q.work } }) ∧
    (o.recHeld = true → o.retry = { o with recHeld := false }) ∧
    (∀ st, o.recHeld = false → o.phase = .held st → o.retry = { o with phase := .started }) ∧
    (∀ st r, o.recHeld = false → o.phase = .holding st r → o.retry = { o with owed := o.owed ++ [(st, r)], phase := .started }) ∧
    (s.ready = true → n < 128 → w.xfault = true → s.faultedOps n = [(tag, o)] → s.op tag = some o →
      ∃ u o', exec (.faultRespAbort n) s = .next u ∧ s.OpIs u tag o' ∧ stAborted ∈ o'.statuses ∧ o'.recHeld = false ∧
        u.work n = { w with xfault := false } ∧
        (o.ovf = true → o'.phase = o.phase ∧ o'.result = o.result ∧
          u = { s with q := { s.q with ops := u.q.ops, work := u.q.work } }) ∧
        (o.ovf = false → s.prog.tag ≠ some tag → o'.phase = .finished ∧
          (o.opcode = opH2d ∨ o.opcode = opD2h → o'.result = BitVec.ofNat 64 o.moved) ∧
          u = { s with free := u.free, q := { s.q with ops := u.q.ops, work := u.q.work } }) ∧
        (o.ovf = false → s.prog.tag = some tag → s.ag.stop = none → o'.phase = .started ∧
          let c := ceilDiv (s.tb.count + s.tb.lead) 5 * 5
          u.ag.stop = some { c := c, coord := s.partNo, status := stAborted, pre := false } ∧
          u.out = s.out ++ [.stop c stAborted false]))

/-! ### Registers (12 R326–R329, R336, R339, R347, R348; 16 R425–R444) -/

/-- Enabling a ring whose fields are in range starts it with its counts at 0; a field out of range leaves ENABLE 0 and sets
CFGERR; an enabled ring keeps its fields (12 R327). Disabling stops fetch. Q_CTAIL takes a count up to Q_CHEAD and ignores and
logs one above it (R336). Q_FLAG and Q_FLAG_ADD set or add to a flag (R339), and what it triggers follows: the entry whose TFLAG it is
waits for one attempt for every threshold that the flag has reached (11 R310; the order of attempts and their bound are log entry 21's
choice).

HP_OWN takes a non-zero owner only when it is free, and zero always (12 R347). TB_LEAD is kept in 1,000–100,000 and
TB_COLL_TMO at least 160,000 (11 R321); TB_CTRL changes only while no program runs, and a part that becomes root is LOCKED with
its count kept, but a disciplined root from boot stays UNLOCKED until its first PPS edge (R293–R295). FLT_ACK takes from PENDING, down to 0 (14 R380). SS_CTRL is fixed while RUN_STEPS runs, and enabling
the host ring zeroes its indices; SS_TAIL takes a count up to SS_HEAD (12 R348, 16 R441). -/
def Obligations.RegistersTakeTheirValues : Prop :=
  (∀ (s : State) (n : Nat) (cfg v : W64), s.ready = true →
     let w := s.work n
     let c := s.comp n
     let kept := cfg &&& 0x0000FFFC0F030001#64
     (n < 128 → cfg.getLsbD 0 = true → w.enabled = false →
       (s.ringOk n kept = true → exec (.ringEnable n cfg) s = .next
         ((s.setWork n { w with
           cfg := kept
           head := 0
           prod := 0
           cfgErr := false
           dbErr := false
           noSnoop := cfg.getLsbD 34 && !(s.hp (ringPort n)).cxl
           snoopLine := false
           faultAt := none }).setComp n { c with chead := 0, ctail := 0 })) ∧
       (s.ringOk n kept = false → exec (.ringEnable n cfg) s = .next
         (s.setWork n { w with cfg := kept &&& ~~~1#64, cfgErr := true }))) ∧
     (n < 128 → cfg.getLsbD 0 = true → w.enabled = true → w.cfg ≠ kept →
       exec (.ringEnable n cfg) s = .next (s.setWork n { w with cfgErr := true })) ∧
     (n < 128 → cfg.getLsbD 0 = false → ∃ u, exec (.ringDisable n cfg) s = .next u ∧ (u.work n).enabled = false ∧
       u = { s with q := { s.q with work := u.q.work } } ∧ (∀ k, k ≠ n → u.work k = s.work k) ∧
       (w.enabled = false → u.work n = { w with cfg := kept }) ∧
       (w.enabled = true → u.work n = { w with
         cfg := w.cfg &&& ~~~1#64
         snoopLine := false
         cfgErr := w.cfgErr || w.cfg &&& ~~~1#64 != kept })) ∧
     (n < 128 → v.toNat ≤ c.chead → exec (.qCtailWrite n v) s = .next (s.setComp n { c with ctail := v.toNat })) ∧
     (n < 128 → c.chead < v.toNat → ∃ u, exec (.qCtailWrite n v) s = .next u ∧ u.q = s.q ∧ u.flt.head = s.flt.head + 1) ∧
     (n < 256 → exec (.qFlagWrite n v) s = .next (s.landFlag n v) ∧ exec (.qFlagAdd n v) s = .next (s.landFlag n (s.flag n + v)) ∧
       (s.programRuns = false → s.coll.runs = [] → ∀ x, ∃ d, s.landFlag n x = { s with
           q := { s.q with flag := Sparse.set 0 s.q.flag n x, flagLog := s.flagHistory n }
           coll := { s.coll with due := s.coll.due ++ d } } ∧
         ((∀ y ∈ s.coll.entries, y.tflag ≠ n) → d = []) ∧
         ∀ e y, s.coll.entries[e]? = some y → y.tflag = n → (∀ j z, j < e → s.coll.entries[j]? = some z → z.tflag ≠ n) →
           d = List.replicate (reachedTimes s.dueLimit (Sparse.get 0 s.coll.thr e) y.tinc (s.coll.due.filter (· == e)).length x.toNat) e))) ∧
  (∀ room thr tinc pend v, 0 < tinc →
     reachedTimes room thr tinc pend v = ((List.range room).filter fun k => decide (thr + tinc * (pend + k) ≤ v)).length) ∧
  (∀ (s : State) (i : Nat) (v : W64), s.ready = true →
     (i < 16 → exec (.hpOwnWrite i v) s = .next
       (if v = 0 ∨ Sparse.get 0 s.hpOwn i = 0 then { s with hpOwn := Sparse.set 0 s.hpOwn i v } else s)) ∧
     exec (.tbLeadWrite v) s = .next { s with tb := { s.tb with
       lead := if v.toNat < 1000 then 1000 else if 100000 < v.toNat then 100000 else v.toNat } } ∧
     exec (.tbCollTmoWrite v) s = .next { s with tb := { s.tb with tmo := if v.toNat < 160000 then 160000 else v.toNat } } ∧
     (s.noProgram = false → exec (.tbCtrlWrite v) s = .next (s.logIgnored 0x040008)) ∧
     (s.noProgram = true → ∃ u, exec (.tbCtrlWrite v) s = .next u ∧ u.tb.ctrl = v &&& 0x61FFF#64 ∧ u.tb.count = s.tb.count ∧
       u = { s with tb := u.tb } ∧
       (u.isRoot = true → u.tb.depth = 0 ∧
         u.tb.state = if s.tb.bootRoot && u.tbDisc && s.isRoot && decide (s.tb.state = .unlocked) then .unlocked else .locked) ∧ (u.isRoot = false → u.tb.state = s.tb.state)) ∧
     (∃ u, exec (.fltAck v) s = .next u ∧ u = { s with flt := { s.flt with pend := s.flt.pend - v.toNat, worst := u.flt.worst } } ∧
       (s.flt.pend ≤ v.toNat → u.flt.worst = 0) ∧ (v.toNat < s.flt.pend → u.flt.worst = s.flt.worst)) ∧
     (s.seqr.tag ≠ none → exec (.ssCtrlWrite v) s = .next (s.logIgnored 0x081000)) ∧
     (s.seqr.tag = none → field v.toNat 5 4 < 2 → ∃ u, exec (.ssCtrlWrite v) s = .next u ∧
       u = { s with ss := { s.ss with ctrl := v &&& 0x3F#64, head := u.ss.head, tail := u.ss.tail } } ∧
       (v.getLsbD 0 = true ∧ s.ss.ctrl.getLsbD 0 = false → u.ss.head = 0 ∧ u.ss.tail = 0) ∧
       (v.getLsbD 0 = false ∨ s.ss.ctrl.getLsbD 0 = true → u.ss.head = s.ss.head ∧ u.ss.tail = s.ss.tail)) ∧
     (s.ss.head < v.toNat → exec (.ssTailWrite v) s = .next (s.logIgnored 0x081040)) ∧
     (v.toNat ≤ s.ss.head → s.ss.hostOut = [] → exec (.ssTailWrite v) s = .next { s with ss := { s.ss with tail := v.toNat } }) ∧
     (v.toNat ≤ s.ss.head → ∃ u, exec (.ssTailWrite v) s = .next u ∧ u.ss.tail = v.toNat ∧ s.ss.head ≤ u.ss.head))

/-- A raw write of the window reaches the register it names: a command's register acts as that command, GBL_STEP takes its value
while no program runs and is otherwise ignored with a record, a 4-byte write changes its half, and a write of another size or
alignment is ignored with a record (16 R425–R444). Through the aperture HBM is read and written from HP_APER_BASE × 1 GiB
(12 R325). Mailbox commands read and write the settings, or hold them outside phase IDLE, and clear BUSY (16 R443, 15 R415). -/
def Obligations.WindowApertureAndMailbox : Prop :=
  ∀ (s : State) (port : Bool), s.ready = true → s.portEnabled port = true →
    (∀ v, s.noProgram = true → exec (.registerWrite port 0x00020 8 v) s = .next { s with gbl := { s.gbl with step := v } }) ∧
    (∀ v, s.noProgram = true → exec (.registerWrite port 0x00024 4 v) s = .next { s with gbl := { s.gbl with
      step := BitVec.ofNat 64 (s.gbl.step.toNat % 2 ^ 32 + v.toNat % 2 ^ 32 * 2 ^ 32) } }) ∧
    (∀ v, s.noProgram = false → exec (.registerWrite port 0x00020 8 v) s = .next (s.logIgnored 0x00020)) ∧
    (∀ off size v, off < 2 ^ 26 → ((size ≠ 4 ∧ size ≠ 8) ∨ off % size ≠ 0) →
      exec (.registerWrite port off size v) s = .next (s.logIgnored off)) ∧
    (∀ i v, i < 256 → exec (.registerWrite port (0x24000 + 8 * i) 8 v) s = exec (.qFlagWrite i v) s ∧
      exec (.registerWrite port (0x24800 + 8 * i) 8 v) s = exec (.qFlagAdd i v) s) ∧
    (∀ v, exec (.registerWrite port 0x40008 8 v) s = exec (.tbCtrlWrite v) s ∧
      exec (.registerWrite port 0x90028 8 v) s = exec (.fltAck v) s ∧
      exec (.registerWrite port 0x81000 8 v) s = exec (.ssCtrlWrite v) s) ∧
    (∀ off data, off + data.length ≤ 2 ^ 34 → let a := (s.hp port).aper.toNat * 2 ^ 30 + off
      exec (.apertureWrite port off data) s = .next { s with hbm := { s.hbm with
        mem := Bytes.writeN s.hbm.mem a (data.take (2 ^ 39 - a)) } }) ∧
    (∀ off len, off + len ≤ 2 ^ 34 → exec (.apertureRead port off len) s = .next
      (s.emit (.aperture port (s.hbmRead ((s.hp port).aper.toNat * 2 ^ 30 + off) len)))) ∧
    (s.pwr.phase = .up → s.mbx.cmd.getLsbD 31 = false → s.mbx.data.toNat + s.mbx.len.toNat ≤ 2 ^ 39 → s.mbx.len.toNat ≤ 262144 →
      let done (u : State) (op code n : Nat) : State := { u with mbx := { u.mbx with
        cmd := BitVec.ofNat 64 op
        result := BitVec.ofNat 64 (code + n * 2 ^ 32) } }
      let put (bs : List Byte) (op : Nat) : State :=
        if s.mbx.len.toNat < bs.length then done s op 3 0 else done (s.hbmWrite s.mbx.data.toNat bs) op 0 bs.length
      exec .settingsRead s = .next (put ((s.lan.inForce.entries ++ [(6, s.repairBytes)]).flatMap entryBytes) 1) ∧
      exec .repairListRead s = .next (put (entryBytes (6, s.repairBytes)) 3) ∧
      (∀ es, parseEntries s.mbx.len.toNat (s.hbmRead s.mbx.data.toNat s.mbx.len.toNat) = some es →
        (es.all entryOk = false → exec .settingsWrite s = .next (done s 2 2 0)) ∧
        (es.all entryOk = true → (∀ e ∈ es, e.1 ∈ [3, 5, 7]) → s.lan.settingsBusy = false →
          (s.lan.phase = .idle → exec .settingsWrite s = .next (done { s with lan := s.lan.writeArea es } 2 0 0)) ∧
          (s.lan.phase ≠ .idle → exec .settingsWrite s = .next
            (done { s with lan := { s.lan with held := mergeEntries s.lan.held es } } 2 1 0)))))

/-! ### The counter and its synchronisation (11 R288–R295) -/

/-- While SYSCLK runs each tick adds one to TB_COUNT, unless it is held for a root that lies behind; progress clocks of
collectives that nothing suspends and the tag-stall counter count with it (11 R288, R293, R317; 12 R338).

A child stamps a flit toward its parent; a parent that is LOCKED or in HOLDOVER answers; the reply gives the offset of R290,
the one step to the root's count of the first exchange, steering of at most 2 counts, and LOCKED after 16 exchanges within one
count (11 R290–R293). A parent whose port has a retry episode or a remap in progress does not answer (R290). The reply also gives the
one-way delay (R290), and the depth is the hops of the route from the root (R292). Without exchanges a part goes to HOLDOVER (R294). The root from boot aligns to its first PPS edge and
steers afterwards; losses of PPS and TIME_10M set their flags (R295). -/
def Obligations.TimeTicksTransfersAndDiscipline : Prop :=
  (∀ (s : State), (s.pwr.sysclk = false → exec .countTick s = .next s) ∧
     (s.pwr.sysclk = true → exec .countTick s = .next { s with
       coll := { s.coll with runs := s.coll.runs.map fun r => if s.clockRuns r then { r with clock := r.clock + 1 } else r }
       q := { s.q with tagStall := if s.tagWaits then (s.q.tagStall + 1) % 2 ^ 64 else s.q.tagStall }
       tb := match s.tb.holdTo with
         | some (n + 1) => { s.tb with holdTo := if n = 0 then none else some n }
         | some 0 => { s.tb with count := s.tb.count + 1, holdTo := none }
         | none => { s.tb with count := s.tb.count + 1, holdTo := none } })) ∧
  (∀ (s : State) (port : Nat) (t1 t2 t3 t4 : Int) (rc : Nat),
     let flit (w : Nat) := controlFlit (s.port port).peerPart.toNat [w]
     (s.parentPort = some port → (s.port port).state.works = true → exec (.timeTransferExchange t1) s = .next
       ({ s.setPort port ((s.port port).queue (flit 7)) with
         tb := { s.tb with xch := some (port, t1) }
         out := s.out ++ [.timeReq port t1] })) ∧
     (port < 32 → (s.port port).state.works = true → (s.tb.state = .locked ∨ s.tb.state = .holdover) → (s.port port).busy = false →
       exec (.timeTransferRequest port t2 t3) s = .next
         { s.setPort port ((s.port port).queue (flit 8)) with out := s.out ++ [.timeRep port t2 t3] }) ∧
     ((s.port port).busy = true → exec (.timeTransferRequest port t2 t3) s = .next s) ∧
     (s.tb.state ≠ .locked → s.tb.state ≠ .holdover → exec (.timeTransferRequest port t2 t3) s = .next s) ∧
     (s.tb.xch = some (port, t1) → (s.port port).disturbed t1 = true →
       exec (.timeTransferReply port t2 t3 t4 rc) s = .next { s with tb := { s.tb with xch := none } }) ∧
     (s.tb.xch = some (port, t1) → (s.port port).disturbed t1 = false →
       let off := ((t2 - t1) - (t4 - t3)) / 2 + (Sparse.get 0 s.tb.asym port).toInt
       ∃ u, exec (.timeTransferReply port t2 t3 t4 rc) s = .next u ∧ u = { s with tb := u.tb } ∧ u.tb.offset = off ∧
         u.tb.delay = ((t2 - t1) + (t4 - t3)) / 2 ∧ u.tb.depth = (s.routeOf s.tbRoot s.partNo).length ∧
         u.tb.lastXch = s.tb.count ∧ u.tb.xch = none ∧
         (s.tb.state = .unlocked → u.tb.state = .locking ∧
           (s.tb.count ≤ rc → u.tb.count = rc ∧ u.tb.holdTo = s.tb.holdTo) ∧
           (rc < s.tb.count → u.tb.count = s.tb.count ∧ u.tb.holdTo = some (s.tb.count - rc))) ∧
         (s.tb.state ≠ .unlocked → u.tb.count = s.tb.count ∧ -512 ≤ u.tb.slew ∧ u.tb.slew ≤ 512 ∧
           (-512 ≤ off → off ≤ 512 → u.tb.slew = off) ∧
           (-256 ≤ off → off ≤ 256 → u.tb.good = s.tb.good + 1 ∧ (16 ≤ u.tb.good → u.tb.state = .locked)) ∧
           (off < -256 ∨ 256 < off → u.tb.good = 0 ∧ u.tb.state = s.tb.state))) ∧
     (s.isRoot = false → (s.tb.state = .locking ∨ s.tb.state = .locked) →
       exec .holdoverEntry s = .next { s with tb := { s.tb with state := .holdover, good := 0 } }) ∧
     (s.disciplined = true → s.tb.bootRoot = true → s.tb.aligned = false → s.tb.state = .unlocked → ∃ u, exec .timePpsEdge s = .next u ∧
       u = { s with tb := u.tb } ∧ u.tb.state = .locked ∧ u.tb.aligned = true ∧ u.tb.ppsLost = false ∧
       u.tb.count % 10 ^ 9 = 0 ∧ s.tb.count ≤ u.tb.count ∧ u.tb.count < s.tb.count + 10 ^ 9) ∧
     (s.disciplined = true → s.tb.aligned = true → ∃ u, exec .timePpsEdge s = .next u ∧ u = { s with tb := u.tb } ∧
       u.tb.count = s.tb.count ∧ u.tb.state = s.tb.state ∧ u.tb.ppsLost = false ∧ -512 ≤ u.tb.slew ∧ u.tb.slew ≤ 512) ∧
     (s.disciplined = true → exec .ppsLost s = .next { s with tb := { s.tb with ppsLost := true } } ∧
       exec .time10mEdge s = .next { s with tb := { s.tb with refRate := true, refLost := false } }) ∧
     (s.isRoot = true → exec .refLost s = .next { s with tb := { s.tb with refLost := true, refRate := false } }))

/-! ### Agreed counts (11 R297–R302, 05 R144) -/

/-- A coordinator that has READY from every part announces GO at the earliest count when none was asked for, and cancels a domain
whose clocks differ with PROGRAM_INVALID; past C − TB_LEAD it cancels with TIMEOUT. The other parts take GO and CANCEL from it
(11 R298, 05 R144).

At the agreed count the program starts (11 R298): PROG is 2, TB_COLL_ROUND rises, TB_COLL_POS is 0, RESULT of LAUNCH_AT is the
count, and every tile that runs code stands at the entry of section 0 in program cycle 0 with no loop (04 R109); DG_SEED is the run
seed (05 R163); ports retrained while a program ran carry traffic again (10 R277). -/
def Obligations.LaunchesAreAgreedAndStart : Prop :=
  (∀ (s : State) (part clk c : Nat) (l : Launch) (o : Op), s.ag.launch = some l → s.op l.tag = some o →
     let ready := (s.ag.ready.filter fun r => r.1 != part) ++ [(part, clk)]
     let all := s.launchParts.all fun p => ready.any fun r => r.1 == p
     let count := ceilDiv (s.tb.count + s.tb.lead) 5 * 5
     (s.coordinates = true → l.go = none →
       (all = false → exec (.readyMessage part clk) s = .next { s with ag := { s.ag with ready := ready } }) ∧
       (all = true → l.c = 0 → (∀ r ∈ ready, r.2 = clk) → exec (.readyMessage part clk) s = .next { s with
         ag := { s.ag with launch := some { l with go := some count }, ready := [] }
         lnk := (s.announce (.go count) [1, count]).lnk
         out := s.out ++ [.go count] }) ∧
       (all = true → (∃ r ∈ ready, r.2 ≠ clk) → ∃ u o', exec (.readyMessage part clk) s = .next u ∧ u.ag.launch = none ∧
         u.op l.tag = some o' ∧ o'.phase = .finished ∧ stInvalid ∈ o'.statuses ∧ u.out = s.out ++ [.cancel (clocksFound ready)]) ∧
       (l.c ≠ 0 → l.c < s.tb.count + s.tb.lead → ∃ u o', exec .launchDeadline s = .next u ∧ u.ag.launch = none ∧
         u.op l.tag = some o' ∧ o'.phase = .finished ∧ stTimeout ∈ o'.statuses ∧ u.out = s.out ++ [.cancel []])) ∧
     (l.go = none → s.tb.count ≤ c → exec (.goAnnouncement c s.launchCoordinator) s = .next { s with
       ag := { s.ag with launch := some { l with go := some c } } }) ∧
     (∀ coord, coord ≠ s.launchCoordinator → exec (.goAnnouncement c coord) s = .next s ∧
       ∀ k, exec (.cancelAnnouncement coord k) s = .next s) ∧
     (∃ u o', exec (.cancelAnnouncement s.launchCoordinator []) s = .next u ∧ u.ag = { s.ag with launch := none, ready := [] } ∧
       u.op l.tag = some o' ∧ o'.phase = .finished ∧ stTimeout ∈ o'.statuses)) ∧
  (∀ (s : State) (l : Launch) (c : Nat) (o : Op), s.ag.launch = some l → l.go = some c → c ≤ s.tb.count → s.gbl.paused = false →
     s.ag.stop = none → s.seqr.tag ≠ some l.tag → s.op l.tag = some o → s.RouterAtRest → s.sectionEntry 0 ≠ 0xFFFF →
     ∃ u, exec .goCountReached s = .next u ∧ s.OpIs u l.tag { o with result := BitVec.ofNat 64 c } ∧
       u.gbl = { s.gbl with prog := 2 } ∧ u.coll = { s.coll with round := s.coll.round + 1, pos := 0, refused := false, runs := [] } ∧
       u.ag = { s.ag with launch := none, ready := [], stop := none, drain := false } ∧
       u.prog = { s.prog with tag := some l.tag, launch := c, seed := s.dg.seed, paused := 0, s0 := s.gbl.step, f0 := s.flag (s.stepctl % 2 ^ 8),
                              stopped := false } ∧
       u.tb = { s.tb with
         holdLaunches := if s.tb.state = .holdover then Nat.min (s.tb.holdLaunches + 1) (2 ^ 32 - 1) else s.tb.holdLaunches } ∧
       (∀ t, t < 1024 → s.hasImage t = true → u.tile t = { s.tile t with
         seq := { (s.tile t).seq with
           run := .running
           sect := 0
           bundle := s.sectionEntry 0
           loops := []
           skip := 0
           wait := none
           need := none
           ldc := none
           cycle := 0
           shift := 0
           lag := 0
           origin := 0
           land := 0 }
         links := Sparse.mapVals [] (fun _ l => l.map fun e => { e with sent := 0, arr := 0 }) (s.tile t).links
         port := []
         stopAt := none }) ∧
       (∀ t, s.hasImage t = false → u.tile t = s.tile t) ∧ u.hbm.mem = s.hbm.mem ∧
       (∀ k, k < 32 → (u.port k).parked = false ∧ ((s.port k).parked = false → u.port k = s.port k)) ∧
       (∃ r, r.idx = 0 ∧ r.step = s.gbl.step ∧ r.pos = 0 ∧ r.sched = s.tb.count ∧ r.seqr = s.seqr ∧ r.segs = s.ss.segs ∧
         u.recov = { s.recov with
           current := some r
           previous := none
           log := []
           logFull := false
           upTo := []
           undo := []
           carried := []
           want := [] }))

/-- Of two pauses the earlier count holds, then the lower coordinator; of two resumes the later count. An announcement that comes after
its count enters the late-input counters of the tiles that run code (11 R297). At P issue stops; at Q it
goes on, the paused cycles enter the pause counters of the tiles that had not ended, whose issue comes later by them, and schedule time
goes on from where it stood, on a part that has recovered from its replay point's (11 R299; 05 R150; 07 R192; 14 R384). A tile that a
SNAPSHOT held at a safe point has been paused since it came there (log entry 45).

A stop announcement is kept; at its count every tile that has not ended stops, a pause is given up, and a part that did not
find the cause records the part that did (11 R300); atomics on their way to a tile act then (03 R96). A pre-emption stop leaves the tiles to their safe points (R301). Once the
tiles are quiet the routers are drained: the stop is over, or the save may begin (R302). -/
def Obligations.PausesResumesAndStopsAreAgreed : Prop :=
  (∀ (s : State) (p q coord : Nat),
     (s.tb.count ≤ p → s.ag.pause = none → exec (.pauseAnnouncement p coord) s = .next { s with
       ag := { s.ag with pause := some (p, coord) } }) ∧
     (∀ a, s.tb.count ≤ p → s.ag.pause = some a → exec (.pauseAnnouncement p coord) s = .next { s with
       ag := { s.ag with pause := some (if p < a.1 ∨ (p = a.1 ∧ coord ≤ a.2) then (p, coord) else a) } }) ∧
     (∀ a, s.ag.pause = some a → a.1 ≤ s.tb.count → s.gbl.paused = false → s.ag.stop = none →
       (s.recov.stage ≠ .announced → exec .pauseCountReached s = .next { s with gbl := { s.gbl with paused := true } }) ∧
       (s.recov.stage = .announced → ∃ u, exec .pauseCountReached s = .next u ∧ u.gbl.paused = true ∧
         u.recov = { s.recov with stage := .paused, active := true, upTo := u.recov.upTo } ∧
         u = { s with gbl := { s.gbl with paused := true }, recov := u.recov })) ∧
     (s.tb.count ≤ q → s.ag.resume = none → exec (.resumeAnnouncement q) s = .next { s with ag := { s.ag with resume := some q } }) ∧
     (p < s.tb.count → ∀ c ∈ ([.pauseAnnouncement p coord, .resumeAnnouncement p] : List Instr), ∃ u, exec c s = .next u ∧
       u = { s with ag := u.ag, tiles := u.tiles } ∧ (∀ t, s.hasImage t = false → u.tile t = s.tile t) ∧
       ∀ t, t < 1024 → s.hasImage t = true →
         let n := (s.tb.count - p) * s.cyc5 / 5
         u.tile t = { s.tile t with
           seq := { (s.tile t).seq with lag := (s.tile t).seq.lag + n }
           ctr := { (s.tile t).ctr with late := Nat.min ((s.tile t).ctr.late + n) (2 ^ 32 - 1) } }) ∧
     (∀ r, s.tb.count ≤ q → s.ag.resume = some r → exec (.resumeAnnouncement q) s = .next { s with ag := { s.ag with
       resume := some (if r ≤ q then q else r) } }) ∧
     (∀ a, s.ag.resume = some q → s.ag.pause = some a → q ≤ s.tb.count → s.gbl.paused = true → s.pauseHolds = false →
       s.RouterAtRest → exec .resumeCountReached s = .next { s with
         gbl := { s.gbl with paused := false }
         ag := { s.ag with pause := none, resume := none }
         tiles := Sparse.mapVals Tile.reset
           (fun _ x =>
             let held (y : Tile) (from_ : Nat) : Tile := { y with
               seq := { y.seq with
                 shift := y.seq.shift + (q - from_) * s.cyc5 / 5
                 wait := y.seq.wait.map fun w => (w.1, w.2.1, w.2.2 + (q - from_)) }
               ctr := { y.ctr with pause := Nat.min (y.ctr.pause + (q - from_) * s.cyc5 / 5) (2 ^ 32 - 1) } }
             match x.seq.run with
             | .atSafe since => if s.ag.snapAt.isNone then held { x with seq := { x.seq with run := .running } } since else x
             | _ => if x.seq.run.live then held x a.1 else x) s.tiles
         prog := { s.prog with paused := q - (match s.recov.stage, s.recov.current with
           | .restored, some r => r.sched
           | _, _ => Nat.min s.tb.count a.1 - s.prog.paused) }
         recov := { s.recov with stage := if s.recov.stage = .restored then .none else s.recov.stage } })) ∧
  (∀ (s : State) (n : Stop), s.programRuns = true → s.prog.stopped = false →
     (s.ag.stop = none → s.tb.count ≤ n.c → n.status ≠ stDigest → n.status ≠ stEcc →
       exec (.stopAnnouncement n.c n.coord n.status n.pre) s = .next { s with ag := { s.ag with stop := some n } }) ∧
     (s.ag.stop = some n → n.c ≤ s.tb.count → n.pre = true → exec .stopCountReached s = .next { s with
       gbl := { s.gbl with paused := false }
       ag := { s.ag with pause := none, resume := none, snapAt := none }
       tiles := Sparse.mapVals Tile.reset (fun _ x => s.releaseTile s.tb.count x) s.tiles }) ∧
     (s.ag.stop = some n → n.c ≤ s.tb.count → n.pre = false →
       let halt (_ : Nat) (x : Tile) : Tile :=
         if x.seq.run.live then { x with seq := { x.seq with run := .stopped }, stopAt := none } else x
       let y : State := { s with tiles := Sparse.mapVals Tile.reset halt s.tiles }
       let x : State := { y.landAll with
         gbl := { y.landAll.gbl with paused := false }
         ag := { y.landAll.ag with pause := none, resume := none }
         prog := { y.landAll.prog with stopped := true }
         recov := { y.landAll.recov with active := false, stage := .none, cause := none } }
       (n.coord = s.partNo → exec .stopCountReached s = .next x) ∧
       (∀ g o, n.coord ≠ s.partNo → s.prog.tag = some g → s.op g = some o → s.seqr.tag ≠ some g →
         ∃ u o', exec .stopCountReached s = .next u ∧ u.tiles = x.tiles ∧ u.prog = x.prog ∧ u.flt.head = x.flt.head + 1 ∧
           u.op g = some o' ∧ n.status ∈ o'.statuses ∧
           (n.coord < 2 ^ 13 → let a := x.flt.base.toNat + 64 * (x.flt.head % x.flt.size)
            Bytes.readLe u.hbm.mem (a + 18) 1 = 0x0C ∧ Bytes.readLe u.hbm.mem (a + 32) 8 = n.coord ∧
            Bytes.readLe u.hbm.mem (a + 40) 8 = n.c % 2 ^ 64))) ∧
     (s.ag.stop = some n → s.tilesQuiet = true → n.c ≤ s.tb.count → n.pre = true →
       exec .routerDrainComplete s = .next { s with ag := { s.ag with drain := true } }) ∧
     (∀ r : State, r = { s with prog := { s.prog with stopped := true } } → s.ag.stop = some n → s.tilesQuiet = true → n.c ≤ s.tb.count →
       n.pre = false → exec .routerDrainComplete r = .next { r with ag := { s.ag with stop := none, drain := false } }))

/-! ### Legs of collectives (11 R311, R315–R317) -/

/-- A leg that is not expected is discarded and counted, every leg that is still to come among them once ORDER_FAULT has refused an
attempt (R319); one whose CRC does not match is asked for again of its sender, the third time after the recovery that it starts
(log entry 127); a good one is confirmed,
its data stand in its slot of the buffer, and the collective goes on (11 R311, R315, R316). A confirmed leg leaves its sender, one
asked for again is sent as it was, and a collective whose clock reaches TB_COLL_TMO ends with TIMEOUT and a record (R317). -/
def Obligations.LegsAreCheckedAndConfirmed : Prop :=
  ∀ (s : State) (port : Nat) (l : Leg) (e : CollEntry) (c : Comm) (me : Nat),
    let i := l.entry.toNat
    let r := s.runOf i l.epoch
    let here := s.coll.runs.any fun x => x.entry == r.entry && x.epoch == r.epoch
    s.coll.entries[i]? = some e → s.coll.comms[e.comm]? = some c → s.memberIndex c = some me →
    (port < 32 → (s.port port).state.works = true →
      ((s.orderOf i l.epoch = none ∨ (∃ k, s.orderOf i l.epoch = some k ∧
          ((k < s.coll.pos ∧ here = false) ∨ (s.coll.pos ≤ k ∧ s.coll.refused = true)))) →
        exec (.legReceive port l) s = .next { s with tb := { s.tb with discard := Nat.min (s.tb.discard + 1) (2 ^ 32 - 1) } }) ∧
      (∀ k, s.orderOf i l.epoch = some k → ((k < s.coll.pos ∧ here = true) ∨ (s.coll.pos ≤ k ∧ s.coll.refused = false)) →
        (legCrc l ≠ l.crc → let m := legKey l.chunk.toNat l.level.toNat l.member.toNat
          (Sparse.get 0 r.mism m < 2 → exec (.legReceive port l) s = .next
            ((s.setRun { r with mism := Sparse.set 0 r.mism m (Sparse.get 0 r.mism m + 1) }).emit
              (.legAgain l.member.toNat (i, l.chunk.toNat, l.level.toNat, me)))) ∧
          (Sparse.get 0 r.mism m = 2 → r.again = [] → ∃ u, exec (.legReceive port l) s = .next u ∧ u.flt.head = s.flt.head + 1 ∧
            u.runOf i l.epoch = { r with
              mism := Sparse.set 0 r.mism m 3
              again := [(l.chunk.toNat, l.level.toNat, l.member.toNat)] })) ∧
        (legCrc l = l.crc → let g := s.goodLeg r e c.n me l
          let size := e.csz * 4096
          let slot := e.bufOff + l.chunk.toNat % Nat.max 1 e.infl * e.csz * 4096
          exec (.legReceive port l) s = .next g.settleRouter ∧
          g.out = s.out ++ [.legConfirm l.member.toNat (i, l.chunk.toNat, l.level.toNat, me)] ∧
          Bytes.readN g.coll.buf slot (Nat.min size l.data.length) = l.data.take size ∧
          ∀ b, b < slot ∨ slot + Nat.min size l.data.length ≤ b → Bytes.read g.coll.buf b = Bytes.read s.coll.buf b))) ∧
    (∀ (run : CollRun) (member chunk level : Nat) (x : Nat × Leg),
      let mine (y : Nat × Leg) : Bool := y.1 == member && y.2.chunk.toNat == chunk && y.2.level.toNat == level
      (s.coll.runs.find? fun y => y.entry == i && y.kept.any mine) = some run → run.kept.find? mine = some x →
      (e.type ≠ 2 → exec (.legConfirm i chunk level member) s = .next
        (s.setRun { run with kept := run.kept.eraseP mine, clock := 0 }).settleRouter) ∧
      (∀ p, s.memberPart c member = some p → (s.routePort p).isSome = true →
        exec (.legRerequest i chunk level member) s = .next { s with out := s.out ++ [.leg p x.2] })) ∧
    (∀ (run : CollRun) (g : Nat) (o : Op), (s.coll.runs.find? fun y => y.entry == i && s.launched y && decide (s.tb.tmo ≤ y.clock)) = some run →
      s.prog.tag = some g → s.op g = some o → s.seqr.tag ≠ some g → s.ag.stop = none →
      ∃ u o', exec (.collectiveTimeout i) s = .next u ∧ u.op g = some o' ∧ stTimeout ∈ o'.statuses ∧ u.flt.head = s.flt.head + 1 ∧
        u.coll = { s.coll with runs := s.coll.runs.filter fun y => !(y.entry == run.entry && y.epoch == run.epoch) } ∧
        (∀ t, (u.tile t).seq.run.live = false) ∧
        u.ag.stop = some { c := ceilDiv (s.tb.count + s.tb.lead) 5 * 5, coord := s.partNo, status := stTimeout, pre := false })

/-! ### Links (10 R264–R286) -/

/-- A working port sends an owed NAK first, then what a NAK asked for again, then the next flit under its next SEQ, which it keeps
until acknowledged, while fewer than 2,048 are kept, and idle flits otherwise (10 R264–R268). Its 320 bytes, the 272 of the flit in
two interleaved codewords with their parity, go byte by byte to the active lanes in turn (R264; the parity bytes are open, log entry
125). While a lane remap holds the port it still sends its lane-map flit (log entry 126).

A flit that decodes, matches its CRC and is the next in sequence is accepted once and handed on; what it acknowledges leaves
the replay buffer; one for another part is queued on the port of its route (R282); any other sequenced flit starts a retry with a NAK
(10 R266–R270). An idle flit only acknowledges, a NAK has
everything kept sent again. A tunnelled flit is forwarded to the far end of the failed link that it names, where it is taken once and in
the order of that link (R283; how it carries what it was is log entry 22); a notice makes its link known once and is
passed on (R283). -/
def Obligations.PortsSendAndAcceptFlits : Prop :=
  (∀ f : Flit, (wireBytes f).length = 320 ∧ (wireBytes f).take 272 = flitBytes f) ∧
  (∀ (s : State) (n : Nat), n < 32 → (s.port n).state.works = true → ((s.port n).remap = false ∨ (s.port n).mapOut = true) →
     let p := s.port n
     let sent (f : Flit) : Flit :=
       let g := { f with ackSeq := p.lastAck.getD 0, ackV := p.lastAck.isSome }
       { g with crc := flitCrc g }
     let lanes := activeLanes p.txOk
     let send (q : Port) (f : Flit) : State :=
       { s.setPort n { q with
           laneAt := (p.laneAt + 320) % Nat.max 1 lanes.length
           mapOut := p.mapOut && (q.waiting ++ q.resend).any fun f => f.type == tyLaneMap } with
         out := s.out ++ [.flit n (sent f) (laneBytes lanes p.laneAt (wireBytes (sent f)))] }
     let idle (ty : BitVec 4) : Flit := { newFlit ty 0 0 [] with seq := p.txSeq }
     (p.owedNak ≠ none → exec (.flitTransmit n) s = .next (send { p with owedNak := none } (idle tyNak))) ∧
     (∀ f l, p.owedNak = none → p.resend = f :: l → exec (.flitTransmit n) s = .next (send { p with resend := l } f)) ∧
     (∀ f l, p.owedNak = none → p.resend = [] → p.waiting = f :: l → p.replay.length < 2048 →
       exec (.flitTransmit n) s = .next (send
         { p with waiting := l, replay := p.replay ++ [{ f with seq := p.txSeq }], txSeq := p.txSeq + 1 } { f with seq := p.txSeq })) ∧
     (p.owedNak = none → p.resend = [] → (p.waiting = [] ∨ 2048 ≤ p.replay.length) →
       exec (.flitTransmit n) s = .next (send p (idle tyIdle)))) ∧
  (∀ (s : State) (n : Nat) (f : Flit) (part port : Nat), n < 32 → (s.port n).state.works = true →
     let p := s.port n
     let counted := p.countErrors f
     let acked (q : Port) : Port := if f.ackV then q.acknowledge f.ackSeq else q
     let taken : Port := acked { counted with
       rxExp := p.rxExp + 1
       lastAck := some f.seq
       epi := match p.epi with
         | none => none
         | some e => if e.left ≤ 1 then none else some { e with left := e.left - 1 }
       busyTo := match p.epi with
         | none => p.busyTo
         | some e => if e.left ≤ 1 then some s.tb.count else p.busyTo }
     let y := s.setPort n taken
     let route (s : State) (n : Nat) (f : Flit) : State := { s with lnk := { s.lnk with routed := s.lnk.routed ++ [(n, f)] } }
     (flitIntact f = true → f.seq = p.rxExp →
       (∀ c ∈ ([.dataFlit n f, .controlFlit n f] : List Instr), exec c s =
         .next (if n = 31 ∨ f.dest.toNat = s.partNo then route y n f else y.sendTo f.dest.toNat f)) ∧
       (f.dest.toNat ≠ s.partNo → exec (.tunnelledData n f) s = .next (y.sendTo f.dest.toNat f)) ∧
       (f.dest.toNat = s.partNo → f.inner = none → exec (.tunnelledData n f) s = .next y) ∧
       (∀ i, f.dest.toNat = s.partNo → f.inner = some i →
         (y.portToward i.src f.tport = none → exec (.tunnelledData n f) s = .next y) ∧
         (∀ k, y.portToward i.src f.tport = some k →
           (2048 ≤ (f.tseq - (y.port k).rxExp).toNat → exec (.tunnelledData n f) s = .next y) ∧
           ((f.tseq - (y.port k).rxExp).toNat < 2048 → (i.type = tyData ∨ i.type = tyControl) → i.dest.toNat = s.partNo →
             exec (.tunnelledData n f) s = .next (route (y.setPort k { y.port k with rxExp := f.tseq + 1 }) k
               { f with type := i.type, dest := i.dest, seq := f.tseq, tseq := 0, tport := 0, inner := none })))) ∧
       (s.lnk.failed.contains (part, port) = true → exec (.failureNotice n f part port) s = .next y) ∧
       (s.lnk.failed.contains (part, port) = false → s.coll.runs = [] → exec (.failureNotice n f part port) s = .next
         ({ y with lnk := { y.lnk with failed := (part, port) :: s.lnk.failed } }.spreadNotice part port))) ∧
     ((flitIntact f = false ∨ f.seq ≠ p.rxExp) → p.epi = none → (p.epiTimes.filter fun t => decide (s.tb.count < t + 10 ^ 7)).length < 64 →
       ∀ c ∈ ([.dataFlit n f, .controlFlit n f, .tunnelledData n f, .failureNotice n f part port, .laneMap n f port] : List Instr),
         exec c s = .next (s.setPort n { counted with
           epi := some { seq := p.rxExp, retries := 1, start := s.tb.count, left := 64, nak := s.tb.count }
           owedNak := some p.rxExp
           retries := Nat.min (p.retries + 1) (2 ^ 32 - 1)
           episodes := Nat.min (p.episodes + 1) (2 ^ 32 - 1)
           epiTimes := s.tb.count :: p.epiTimes.filter fun t => decide (s.tb.count < t + 10 ^ 7) })) ∧
     (flitIntact f = true → exec (.idleFlit n f) s = .next (s.setPort n (acked counted)) ∧
       exec (.nak n f) s = .next (s.setPort n { acked counted with resend := (acked counted).replay })) ∧
     (flitIntact f = false → ∀ c ∈ ([.idleFlit n f, .nak n f] : List Instr), exec c s = .next (s.setPort n counted)))

/-- The retry timer asks again, and the eighth retry or the budget fails the port (10 R268, R269). A lane that is lost, reported
or too often wrong leaves its direction: a remap holds the port until it completes, a third one fails it (R271, R272). Light that
warns, fails or returns is recorded, and failing light fails the engine's ports (R274, R275). Training leaves a port up,
degraded, dark, miswired or failed (R276, R277); DISABLE fails it and RETRAIN trains it (16 R437). A failure is recorded, announced,
and known from then on (R283, R285). A receiver's lane-map flit goes ahead of what waits (log entry 126). A port retrained while a program runs carries no
scheduled traffic until the next start (R277). -/
def Obligations.PortsFailAndRecover : Prop :=
  ∀ (s : State) (n lane : Nat), n < 32 →
    let p := s.port n
    let fails (c : Instr) (cause : BitVec 3) : Prop := ∃ u, exec c s = .next u ∧ (u.port n).state = .failed ∧ (u.port n).cause = cause ∧
      (s.partNo, n) ∈ u.lnk.failed ∧ u.flt.head = s.flt.head + 1
    (∀ e, p.epi = some e → p.remap = false → p.state.works = true → 64 ≤ e.left →
      (e.retries < 8 → exec (.retryTimerExpiry n) s = .next (s.setPort n { p with
        epi := some { e with seq := p.rxExp, retries := e.retries + 1, left := 64, nak := s.tb.count }
        owedNak := some p.rxExp
        retries := Nat.min (p.retries + 1) (2 ^ 32 - 1) })) ∧
      (8 ≤ e.retries → fails (.retryTimerExpiry n) 1)) ∧
    (p.epi ≠ none → p.remap = false → p.state.works = true → fails (.retryBudgetExpiry n) 1) ∧
    (∀ bad total, total < bad * 100000 → p.state.works = true → lane < 17 → p.rxOk.getLsbD lane = true →
      badLanes (p.rxOk &&& ~~~(1#17 <<< lane)) < 3 →
      ∀ c ∈ ([.laneLossOfLock n lane, .laneErrorWindow n lane bad total] : List Instr), ∃ u, exec c s = .next u ∧
        (u.port n).rxOk = p.rxOk &&& ~~~(1#17 <<< lane) ∧ (u.port n).remap = true ∧
        (u.port n).mapOut = true ∧ (u.port n).waiting = newFlit tyLaneMap 0 0 (leBytes 1 lane) :: p.waiting ∧
        (u.port n).remaps = Nat.min (p.remaps + 1) 255 ∧ (u.port n).txOk = p.txOk ∧ u.flt.head = s.flt.head + 1 ∧
        (badLanes (p.rxOk &&& ~~~(1#17 <<< lane)) = 2 → badLanes p.txOk ≤ 2 → (u.port n).state = .degraded)) ∧
    (∀ bad total, bad * 100000 ≤ total → exec (.laneErrorWindow n lane bad total) s = .next s) ∧
    (∀ f, p.state.works = true → flitIntact f = true → f.seq = p.rxExp → lane < 17 → p.txOk.getLsbD lane = true →
      badLanes (p.txOk &&& ~~~(1#17 <<< lane)) < 3 → ∃ u, exec (.laneMap n f lane) s = .next u ∧
        (u.port n).txOk = p.txOk &&& ~~~(1#17 <<< lane) ∧ (u.port n).remap = true ∧ (u.port n).rxExp = p.rxExp + 1) ∧
    (p.remap = true → p.mapOut = false →
      exec (.laneRemapComplete n) s = .next (s.setPort n { p with remap := false, busyTo := some s.tb.count })) ∧
    ((p.remap = false ∨ p.mapOut = true) → exec (.laneRemapComplete n) s = .next s) ∧
    (∀ e : Fin 4, e.val = n / 8 →
      (∃ u, exec (.lightWarn e) s = .next u ∧ Sparse.get Light.ok u.lnk.light e.val = .warn ∧ u.port n = { p with lightWarn := true } ∧
        u.flt.head = s.flt.head + 1) ∧
      (p.state ≠ .failed → ∃ u, exec (.lightFail e) s = .next u ∧ Sparse.get Light.ok u.lnk.light e.val = .fail ∧
        (u.port n).state = .failed ∧ (u.port n).cause = 3 ∧ (s.partNo, n) ∈ u.lnk.failed) ∧
      (∃ u, exec (.lightRestored e) s = .next u ∧ Sparse.get Light.ok u.lnk.light e.val = .restored ∧
        u.port n = { p with lightWarn := false } ∧ u.flt.head = s.flt.head + 1)) ∧
    (p.state = .training →
      let fresh : Port := { p with
        txSeq := 0
        waiting := []
        replay := []
        resend := []
        rxExp := 0
        lastAck := none
        owedNak := none
        epi := none
        epiTimes := []
        remap := false
        mapOut := false
        retrain := false
        cause := 0
        spare := false
        parked := false
        laneAt := 0 }
      let identity : Out := .identity n s.partNo s.posv
      fails (.linkTrainingComplete n .noLight) 3 ∧
      exec (.linkTrainingComplete n .noLock) s = .next (s.setPort n { fresh with state := .dark, rxOk := 0, txOk := 0 }) ∧
      ∀ rx tx pp pq pv, let q : Port := { fresh with rxOk := ~~~rx, txOk := ~~~tx }
        ((3 ≤ badLanes (~~~rx) ∨ 3 ≤ badLanes (~~~tx)) → fails (.linkTrainingComplete n (.done rx tx pp pq pv)) 4) ∧
        (badLanes (~~~rx) < 3 → badLanes (~~~tx) < 3 → s.miswired n pp pq pv = true →
          exec (.linkTrainingComplete n (.done rx tx pp pq pv)) s =
            .next ((s.emit identity).setPort n { q with peerPart := pp, peerPort := pq, peerV := true, state := .miswired, cause := 5 })) ∧
        (badLanes (~~~rx) < 3 → badLanes (~~~tx) < 3 → s.miswired n pp pq pv = false →
          ∃ u, exec (.linkTrainingComplete n (.done rx tx pp pq pv)) s = .next u ∧ (u.port n).peerPart = pp ∧ (u.port n).peerPort = pq ∧
            (u.port n).state = (if badLanes (~~~rx) = 2 ∨ badLanes (~~~tx) = 2 then .degraded else .up) ∧
            u.out = s.out ++ [identity] ∧ (u.port n).parked = !s.noProgram ∧
            (s.noProgram = true → (s.partNo, n) ∉ u.lnk.failed ∧ (pp.toNat, pq.toNat) ∉ u.lnk.failed) ∧
            (s.noProgram = false → u.lnk.failed = s.lnk.failed))) ∧
    (s.ready = true → p.state ≠ .failed → fails (.lnkDisable n) 6) ∧
    (s.ready = true → p.disable = false → (p.state = .failed ∨ p.state = .dark ∨ p.state = .miswired) →
      exec (.lnkRetrain n) s = .next (s.setPort n { p with state := .training, retrain := true }))

/-! ### HBM slots, deliveries and tests (13 R356–R373, R479) -/

/-- The issued access that a pseudo-channel serves next is served in its own slot, or in a later one no other access holds: a
write reaches HBM and its line is good again, a read is on its way with what HBM holds; a corrected error is counted, a failed
transfer tried again, an uncorrectable line poisoned and its delivery marked; an access served late leaves a late-arrival record
(13 R356–R363, R479; 05 R151). Before the cycle from which it is eligible it is not served, and a line that an index engine reads goes
to no scratchpad (13 R357). A plane-packed saved tensor's group goes to and comes from its slot, a spilled one its place in HBM or in
the host buffer; one whose page the host denies is held (08 R221, R222; 12 R352; log entry 66). A delivered line is written into its tile's scratchpad, a poisoned one as uncorrectable. -/
def Obligations.HbmLinesAreServed : Prop :=
  (∀ (s : State) (stack pch frame k i : Nat) (a : Access), stack < 8 → pch < 64 → k < 8 →
    let pc := 64 * stack + pch
    let own := 8 * a.frame + a.slot
    let here := 8 * frame + k
    frame % 32 ≠ pc % 32 → s.pcHeld pc = false → s.nextAccess pc = some i → s.hbm.plan[i]? = some a → a.state = .issued →
    (slotStart here < a.elig → ∀ o, exec (.hbmSlot stack pch frame k o) s = .next s) ∧
    (a.ready (slotStart here) = true →
    let served := s.hbm.plan.set i { a with state := .served, data := [] }
    let bad := s.hbm.poison.contains (a.hbm / 128)
    let sent (q : Bool) : List LineDelivery :=
      if a.engine.isSome then [] else [{ tile := a.tile, sp := a.sp, data := s.getLine a, poisoned := q }]
    let put : State := { s with hbm := { s.hbm with plan := served } }.putLine a
    (here = own → ∀ p, s.spillDenied a = some p → ∀ o, exec (.hbmSlot stack pch frame k o) s = .next (s.askStep s.stepPort p)) ∧
    (here = own → s.spillDenied a = none →
      (a.write = true → exec (.hbmSlot stack pch frame k .good) s = .next { put with hbm := { put.hbm with
        poison := s.hbm.poison.filter (· != a.hbm / 128) } }) ∧
      (a.write = false → exec (.hbmSlot stack pch frame k .good) s = .next { s with hbm := { s.hbm with
        plan := served
        deliver := s.hbm.deliver ++ sent bad } }) ∧
      (a.write = false → exec (.hbmSlot stack pch frame k .corrected) s = .next { s with hbm := { s.hbm with
        plan := served
        cecc := Sparse.set 0 s.hbm.cecc stack (Nat.min (Sparse.get 0 s.hbm.cecc stack + 1) (2 ^ 32 - 1))
        deliver := s.hbm.deliver ++ sent bad } }) ∧
      (a.write = false → ∃ u, exec (.hbmSlot stack pch frame k .poisoned) s = .next u ∧ u.hbm.plan = served ∧
        a.hbm / 128 ∈ u.hbm.poison ∧ u.flt.head = s.flt.head + 1 ∧
        u.hbm.deliver = s.hbm.deliver ++ sent true)) ∧
    (own < here → s.slotTaken pc a.sect i frame k = false → s.reexecuting a.tile = false → s.spillDenied a = none →
      ∃ u, exec (.hbmSlot stack pch frame k .good) s = .next u ∧ u.hbm.plan = served ∧ u.dg.late.head = s.dg.late.head + 1) ∧
    (own ≤ here → (own < here → s.slotTaken pc a.sect i frame k = false) → s.spillDenied a = none →
      (a.fails < 3 → exec (.hbmSlot stack pch frame k .ifaceFail) s = .next { s with hbm := { s.hbm with
        plan := s.hbm.plan.set i { a with fails := a.fails + 1 } } }) ∧
      (3 ≤ a.fails → s.prog.tag ≠ none → ∃ u, exec (.hbmSlot stack pch frame k .ifaceFail) s = .next u ∧
        u.hbm.plan = s.hbm.plan.set i { a with fails := a.fails + 1 } ∧ u.flt.head = s.flt.head + 1 ∧
        (hbmPc a.hbm, a.hbm / 128) ∈ u.recov.pch)))) ∧
  (∀ (s : State) (a : Access),
    (a.save = none → s.getLine a = s.hbmRead a.hbm 128 ∧ s.putLine a = s.hbmWrite a.hbm a.data) ∧
    (∀ b k, a.save = some (b, k) → s.accessSpill a = none →
      s.getLine a = packElems fmtBF16 (unpackGroup k (s.hbmRead b (66 + 8 * k))) [] ∧ s.putLine a = s.hbmWrite b a.data) ∧
    (∀ b k p, a.save = some (b, k) → s.accessSpill a = some (false, p) →
      s.getLine a = s.hbmRead p 128 ∧ s.putLine a =
        let w := (s.hbmWrite b (a.data.take 10)).hbmWrite p (a.data.drop 10)
        { w with seqr := { w.seqr with spillHbm := s.seqr.spillHbm + 1 } }) ∧
    (∀ b k p, a.save = some (b, k) → s.accessSpill a = some (true, p) → s.getLine a = s.hostRead s.stepPort p 128)) ∧
  (∀ (s : State) (d : LineDelivery) (l : List LineDelivery), s.hbm.deliver = d :: l →
    let x := s.tile d.tile
    (s.issues d.tile = false ∨ x.portUser x.seq.cycle = none) →
    ∃ u, exec .hbmReadDelivery s = .next u ∧ u = { s with
        tiles := u.tiles
        hbm := { s.hbm with deliver := l } } ∧ (∀ t, t ≠ d.tile → u.tile t = s.tile t) ∧
      u.tile d.tile = { x with
        sp := (u.tile d.tile).sp
        spErr := (u.tile d.tile).spErr
        port := if s.issues d.tile then (x.seq.cycle, 7) :: x.port else x.port } ∧
      (x.bankSp.state ≠ .on → (u.tile d.tile).sp = x.sp ∧ (u.tile d.tile).spErr = x.spErr) ∧
      (x.bankSp.state = .on → (u.tile d.tile).sp = Bytes.writeN x.sp d.sp d.data ∧
        ∀ g, Sparse.get 0 (u.tile d.tile).spErr g =
          if g ∈ granules d.sp d.data.length then (if d.poisoned then 2 else 0) else Sparse.get 0 x.spErr g)) ∧
  (∀ (s : State) (stack pch frame : Nat) (die : Bool),
    let pc := 64 * stack + pch
    (stack < 8 → pch < 64 → (frame % 32 = pc % 32 ∨ (if stack < 4 then s.hbm.freeRun0 else s.hbm.freeRun1) = true) →
      exec (.refreshFrame stack pch frame) s = .next { s with hbm := { s.hbm with
        refreshed := Sparse.set 0 s.hbm.refreshed pc (Sparse.get 0 s.hbm.refreshed pc + 1) } }) ∧
    (∃ u, exec .odeccPoll s = .next u ∧ u = { s with
        hbm := { s.hbm with odecc := u.hbm.odecc }
        free := s.free + 8 } ∧
      ∀ n, n < 8 → Sparse.get 0 u.hbm.odecc n =
        Nat.min (Sparse.get 0 s.hbm.odecc n + (Config.freeValue (s.free + n)).toNat) (2 ^ 32 - 1)) ∧
    (s.tilesQuiet = true → ∃ u, exec (.freeRunEntry die) s = .next u ∧
      u = { s with hbm := { s.hbm with freeRun0 := !die || s.hbm.freeRun0, freeRun1 := die || s.hbm.freeRun1 } }) ∧
    (s.tilesQuiet = false → exec (.freeRunEntry die) s = .next s) ∧
    (∃ u, exec (.freeRunExit die) s = .next u ∧
      u = { s with hbm := { s.hbm with freeRun0 := die && s.hbm.freeRun0, freeRun1 := !die && s.hbm.freeRun1 } })) ∧
  (∀ (s : State) (t : Nat), t < 1024 → s.issueHeld = false → (s.tile t).bankSp.state = .on →
    let x := s.tile t
    let gs := (List.range 32).map (32 * x.testPtr + ·)
    let fixed := (gs.filter fun g => Sparse.get 0 x.spErr g == 1).length
    (∀ g ∈ gs, Sparse.get 0 x.spErr g ≠ 2) →
    (∃ u, exec (.backgroundTestSlot t false) s = .next u ∧ u = { s with tiles := u.tiles } ∧ (∀ v, v ≠ t → u.tile v = s.tile v) ∧
      u.tile t = { x with
        testPtr := (x.testPtr + 1) % 2048
        spErr := (u.tile t).spErr
        ctr := { x.ctr with spEcc := Nat.min (x.ctr.spEcc + fixed) (2 ^ 32 - 1) } } ∧
      ∀ g, Sparse.get 0 (u.tile t).spErr g = if g ∈ gs then 0 else Sparse.get 0 x.spErr g) ∧
    (s.sparesUsed (s.physOf t) 0 < 32 → ∃ u, exec (.backgroundTestSlot t true) s = .next u ∧
      u.tm.repairs = s.tm.repairs ++ [(s.physOf t, 0, x.testPtr)] ∧ (u.tile t).testPtr = (x.testPtr + 1) % 2048 ∧
      u.flt.head = s.flt.head + 1))

/-! ### Training steps (08 R231–R236; 09 R241–R257) -/

/-- Intake waits for its batch, counts the wait and begins the launch of the step; after the schedule the reported blocks are
replayed one after another, in ascending layer, row group and tile, and the reduction follows; a section starts every tile that runs code
at its entry, its program cycle going on; the
end of a step, once every root job has committed, raises the step counter and PROG_FLAG, and the run ends after N steps with the step
counter in RESULT (07 R191; 08 R232–R236, 12 R335). The end of a step is a replay point (14 R382). -/
def Obligations.StepsGoThroughTheirPhases : Prop :=
  ∀ (s : State) (tag : Nat) (o : Op), s.seqr.tag = some tag → s.op tag = some o → o.opcode ≠ opReplay →
    (s.seqr.phase = 1 → (s.gbl.step - s.seqr.s0).toNat + 1 ≤ (s.flag s.batchFlag).toNat → s.noStop = true → s.gbl.paused = false →
      s.tb.state ≠ .unlocked → s.coordinates = false → exec .stepIntake s = .next { s with
        seqr := { s.seqr with
          phase := 2
          intakeWait := s.seqr.intakeWait + (s.tb.count - s.seqr.intakeFrom.getD s.tb.count)
          intakeFrom := none }
        ag := { s.ag with launch := some { tag := tag, c := 0, go := none } }
        lnk := (s.sendTo s.launchCoordinator (controlFlit s.launchCoordinator [0, s.partNo, s.gbl.clk])).lnk
        out := s.out ++ [.ready s.partNo s.gbl.clk] }) ∧
    (s.seqr.phase = 1 → (s.flag s.batchFlag).toNat ≤ (s.gbl.step - s.seqr.s0).toNat → exec .stepIntake s = .next s) ∧
    ((s.seqr.phase = 4 ∨ s.seqr.phase = 5) → s.sectionFree = true →
      (s.seqr.reports = [] → s.RouterAtRest → exec .stepReplaySection s = .next { s with seqr := { s.seqr with
        phase := 6
        replayFrom := none
        overrun := s.seqr.overrun
          + ((s.tb.count - s.seqr.replayFrom.getD s.tb.count) * s.cyc5 / 5 - s.recField s.prog.plan 0x18 31 0)
        replaying := none
        sectRun := none } }) ∧
      (s.seqr.reports ≠ [] → ∃ r ∈ s.seqr.reports,
        (∀ x ∈ s.seqr.reports, r.layer < x.layer ∨ (r.layer = x.layer ∧ (r.base < x.base ∨ (r.base = x.base ∧ r.tile ≤ x.tile)))) ∧
        ∃ u, exec .stepReplaySection s = .next u ∧ u.seqr = { s.seqr with
          phase := 5
          replayFrom := some (s.seqr.replayFrom.getD s.tb.count)
          reports := s.seqr.reports.erase r
          replaying := some r.layer
          sectRun := some 1 } ∧
        u = { s with tiles := u.tiles, hbm := { s.hbm with plan := u.hbm.plan }, seqr := u.seqr })) ∧
    (∀ sect : BitVec 3, sect ≠ 0 → s.sectionFree = true → s.sectionEntry sect ≠ 0xFFFF → ∃ u, exec (.sectionStart sect) s = .next u ∧
      u.seqr = { s.seqr with sectRun := some sect } ∧
      u = { s with tiles := u.tiles, hbm := { s.hbm with plan := u.hbm.plan }, seqr := u.seqr } ∧
      (∀ t, t < 1024 → s.hasImage t = true → u.tile t = { s.tile t with
        seq := { (s.tile t).seq with
          run := .running
          sect := sect
          bundle := s.sectionEntry sect
          loops := []
          skip := 0
          wait := none
          need := none
          ldc := none
          shift := 0
          origin := (s.tile t).seq.cycle
          land := 0 }
        links := Sparse.mapVals [] (fun _ l => l.map fun e => { e with sent := 0, arr := 0 }) (s.tile t).links
        stopAt := none }) ∧
      (∀ t, s.hasImage t = false → u.tile t = s.tile t) ∧
      (∀ (i : Nat) (a : Access), s.hbm.plan[i]? = some a → a.sect ≠ sect.toNat → u.hbm.plan[i]? = some a)) ∧
    (s.seqr.phase = 9 → s.seqr.jobs ≠ [] → exec .stepEnd s = .next s) ∧
    (s.seqr.phase = 9 → s.seqr.jobs = [] → s.seqr.stepStatus = [] → bitAt s.stepctl 15 = false → s.RouterAtRest →
      (∀ e ∈ s.coll.entries, e.tflag ≠ s.progFlag) →
      let last := s.ag.abortEnd || decide (s.seqr.n ≤ s.seqr.done + 1)
      ∃ u, exec .stepEnd s = .next u ∧
      s.OpIs u tag (if last then { o with phase := .finished, result := s.gbl.step + 1 } else o) ∧
      u = { s with
        gbl := { s.gbl with step := s.gbl.step + 1 }
        seqr := { s.seqr with
          done := s.seqr.done + 1
          phase := if last then 0 else 1
          stepStatus := []
          inDig := []
          intakeFrom := some s.tb.count }
        recov := u.recov
        q := { s.q with
          ops := u.q.ops
          flag := Sparse.set 0 s.q.flag s.progFlag (s.flag s.progFlag + 1)
          flagLog := s.flagHistory s.progFlag } } ∧
      (s.recov.stage = .none → s.recov.Points u.recov u))

/-- Gradient quantisation of a layer without a pending block changes only the quantised buffer, its scales and the error term not in
use (09 R243; 08 R235). The norm decision, once no block is pending and every reduce-scatter has completed,
skips a step whose norm is not finite and scales others by the clip factor; LAST_NORM and LAST_STEP are written and
STEP_SKIPPED is added (R245–R248). The sweep takes a fold or a tensor in each of its commands, a replay point before each (R251), writes
m, v and the master of each element as R250 gives them and after its last item goes on to the
frame; the frame leaves on P31 and to the host ring, and the step ends (R255–R257). Each of the three writers goes on when its segments
fit in staging, behind those that have left it; it waits, and changes nothing else, while the host ring keeps staging too full (R257; how
segments leave, and that a writer larger than staging goes on, is log entry 130's choice). -/
def Obligations.GradientsDecisionSweepAndFrame : Prop :=
  ∀ (s : State),
    (∀ f : State → State, ((s.engineOn = false ∨ (f s).staged ≤ s.stagingSize) → s.writes f = (f s).unstall) ∧
      (s.engineOn = true → s.stagingSize < (f s).staged →
        let t := (s.sendSegs false).drainHost (s.sendSegs false).ss.hostOut
        s.writes f = if s.stagingSize < (f t).staged ∧ t.ss.hostOut ≠ [] then { t with ss := { t.ss with
          stallFrom := some (t.ss.stallFrom.getD t.tb.count) } } else (f t).unstall)) ∧
    (∀ urec dw, s.stepGoes = true → 4 ≤ s.seqr.phase → s.seqr.phase ≤ 6 →
      (s.layerOf (s.recField urec 0 15 0) ∈ s.pendingLayers → exec (.gradientQuantisation urec dw) s = .next s) ∧
      (s.layerOf (s.recField urec 0 15 0) ∉ s.pendingLayers →
      exec (.gradientQuantisation urec dw) s = .next (s.writes fun s => s.quantise urec dw) ∧
      ((s.engineOn = false ∨ (s.quantise urec dw).staged ≤ s.stagingSize) →
      let n := s.recField urec 0x40 47 0
      let loc := s.mem64 (urec + 0x48)
      let err := s.errBuf urec (1 - s.esel)
      let out (a k : Nat) (b : Nat) : Prop := b < a ∨ a + k ≤ b
      ∃ u, exec (.gradientQuantisation urec dw) s = .next u ∧ u = { s with
          hbm := { s.hbm with mem := u.hbm.mem }
          ss := { s.unstall.ss with segs := u.ss.segs } } ∧
        ∀ b, out loc (packedBytes fmtE4M3B n) b → out (scaleAt fmtE4M3B loc n) (ceilDiv n 32) b → out err (ceilDiv n 2 * 4) b →
          Bytes.read u.hbm.mem b = Bytes.read s.hbm.mem b))) ∧
    (∀ sumSq : List (BitVec 64), s.stepGoes = true → s.seqr.phase = 6 → s.pendingLayers = [] → s.scattersDone = true →
      let r := s.seqr.optRec
      let norm := f64Sqrt (s.globalNorm sumSq)
      exec (.normDecision sumSq) s = .next (s.writes fun s => s.applyNorm norm) ∧
      (((fp64Of norm).isNan = true ∨ (fp64Of norm).isInf = true) → s.decide_ norm = (1, 0)) ∧
      ((s.engineOn = false ∨ (s.applyNorm norm).staged ≤ s.stagingSize) →
      ((s.decide_ norm).1 ≠ 0 → ∀ g o, s.prog.tag = some g → s.op g = some o →
        ∃ u o', exec (.normDecision sumSq) s = .next u ∧ u.seqr.phase = 8 ∧ u.seqr.skipped = true ∧
          u.seqr.decision = some (BitVec.ofNat 8 (s.decide_ norm).1, 0) ∧
          u.op g = some o' ∧ stSkipped ∈ o'.statuses ∧ u.flt.head = s.flt.head + 1 ∧ s.recov.Points u.recov u) ∧
      ((s.decide_ norm).1 = 0 → r + 0x80 ≤ hbmTop → ∃ u, exec (.normDecision sumSq) s = .next u ∧
        u.seqr = { s.seqr with
          phase := 7
          decision := some (0, BitVec.ofNat 64 (s.decide_ norm).2)
          sweepAt := 0
          unf := 0 } ∧
        u = { s with
          hbm := { s.hbm with mem := u.hbm.mem }
          ss := { s.unstall.ss with segs := u.ss.segs }
          seqr := u.seqr
          recov := u.recov } ∧
        s.recov.Points u.recov u ∧
        u.mem64 (r + 0x58) = norm % 2 ^ 64 ∧ u.mem64 (r + 0x60) = s.gbl.step.toNat ∧
        (∀ b, b < r + 0x48 ∨ r + 0x70 ≤ b → Bytes.read u.hbm.mem b = Bytes.read s.hbm.mem b)))) ∧
    (∀ d, s.seqr.decision = some d → s.stepGoes = true → s.emits = true → s.seqr.phase = 7 →
      let c := d.2.toNat
      let p := s.newPoint
      let i := s.seqr.sweepAt
      let x := s.sweepItems
      exec .updateSweep s = .next (s.writes fun s => s.newPoint.sweepItem c) ∧
      s.recov.Points p.recov s ∧ p = { s with recov := p.recov } ∧
      (i + 1 < x.length → (p.sweepItem c).seqr.phase = 7 ∧ (p.sweepItem c).seqr.sweepAt = i + 1 ∧
        (∀ r, x[i]? = some (true, r) → p.sweepItem c = { p.foldLayer r with seqr := { s.seqr with sweepAt := i + 1 } }) ∧
        ∀ r, x[i]? = some (false, r) →
          let o := s.seqr.optRec
          let y := p.sweepTensor (s.optConst o (s.mem64 (o + 0x48))) (cvtBits fmtFP32 fmtFP64 c) (s.learnRate o) r
          (p.sweepItem c).hbm = y.1.hbm ∧ (p.sweepItem c).ss = y.1.ss ∧ (p.sweepItem c).seqr.unf = s.seqr.unf + y.2) ∧
      (x.length ≤ i + 1 → (p.sweepItem c).seqr.phase = 8)) ∧
    (∀ (k : OptConst) (c lr r : Nat),
      let n := s.nown r
      let m := s.mem64 (r + 0x18)
      let v := m + alignUp (4 * n) 128
      let w := s.mem64 (r + 0x10)
      let cc := s.mem64 (r + 0x30)
      let f := s.ccFmt r
      let word (t : State) (a i : Nat) : Nat := Bytes.readLe t.hbm.mem (a + 4 * i) 4
      let held := s.recField r 0 16 16 == 1
      (∀ x ∈ [(m, v), (m, w), (v, w)], x.1 + 4 * n ≤ x.2 ∨ x.2 + 4 * n ≤ x.1) →
      (∀ a ∈ [m, v, w], (a + 4 * n ≤ cc ∨ partialAt f cc n + 8 ≤ a) ∧ (a + 4 * n ≤ r ∨ r + 0x80 ≤ a) ∧ a + 4 * n ≤ hbmTop) →
      let u := (s.sweepTensor k c lr r).1
      ∀ i, i < n →
        let e := sweepElem k held c lr (word s m i) (word s v i) (word s w i) (word s (s.mem64 (r + 0x20)) i)
          (if held then word s (s.mem64 (r + 0x28)) i else 0)
        word u m i = e.1 % 2 ^ 32 ∧ word u v i = e.2.1 % 2 ^ 32 ∧ word u w i = e.2.2 % 2 ^ 32) ∧
    (s.emits = true → s.seqr.phase = 8 →
      let d := s.drainHost s.ss.hostOut
      (s.hostOn = true → d.ss.hostOut ≠ [] → d.stagingSize < partsSize d.ss.hostOut + partsSize (d.frameParts d.ss.gap) →
        exec .shadowFrameEmit s = .next { d with ss := { d.ss with stallFrom := some (d.ss.stallFrom.getD d.tb.count) } }) ∧
      ((d.hostOn = false ∨ d.ss.hostOut = [] ∨ partsSize d.ss.hostOut + partsSize (d.frameParts d.ss.gap) ≤ d.stagingSize) →
        ∃ u, exec .shadowFrameEmit s = .next u ∧ u.seqr.phase = 9 ∧ u.ss.segs = [] ∧ u.ss.left = none ∧ u.ss.stallFrom = none) ∧
      (s.ss.hostOut = [] →
      let x := if s.seqr.skipped then s else s.stepProv
      let parts := x.frameParts false
      let size := partsSize parts
      let done (y : State) : State := State.newPoint { y with
        ss := { y.unstall.ss with segs := [], left := none, hostSkip := false }
        seqr := { y.seqr with phase := 9 } }
      (s.engineOn = false → exec .shadowFrameEmit s = .next (done x)) ∧
      (s.engineOn = true → s.hostEn = false → (s.port 31).state.works = true →
        exec .shadowFrameEmit s = .next (done { x with out := x.out ++ parts.map Out.frame })) ∧
      (s.engineOn = true → s.p31En = false → s.ss.gap = false → s.ss.hostSkip = false →
        (∀ a, ¬ (s.hp (s.ss.ctrl.getLsbD 3)).denies a) →
        s.ss.head % s.ss.hsize.toNat + size ≤ s.ss.hsize.toNat → size ≤ s.hostRoom → ∃ u, exec .shadowFrameEmit s = .next u ∧
        (let b := s.ss.ctrl.getLsbD 3
         (u.hp b).mem = Bytes.writeN (s.hp b).mem (s.ss.hbase.toNat + s.ss.head % s.ss.hsize.toNat) parts.flatten ∧
         u.hp (!b) = s.hp (!b)) ∧
        u.ss = { s.unstall.ss with segs := [], left := none, head := s.ss.head + size } ∧ u.seqr = { s.seqr with phase := 9 })))

/-! ### Roots, directions, solves and digests (07 R188–R212; 05 R156–R161; 14 R392, R393) -/

/-- A root job that is due starts in a Penumbra slot and runs with the iterations that end by its deadline less FIN, at most four
escalations of its damping, or only ages without
a committed fold; a job whose next iteration would pass that is final; at the deadline and once the step is decided a final job commits
its status word, and its root when the residual is accepted, keeping the old one as stale otherwise (07 R188–R202). A layer's direction is
held at DIR_BASE (R204, R205). A solve job stores X when its residual is accepted and fills its record; an invalid record ends it
with PROGRAM_INVALID (R208–R212). -/
def Obligations.RootsDirectionsAndSolves : Prop :=
  (∀ (s : State) (r j : Nat) (t : JobTime), s.stepGoes = true → 4 ≤ s.seqr.phase → s.seqr.phase ≤ 6 → s.rootDue r j = true →
    s.rootJobOf r j = none → s.inSlot (s.schedCycle (s.jobTiles r j)) = true → ∃ u w, exec (.rootJob r j t) s = .next u ∧
      u = { s with seqr := { s.seqr with jobs := s.seqr.jobs ++ [w] } } ∧ w.record = r ∧ w.blk = j ∧ w.esc ≤ 4 ∧
      w.deadline = false ∧ w.fin = t.fin ∧
      (w.iters = 0 ∨ t.iter = 0 ∨
        jobStart t w.esc + w.iters * t.iter + t.fin ≤ s.cyclesOf (s.seqr.deadline - s.jobNow r j)) ∧
      (let init := Bytes.readLe s.hbm.mem (s.factorAt r (s.blockOf r j).1 (s.blockOf r j).2).1 4 % 2
       (init = 0 → w.idle = true ∧ w.best = none ∧ w.final = true) ∧ (init = 1 → w = s.runRoot r j t ∧ w.idle = false) ∧
       (w.probeFail = true → w.best = none ∧ w.final = true))) ∧
  (∀ (s : State) (r j : Nat), exec (.rootDeadline r j) s = .next { s with seqr := { s.seqr with
    jobs := s.seqr.jobs.map fun w => if w.record = r ∧ w.blk = j ∧ w.final = false ∧ w.ends ≤ s.jobNow r j + s.countsOf w.fin
      then { w with final := true, deadline := true } else w } }) ∧
  (∀ (s : State) (r j : Nat) (w : RootWork), s.rootJobOf r j = some w → s.stepGoes = true → s.seqr.decision ≠ none → w.final = true →
    w.ends ≤ s.jobNow r j → s.seqr.deadline ≤ s.jobNow r j →
    (s.engineOn = false ∨ (s.commitRoot w).staged ≤ s.stagingSize) →
    let at_ := s.rootAt w.record w.blk
    let old := s.mem64 at_.1
    let good := w.accepted (s.rootCfg w.record).acc
    at_.1 + 8 ≤ hbmTop → ∃ u, exec (.rootCommit r j) s = .next u ∧
      u.seqr.jobs = s.seqr.jobs.filter (fun x => !(x.record == r && x.blk == j)) ∧
      (w.idle = true → field (u.mem64 at_.1) 12 4 = Nat.min (field old 12 4 + 1) 511 ∧
        (∀ b, b < at_.1 ∨ at_.1 + 8 ≤ b → Bytes.read u.hbm.mem b = Bytes.read s.hbm.mem b)) ∧
      (w.idle = false → w.statuses = [] → u.mem64 at_.1 = s.rootWord w old % 2 ^ 64 ∧
        bitAt (u.mem64 at_.1) 1 = (good || bitAt old 1) ∧ bitAt (u.mem64 at_.1) 2 = (!good && bitAt old 1) ∧
        (good = false → ∀ b, b < at_.1 ∨ at_.1 + 8 ≤ b → Bytes.read u.hbm.mem b = Bytes.read s.hbm.mem b) ∧
        (∀ root, w.best = some root → good = true → (at_.2 + 4 * root.1.length ≤ at_.1 ∨ at_.1 + 8 ≤ at_.2) →
          at_.2 + 4 * root.1.length ≤ hbmTop → ∀ i v, root.1[i]? = some v → Bytes.readLe u.hbm.mem (at_.2 + 4 * i) 4 = v.toNat)) ∧
      (∀ g o, s.prog.tag = some g → s.op g = some o → w.idle = false → ∃ o', u.op g = some o' ∧ ∀ st ∈ w.statuses, st ∈ o'.statuses)) ∧
  (∀ (s : State) (r urec opt : Nat), s.stepGoes = true → 4 ≤ s.seqr.phase → s.seqr.phase ≤ 6 →
    s.layerHeld (s.recField r 0 15 0) = false → s.slotGoes = true →
    let d := s.shardDirection r urec opt
    let bs := packElems fmtFP32 (d.1.flatten.map (cvtBits fmtFP32 fmtFP64)) []
    let a := s.mem64 (urec + 0x28)
    exec (.precondition r urec opt) s = .next { s with
      hbm := { s.hbm with mem := Bytes.writeN s.hbm.mem a (bs.take (2 ^ 39 - a)) }
      seqr := { s.seqr with stale := s.seqr.stale || d.2 } }) ∧
  (∀ (s : State) (r g : Nat) (a : SolveArgs) (o : Op), s.programRuns = true → s.noStop = true → s.gbl.paused = false → s.recov.stage = .none →
    s.prog.tag = some g → s.op g = some o →
    let v := s.solveRec r
    let w := s.runSolve r a
    let good := w.x.isSome && f64Le w.resid (twoNeg v.acc)
    (s.solveOk r = false → ∃ u o', exec (.solveJob r a) s = .next u ∧ u.op g = some o' ∧ stInvalid ∈ o'.statuses ∧
      u.flt.head = s.flt.head + 1) ∧
    (s.solveOk r = true → r + 0x80 ≤ hbmTop → w.piv = [] → w.statuses = [] → ∃ u, exec (.solveJob r a) s = .next u ∧
      u = { s with hbm := { s.hbm with mem := u.hbm.mem } } ∧
      Bytes.readLe u.hbm.mem (r + 0x60) 8 = b2n (!good) * 2 ^ 8 + w.iters % 2 ^ 16 * 2 ^ 16 ∧ u.mem64 (r + 0x68) = w.resid % 2 ^ 64 ∧
      u.mem64 (r + 0x70) = 0xFFFFFFFF ∧
      (good = false → ∀ b, b < r + 0x60 ∨ r + 0x80 ≤ b → Bytes.read u.hbm.mem b = Bytes.read s.hbm.mem b) ∧
      (good = true → let xs := packElems (precFmt v.prec) ((w.x.getD []).map v.store) []
        v.x + xs.length ≤ hbmTop → (v.x + xs.length ≤ r + 0x60 ∨ r + 0x80 ≤ v.x) → Bytes.readN u.hbm.mem v.x xs.length = xs)))

/-- The partials of a tensor are summed modulo P and logged with their KIND and word count, frozen drains taken out of a layer's; of a
tensor that a collective with FP32 partials delivered, the digest of that result is logged
(05 R156, R157; 08 R235). A layer's collection and the owner's digests go in the slots of a step run (08 R219). The owner's sum, finalised over the tensor's words, goes into every checked descriptor of the tensor
(R159). At a layer's end the sum of a checked stream is compared with it and logged as KIND 1; the first difference starts a
recovery, a second one at the same place ends the run with DIGEST_MISMATCH (R161; 14 R392). -/
def Obligations.DigestsAreCollectedAndChecked : Prop :=
  ∀ (s : State) (layer tid len : Nat), s.programRuns = true → s.noStop = true → s.gbl.paused = false →
    s.recov.active = false → layer < 2 ^ 16 → tid < 2 ^ 16 → len < 2 ^ 40 →
    let r := s.dg.log
    let a := r.base.toNat + 32 * (r.head % r.size)
    let logged (u : State) (part mb kind result len : Nat) : Prop :=
      u.dg.log.head = r.head + 1 ∧ u.mem64 a = s.gbl.step.toNat ∧ u.mem64 (a + 8) = part ∧
      u.mem64 (a + 16) = layer + mb * 2 ^ 16 + tid * 2 ^ 32 + kind * 2 ^ 48 + result * 2 ^ 56 ∧ Bytes.readLe u.hbm.mem (a + 24) 5 = len
    (∀ mb kind parts, mb < 2 ^ 16 → a + 32 ≤ hbmTop →
      let sum := (parts.foldl (fun n p => (n + leNat (s.linRead p 8)) % ldP) 0)
      (kind = 3 → ∃ u, exec (.digestCollection layer mb tid kind parts len) s = .next u ∧ logged u sum mb kind 0 len ∧
        u.seqr = { s.seqr with inDig := Sparse.set (2 ^ 64) s.seqr.inDig tid (ldFinal sum len) }) ∧
      (kind = 4 → s.resultOf tid 4 = none → ∃ u, exec (.digestCollection layer mb tid kind parts len) s = .next u ∧
        logged u sum mb kind 0 len) ∧
      (s.slotGoes = true → s.resultOf tid 0 = none → ∃ u, exec (.digestCollection layer mb tid 0 parts len) s = .next u ∧
        logged u ((sum + ldP - s.frozenSum tid) % ldP) mb 0 0 len) ∧
      (∀ d, (kind = 4 ∨ (kind = 0 ∧ s.slotGoes = true)) → s.resultOf tid kind = some d → d.1 < 2 ^ 64 → d.2 < 2 ^ 40 →
        ∃ u, exec (.digestCollection layer mb tid kind parts len) s = .next u ∧ logged u d.1 mb kind 0 d.2)) ∧
    (s.slotGoes = true → let v := ldFinal (Sparse.get 0 s.seqr.carried tid) len
     exec (.ownerDigestWrite tid len) s = .next { s with
      tiles := Sparse.mapVals Tile.reset (fun _ x => { x with dstore := Sparse.mapVals 0 (fun _ d =>
        if (descOf d).valid && (descOf d).dchk && (descOf d).tid == tid then BitVec.ofNat 512 (setField d.toNat 511 448 v) else d) x.dstore })
        s.tiles
      seqr := { s.seqr with
        owner := Sparse.set (2 ^ 64) s.seqr.owner tid v
        carried := Sparse.set 0 s.seqr.carried tid 0 } }) ∧
    (let part := Sparse.get 0 s.seqr.wsum tid
     let got := ldFinal part len
     (got = s.ownerOf tid → a + 32 ≤ hbmTop → part < 2 ^ 64 → ∃ u, exec (.weightStreamCheck layer tid len) s = .next u ∧
       logged u part 0xFFFF 1 1 len ∧ u.seqr = { s.seqr with wsum := Sparse.set 0 s.seqr.wsum tid 0 } ∧ u.flt = s.flt ∧
       (s.recov.digest = some (tid, layer) → u.recov = { s.recov with digest := none })) ∧
     (∀ g o, got ≠ s.ownerOf tid → s.prog.tag = some g → s.op g = some o →
       ((s.seqr.ownFail = true ∨ s.recov.digest = some (tid, layer)) → s.ag.stop = none →
         ∃ u o', exec (.weightStreamCheck layer tid len) s = .next u ∧ u.op g = some o' ∧ stDigestEnded ∈ o'.statuses ∧
           u.flt.head = s.flt.head + 1 ∧ u.dg.log.head = r.head + 1 ∧ u.recov.digest = none ∧ (∀ t, (u.tile t).seq.run.live = false) ∧
           (u.ag.stop.map Stop.status) = some stDigestEnded) ∧
       (s.seqr.ownFail = false → s.recov.digest ≠ some (tid, layer) → s.recov.stage = .none →
         ∃ u o', exec (.weightStreamCheck layer tid len) s = .next u ∧ u.op g = some o' ∧ stDigest ∈ o'.statuses ∧
           u.flt.head = s.flt.head + 1 ∧ u.dg.log.head = r.head + 1 ∧ u.recov.digest = some (tid, layer) ∧
           u.recov.stage = .announced)))

/-! ### The shadow stream and its standby (09 R252–R259) -/

/-- A payload gives back its difference words: what the packing of a segment's words spells, the standby reads as those words
again, for every segment the manual allows (09 R255, R256). -/
def Obligations.PackedDifferencesRoundTrip : Prop :=
  ∀ (l : List W32), l.length ≤ segmentWords → unpackDiffs 0 (packDiffs l) = l

/-- A standby takes a frame in order: the header opens it when its STEP is the one expected and its VERSION 1; a segment whose
SEGDIG agrees is exclusive-ored into its region; the trailer, when NSEG, FRAME_LEN
and FRAME_DIG agree, moves SS_MIRROR_STEP on. A check that fails clears MIRROR_VALID and is logged, and frames are then ignored
(09 R259). -/
def Obligations.StandbyAppliesFrames : Prop :=
  (∀ (s : State) (bytes : List Byte), s.mirrors = true →
    (leNat ((bytes.drop 8).take 8) = s.ss.mirrorStep.toNat → leNat (bytes.take 2) = 1 →
      exec (.shadowFrameHeader bytes) s = .next { s with ss := { s.ss with
        rx := some { step := s.ss.mirrorStep, nseg := 0, bytes := 64, digs := [] } } }) ∧
    (leNat ((bytes.drop 8).take 8) ≠ s.ss.mirrorStep.toNat ∨ leNat (bytes.take 2) ≠ 1 → ∃ u, exec (.shadowFrameHeader bytes) s = .next u ∧
      u.ss = { s.ss with mirrorValid := false, rx := none } ∧ u.flt.head = s.flt.head + 1 ∧ u.mirrors = false)) ∧
  (∀ (s : State) (bytes : List Byte) (f : FrameRx), s.mirrors = true → s.ss.rx = some f →
    let region := leNat (bytes.take 2) % 2 ^ 12
    let off := leNat ((bytes.drop 8).take 5)
    let dig := leNat ((bytes.drop 0x18).take 8) % 2 ^ 61
    let ws := unpackDiffs 0 ((wordsOf (bytes.drop 32)).map (BitVec.ofNat 32))
    let a := (s.region region).1 + 4 * off
    (payloadDigest (bytes.drop 32) = dig → region < s.ss.rtCount → off + ws.length ≤ (s.region region).2 → a + 4 * ws.length ≤ hbmTop →
      ∃ u, exec (.shadowSegment bytes) s = .next u ∧
        u = { s with
          hbm := { s.hbm with mem := u.hbm.mem }
          ss := { s.ss with rx := some { f with nseg := f.nseg + 1, bytes := f.bytes + bytes.length, digs := f.digs ++ [dig] } } } ∧
        (∀ i w, ws[i]? = some w → Bytes.readLe u.hbm.mem (a + 4 * i) 4 = Bytes.readLe s.hbm.mem (a + 4 * i) 4 ^^^ w.toNat) ∧
        (∀ b, b < a ∨ a + 4 * ws.length ≤ b → Bytes.read u.hbm.mem b = Bytes.read s.hbm.mem b)) ∧
    (payloadDigest (bytes.drop 32) ≠ dig → ∃ u, exec (.shadowSegment bytes) s = .next u ∧ u.mirrors = false ∧
      u.ss = { s.ss with mirrorValid := false, rx := none } ∧ u.flt.head = s.flt.head + 1)) ∧
  (∀ (s : State) (bytes : List Byte) (f : FrameRx), s.mirrors = true → s.ss.rx = some f →
    let good := decide (leNat ((bytes.drop 0x14).take 4) = f.nseg ∧ leNat ((bytes.drop 0x18).take 8) = f.bytes + 64 ∧
      leNat ((bytes.drop 0x20).take 8) % 2 ^ 61 = ld64Pairs f.digs)
    (good = true → exec (.shadowFrameTrailer bytes) s = .next { s with ss := { s.ss with rx := none, mirrorStep := f.step + 1 } }) ∧
    (good = false → ∃ u, exec (.shadowFrameTrailer bytes) s = .next u ∧ u.mirrors = false ∧ u.flt.head = s.flt.head + 1 ∧
      u.ss = { s.ss with mirrorValid := false, rx := none })) ∧
  (∀ (s : State) (bytes : List Byte), s.mirrors = false → exec (.shadowFrameHeader bytes) s = .next s ∧
    exec (.shadowSegment bytes) s = .next s ∧ exec (.shadowFrameTrailer bytes) s = .next s)

/-! ### Faults and their recovery (14 R381–R396) -/

/-- A tile that fails, found by parity or by a neighbour without a handshake, starts the recovery of the running program with
TILE_REMAPPED and waits to be retired; with no program running its half-row is re-mapped at once (14 R381, R386; log entry 11). The
re-map term repairs rows with spares, retrains pseudo-channels and retires tiles; compute retired by it, or a dead pseudo-channel,
loses the part, whose program stops (13 R363, R373–R375; 14 R386, R388, R389).

The loss of another part while a program runs is logged and gives the operation TIMEOUT; the surviving part of lowest rank
announces the stop of the domain, and after the commit point the step is completed first (14 R389, R390). -/
def Obligations.TileFaultsRemapAndLostParts : Prop :=
  ((∀ (s : State) (t : Nat), t < 1024 → s.recov.stage = .none →
     (∀ g o, s.prog.tag = some g → s.op g = some o → ∃ u o', exec (.tileFault t) s = .next u ∧ exec (.handshakeTimeout t) s = .next u ∧
       u.op g = some o' ∧ stRemapped ∈ o'.statuses ∧ u.flt.head = s.flt.head + 1 ∧ u.ag.pause ≠ none ∧
       u.recov = { s.recov with
         stage := .announced
         cause := some (stRemapped, srcTile, t)
         faultCycle := (s.tile t).seq.cycle
         retire := if s.recov.retire.contains t then s.recov.retire else s.recov.retire ++ [t] } ∧
       u.tiles = s.tiles ∧ u.tm = s.tm) ∧
     (s.prog.tag = none → ∃ u, exec (.tileFault t) s = .next u ∧ exec (.handshakeTimeout t) s = .next u ∧
       u.recov = s.recov ∧ (let p := posOfPhys (s.physOf t)
         u.tm.failed = Sparse.set 0 s.tm.failed p.1 (s.halfFailed p.1 ||| (1#17 <<< p.2)) ∧ u.tm.repairs = s.tm.repairs ∧
         (u.unmappable p.1 = true → u.gbl.retired = true)))) ∧
   (∀ (s : State), s.recov.stage = .paused → s.gbl.paused = true → ∃ u, exec .recoveryRemap s = .next u ∧
     ((u.gbl.retired || u.anyDead) = true → u.recov.stage = .none ∧ u.recov.active = false ∧ u.gbl.paused = false ∧
       u.prog.stopped = s.prog.tag.isSome ∧ ∀ t, (u.tile t).seq.run.live = false) ∧
     ((u.gbl.retired || u.anyDead) = false → u.recov.stage = .remapped ∧ u.recov.retire = [] ∧ u.recov.rows = [] ∧ u.gbl.paused = true) ∧
     (∀ t row, s.recov.rows = [(t, row)] → s.recov.pch = [] → s.recov.retire = [] → row < 4096 → s.sparesUsed (s.physOf t) 0 < 32 →
       u.tm = { s.tm with repairs := s.tm.repairs ++ [(s.physOf t, 0, row)] }) ∧
     (∀ t, s.recov.rows = [] → s.recov.pch = [] → s.recov.retire = [t] → (let p := posOfPhys (s.physOf t)
       u.tm.failed = Sparse.set 0 s.tm.failed p.1 (s.halfFailed p.1 ||| (1#17 <<< p.2)))) ∧
     (∀ e, s.recov.rows = [] → s.recov.retire = [] → s.recov.pch = [e] →
       (Sparse.get 0 u.hbm.dead (e.1 / 64)).getLsbD (e.1 % 64) = true ∨
       (Sparse.get 0 s.hbm.rowFix (rowKey e) < 4 ∧
         Sparse.get 0 u.hbm.rowFix (rowKey e) = Sparse.get 0 s.hbm.rowFix (rowKey e) + 1 ∧
         Sparse.get 0 u.hbm.sppr (e.1 / 64) = satAdd 16 (Sparse.get 0 s.hbm.sppr (e.1 / 64)) 1)))) ∧
  (∀ (s : State) (part g : Nat) (o : Op), s.programRuns = true → s.prog.tag = some g → s.op g = some o →
     (part = s.partNo → exec (.partLoss part) s = .next s) ∧
     (part ≠ s.partNo → ∃ u o', exec (.partLoss part) s = .next u ∧ u.op g = some o' ∧ stTimeout ∈ o'.statuses ∧
       u.flt.head = s.flt.head + 1 ∧ (s.flt.pend = 0 → u.flt.pend = 1 ∧ u.flt.worst = 3) ∧
       (s.seqr.tag.isSome = true ∧ 7 ≤ s.seqr.phase → u.ag = { s.ag with abortEnd := true } ∧ u.out = s.out) ∧
       (¬(s.seqr.tag.isSome = true ∧ 7 ≤ s.seqr.phase) → s.survivor part = some s.partNo → s.ag.stop = none →
         u.ag = { s.ag with stop := some { c := s.announceCount, coord := s.partNo, status := stTimeout, pre := false } } ∧
         u.out = s.out ++ [.stop s.announceCount (stCode stTimeout) false]) ∧
       (¬(s.seqr.tag.isSome = true ∧ 7 ≤ s.seqr.phase) → s.survivor part ≠ some s.partNo → u.ag = s.ag ∧ u.out = s.out)))

/-- The restore reloads the stores, asks the other members for gathered copies, and runs the restore section with the replay-point index
in CNT[15]; at its end, with the copies there, the sequencers
take the record's state, the accesses of the segment are assigned again and Q is announced (14 R383, R386; log entry 50). A fetched copy
that fails the weight-stream check again ends the run with DIGEST_MISMATCH (R392). A segment
whose receive log overflowed restarts its step from the start before the commit point (R384, R387). The catch-up point is announced
once every tile has passed the cycle of the fault, a complete replay record becomes the current one, and a peer's fetch reads this
part's HBM (R382, R383, R386). -/
def Obligations.RestoresAndReplayRecords : Prop :=
  (∀ (s : State) (r : ReplayPoint), s.recov.current = some r → s.recov.stage = .remapped → s.recov.logFull = false → s.recov.pch = [] →
    s.sectionEntry 2 ≠ 0xFFFF → s.imageTiles ≠ [] → Sparse.wfFrom Tile.reset 0 s.tiles = true →
    ∃ u, exec .restoreFromReplayPoint s = .next u ∧ u.recov.stage = .restoring ∧ ∀ t ∈ s.imageTiles,
      (u.tile t).seq.run = .running ∧ (u.tile t).seq.bundle = s.sectionEntry 2 ∧ Sparse.get 0 (u.tile t).seq.cnt 15 = BitVec.ofNat 32 r.idx ∧
      (u.tile t).istore = ((s.tile t).withStores s.progImage t).istore ∧ (u.tile t).links = [] ∧ (u.tile t).atoms = [] ∧
      (s.refetched = [] → (u.tile t).sp = (s.tile t).sp ∧ u.recov.want = [] ∧ u.out = s.out) ∧
      (∀ g ∈ s.refetched, ∀ m q, m < g.2.1.n → m ≠ g.2.2 → s.memberPart g.2.1 m = some q → ∀ p ∈ g.1.pieces g.2.1.n m,
        (p.2.1, p.2.2) ∈ u.recov.want ∧ .fetchAsk q p.1 p.2.2 ∈ u.out)) ∧
  (∀ (s : State) (r : ReplayPoint), s.recov.current = some r → s.recov.stage = .restoring → s.tilesQuiet = true → s.accessesDone = true →
    s.recov.want = [] → Sparse.wfFrom Tile.reset 0 s.tiles = true → ∃ u, exec .restoreFromReplayPoint s = .next u ∧
      u.recov.stage = .restored ∧
      ((s.recheck = none ∨ ∃ tid layer d, s.recheck = some (tid, layer, d, d)) →
        u.recov = { s.recov with stage := .restored, pch := [], undo := [] } ∧ u.ag.resume ≠ none ∧
        .resume s.announceCount ∈ u.out ∧ ((∀ x ∈ s.coll.runs, x.again = []) → u.out = s.out ++ [.resume s.announceCount]) ∧
        (∀ x ∈ u.coll.runs, x.again = []) ∧
        (∀ t, (∃ x, (t, x) ∈ s.tiles) → (u.tile t).seq = Sparse.get TileSeq.reset r.tiles t) ∧
        (∀ l ∈ s.recov.pch.map (·.2), l ∉ u.hbm.poison) ∧ (s.recov.log = [] → s.recov.undo = [] → u.hbm.mem = s.hbm.mem)) ∧
      (∀ tid layer want got, s.recheck = some (tid, layer, want, got) → got ≠ want →
        u.recov.digest = none ∧ u.flt.head = s.flt.head + 1 ∧ (s.ag.stop = none → u.ag.stop.map Stop.status = some stDigestEnded) ∧
        ∀ t, (u.tile t).seq.run.live = false)) ∧
  (∀ (s : State) (r : ReplayPoint), s.recov.current = some r → s.recov.stage = .remapped → s.recov.logFull = true →
    s.seqr.tag.isSome = true → s.seqr.phase ≤ 6 → ∃ u, exec .restoreFromReplayPoint s = .next u ∧ u.seqr.phase = 1 ∧ u.seqr.jobs = [] ∧
      u.ss.segs = [] ∧ u.recov.stage = .restored ∧ u.ag.resume ≠ none ∧ ∀ t, (u.tile t).seq.run.live = false) ∧
  (∀ (s : State), s.recov.active = true → s.recov.stage = .none →
    ((∀ c ∈ s.tiles, c.2.seq.run.live = true → s.recov.faultCycle ≤ c.2.seq.cycle) → exec .catchUpPoint s = .next { s with
      recov := { s.recov with active := false, cause := none, faultCycle := 0 }
      out := s.out ++ [.catchUp] }) ∧
    ((∃ c ∈ s.tiles, c.2.seq.run.live = true ∧ c.2.seq.cycle < s.recov.faultCycle) → exec .catchUpPoint s = .next s)) ∧
  (∀ (s : State) (idx : Nat), s.programRuns = true → s.recov.active = false → s.recov.stage = .none →
    ∃ u, exec (.replayRecordComplete idx) s = .next u ∧ u = { s with recov := u.recov } ∧ s.recov.Points u.recov s ∧
      u.recov.current.map ReplayPoint.idx = some idx) ∧
  (∀ (s : State) (peer addr len : Nat), addr + len ≤ hbmTop →
    exec (.recoveryFetch peer addr len) s = .next { s with out := s.out ++ [.fetch peer (Bytes.readN s.hbm.mem addr len)] })

/-! ### Power, clock, temperature and the TAP (14 R394; 17 R463–R467, R473, R475) -/

/-- A sensor at 100 °C or more asserts THERM_ALERT_N, writes a record with SEV 0 and announces a pause; once every sensor has read
97 °C or less for 10 ms the pin is released and the resume count announced, and a hotter reading in between starts the 10 ms again
(14 R394).

A change of VDD_CORE is asked for within 0.68 to 0.88 V, at most 10 mV from the last target, at most once per 1 ms; the third
failed transaction in a row stops changes, with a record of SEV 1, until a retry succeeds (17 R464). -/
def Obligations.HeatPausesAndVoltageChanges : Prop :=
  (∀ (s : State) (temps : List Int), temps.length = 48 → ∃ u, exec (.thermalSample temps) s = .next u ∧
     (∀ i, i < 48 → temps[i]? = some (Sparse.get 0 u.pwr.sensors i)) ∧
     (s.pwr.thermPause = false → (∀ v ∈ temps, v < 100) → u.pwr.thermPause = false ∧ u.pins = s.pins ∧ u.out = s.out ∧ u.flt = s.flt) ∧
     (s.pwr.thermPause = false → (∃ v ∈ temps, 100 ≤ v) → u.pwr.thermPause = true ∧ u.pins = { s.pins with thermAlert := true } ∧
       u.out = s.out ++ [.pause s.announceCount] ∧ u.ag.pause ≠ none ∧ s.flt.head < u.flt.head ∧ u.flt.pend = s.flt.pend) ∧
     (s.pwr.thermPause = true → (∃ v ∈ temps, 97 < v) → u.pwr.thermPause = true ∧ u.pwr.coolSince = none ∧ u.pins = s.pins) ∧
     (s.pwr.thermPause = true → (∀ v ∈ temps, v ≤ 97) →
       (s.pwr.coolSince = none → u.pwr.thermPause = true ∧ u.pwr.coolSince = some s.tb.count ∧ u.pins = s.pins) ∧
       (∀ c, s.pwr.coolSince = some c → s.tb.count < c + 10000000 → u.pwr.thermPause = true ∧ u.pwr.coolSince = some c ∧ u.pins = s.pins) ∧
       (∀ c, s.pwr.coolSince = some c → c + 10000000 ≤ s.tb.count → u.pwr.thermPause = false ∧ u.pwr.coolSince = none ∧
         u.pins = { s.pins with thermAlert := false } ∧ u.out = s.out ++ [.resume s.announceCount] ∧ u.ag.resume ≠ none))) ∧
  (∀ (s : State) (mv : Nat),
     (s.avsAllowed mv = true ↔ s.pins.pwrgd = true ∧ s.pwr.avsStopped = false ∧ 680 ≤ mv ∧ mv ≤ 880 ∧ mv ≤ s.pwr.vcore + 10 ∧
       s.pwr.vcore ≤ mv + 10 ∧ s.pwr.avsLast + 1000000 ≤ s.tb.count) ∧
     (s.avsAllowed mv = false → ∀ good, exec (.avsAdjust mv good) s = .next s) ∧
     (s.avsAllowed mv = true →
       exec (.avsAdjust mv true) s = .next { s with
         pwr := { s.pwr with vcore := mv, avsFails := 0, avsLast := s.tb.count }
         out := s.out ++ [.avs mv] } ∧
       ∃ u, exec (.avsAdjust mv false) s = .next u ∧ u.pwr.avsFails = s.pwr.avsFails + 1 ∧ u.pwr.vcore = s.pwr.vcore ∧
         u.pwr.avsStopped = decide (2 ≤ s.pwr.avsFails) ∧ u.flt.head = s.flt.head + b2n (decide (2 ≤ s.pwr.avsFails)) ∧
         u.tiles = s.tiles ∧ u.gbl = s.gbl) ∧
     (s.pins.pwrgd = true → s.pwr.avsStopped = true → exec (.avsRetry true) s = .next { s with
         pwr := { s.pwr with avsStopped := false, avsFails := 0, avsLast := s.tb.count }
         out := s.out ++ [.avs s.pwr.vcore] } ∧
       exec (.avsRetry false) s = .next { s with out := s.out ++ [.avs s.pwr.vcore] }) ∧
     (s.pins.pwrgd = false ∨ s.pwr.avsStopped = false → ∀ good, exec (.avsRetry good) s = .next s))

/-- The thermal trip, a loss of PWRGD_ALL, of VDD_CORE and of SYSCLK end the main domain: MAIN_EN and READY are low, HBM, tiles and
operations are lost, while the flash image, the fuses, the tile map and the commands waiting stay. A loss of power leaves a SEV 3
record for the next start and asserts FAULT_N; the trip latches THERMTRIP_N and its reset cause (17 R463, R465–R467, R475; log entry
65). The loss of VDD_AUX33 also clears every cause of reset.

The TAP shifts out IDCODE, 0 for BYPASS, HIGHZ and CLAMP, and the levels of the balls a scan names; HIGHZ alone releases the
outputs. It is in the IO18 domain, so it needs the main rails (17 R473; log entry 6). -/
def Obligations.LossesOfPowerAndTheTap : Prop :=
  (let down (s u : State) : Prop := u.pins.mainEn = false ∧ u.pins.ready = false ∧ u.pins.pwrgd = false ∧ u.hbm = Hbm.reset ∧ u.tiles = [] ∧
     u.q = Queues.reset ∧ u.prog = Prog.reset ∧ u.gbl.prog = 0 ∧ u.tm = s.tm ∧ u.fuse = s.fuse ∧ u.lan.journal = s.lan.journal ∧
     u.lan.running = s.lan.running ∧ u.lan.shadow = s.lan.shadow ∧ u.lan.setA = s.lan.setA ∧ u.lan.setB = s.lan.setB ∧
     u.pending = s.pending ∧ u.hpA.mem = s.hpA.mem ∧ u.hpB.mem = s.hpB.mem ∧ u.flt.head = 0 ∧ u.gbl.step = 0 ∧ u.tb.state = .unlocked
   (∀ s : State, s.pins.aux = true → ∃ u, exec .thermtrip s = .next u ∧ down s u ∧ u.pins.thermTrip = true ∧
     u.gbl.rstCause = s.gbl.rstCause ||| 0b10000 ∧ u.pwr.phase = .down ∧ u.pwr.deferred = s.pwr.deferred) ∧
   (∀ s : State, s.pins.mainEn = true → s.pins.pwrgd = true → ∃ u, exec .pwrgdLoss s = .next u ∧ exec .vcoreOutOfRange s = .next u ∧
     down s u ∧ u.pins.faultForced = true ∧ u.pwr.phase = .down ∧ u.pwr.noRetry = true ∧ u.gbl.rstCause = s.gbl.rstCause ∧
     u.pwr.deferred = s.pwr.deferred ++ [(3 * 256 + srcPower, 0)]) ∧
   (∀ s : State, s.pins.mainEn = true → ∃ u, exec .sysclkLoss s = .next u ∧ down s u ∧ u.pins.faultForced = true ∧ u.pwr.phase = .down) ∧
   (∀ s : State, s.pins.mainEn = false → exec .sysclkLoss s = .next { s with pwr := { s.pwr with sysclk := false } } ∧
     exec .vcoreOutOfRange s = .next s ∧ exec .pwrgdLoss s = .next { s with pins := { s.pins with pwrgd := false } }) ∧
   (∀ s : State, s.pins.aux = true → exec .sysclkStable s = .next { s with pwr := { s.pwr with sysclk := true } }) ∧
   (∀ s : State, ∃ u, exec .auxPowerLoss s = .next u ∧ down s u ∧ u.pins.aux = false ∧ u.gbl.rstCause = 0 ∧ u.pwr.deferred = [] ∧
     u.pins.thermTrip = false)) ∧
  (∀ (s : State) (balls : List (Nat × Bool)),
     (s.pins.mainEn = false → ∀ op, exec (.tapInstruction op balls) s = .next s) ∧
     (s.pins.mainEn = true → ∀ op, ∃ u v, exec (.tapInstruction op balls) s = .next u ∧
       u = { s with
         tap := { s.tap with ir := op, dr := v, hiz := decide (op = .highz), balls := if op = .sample ∨ op = .extest then balls else s.tap.balls }
         out := s.out ++ [.tdo v]
         free := if op = .sample ∨ op = .extest then s.free + 1 else s.free } ∧
       (op = .idcode → v.toNat = b2n s.fuse.b0 * 2 ^ 28 + 0x0A09001) ∧
       (op = .bypass ∨ op = .highz ∨ op = .clamp → v = 0) ∧
       (op = .sample ∨ op = .extest → balls.length ≤ 32 → ∀ (i : Nat) (b : Nat × Bool), balls[i]? = some b → v.getLsbD i = Config.ballLevel s.free b.1)))

/-! ### Resets, boot and flash (15 R397–R418, R424; 16 R451; 17 R455–R461) -/

/-- A reset sets every register to its Reset column and loses every memory, keeps the flash and the commands that wait, and adds its
cause to GBL_RST; power-on starts the causes anew and reads the last fallback from the journal (15 R424; 16 R451; 17 R458, R475).

PERST_N of a host port resets its link and translation cache and disables the work rings of that port alone, and the records of
what is in flight there are lost; when it rises the port trains again (12 R353; 17 R461). -/
def Obligations.ResetsAndPerst : Prop :=
  (let fresh (s u : State) : Prop := u.pins.ready = false ∧ u.pins.pwrgd = false ∧ u.pins.thermAlert = false ∧ u.gbl.prog = 0 ∧
     u.gbl.paused = false ∧ u.gbl.step = 0 ∧ u.gbl.partId = 0 ∧ u.tiles = [] ∧ u.hbm = Hbm.reset ∧ u.q = Queues.reset ∧
     u.tb = TimeBase.reset ∧ u.coll = Colls.reset ∧ u.ag = Agree.reset ∧ u.dg = Digests.reset ∧ u.ss = Shadow.reset ∧
     u.flt = FaultLog.reset ∧ u.mbx = Mailbox.reset ∧ u.seqr = StepSeq.reset ∧ u.recov = Recovery.reset ∧ u.prog = Prog.reset ∧
     u.saved = none ∧ u.ix = [] ∧ u.hpOwn = [] ∧ u.tm = s.tm ∧ u.fuse = s.fuse ∧ u.pending = s.pending ∧ u.out = s.out
   let flash (s u : State) : Prop := u.lan.journal = s.lan.journal ∧ u.lan.running = s.lan.running ∧ u.lan.shadow = s.lan.shadow ∧
     u.lan.keyA = s.lan.keyA ∧ u.lan.keyB = s.lan.keyB ∧ u.lan.setA = s.lan.setA ∧ u.lan.setB = s.lan.setB ∧
     u.lan.fuseSvn = s.lan.fuseSvn ∧ u.lan.fuseEpoch = s.lan.fuseEpoch ∧ u.lan.staging = none ∧ u.lan.upd = .idle
   (∀ s : State, s.pins.aux = true → ∃ u, exec .sysRstAssert s = .next u ∧ fresh s u ∧ flash s u ∧ u.pins.mainEn = false ∧
     u.pins.sysRst = false ∧ u.pins.thermTrip = false ∧ u.pwr.phase = .inReset ∧ u.gbl.rstCause = s.gbl.rstCause ||| 0b00010 ∧
     u.lan.lastFb = s.lan.lastFb) ∧
   (∀ s : State, s.pins.aux = false → ∃ u, exec .vddAux33PowerOn s = .next u ∧ fresh s u ∧ flash s u ∧ u.pins.aux = true ∧
     u.pins.sysRst = false ∧ u.pwr.phase = .inReset ∧ u.gbl.rstCause = 0b00001 ∧
     (∀ r, (s.lan.journal.filter fun (x : JRec) => x.type == 0x09).getLast? = some r → u.lan.lastFb = r.arg0.setWidth 3)) ∧
   (∀ s : State, s.alive = true → ∃ u, exec .watchdogReset s = .next u ∧ fresh s u ∧ u.gbl.rstCause = s.gbl.rstCause ||| 0b00100) ∧
   (∀ s : State, s.alive = true → s.lan.confirmArmed = true → ∃ u, exec .confirmTimeout s = .next u ∧ fresh s u ∧
     u.gbl.rstCause = s.gbl.rstCause ||| 0b01000 ∧
     (s.lan.reErase.phase = .pending → slotSectors s.lan.density ≠ 0 → u.lan.running = s.lan.reErase.shadow))) ∧
  (∀ (s : State) (port : Bool),
     (∃ u, exec (.perstAssert port) s = .next u ∧ u.perstHigh port = false ∧ u.perstHigh (!port) = s.perstHigh (!port) ∧
       u.hp port = { s.hp port with rate := 0, width := 0, cxl := false, up := false, tcache := [] } ∧ u.hp (!port) = s.hp (!port) ∧
       (∀ n, n < 128 → (ringPort n = port → (u.work n).enabled = false) ∧ (ringPort n ≠ port → u.work n = s.work n)) ∧
       (∀ (g : Nat) (o : Op), s.op g = some o → ∃ o', u.op g = some o' ∧ o'.lost = (o.lost || ringPort o.ring == port) ∧ o'.phase = o.phase) ∧
       u.tiles = s.tiles ∧ u.hbm = s.hbm ∧ u.gbl = s.gbl) ∧
     (s.perstHigh port = true → exec (.perstDeassert port) s = .next s) ∧
     (s.perstHigh port = false → ∃ u, exec (.perstDeassert port) s = .next u ∧ u.perstHigh port = true ∧
       (s.pins.pwrgd = true → s.portEnabled port = true → (u.hp port).up = true) ∧
       (s.pins.pwrgd = false ∨ s.portEnabled port = false → u.hp port = s.hp port) ∧ u.q = s.q))

/-- The loader boots a running image that is valid, or copies the shadow over it: after an update that was cut short, an image that
stayed unconfirmed for three boots, or one whose timer expired; FORCE_RECOVERY, or no valid image, enters recovery boot. A boot of a
pending image is journalled as an attempt (15 R405, R406, R410, R412). -/
def Obligations.TheLoaderBootsValidImages : Prop :=
  (∀ (l : Lantern) (force confirm : Bool),
    let r := l.loader force confirm
    let l0 := l.reErase
    (force = true → r.2 = true) ∧
    (r.2 = false → r.1.imageValid r.1.running = true) ∧
    (l0.phase = .updating ∨ l0.phase = .fallingBack ∨ (l0.phase = .pending ∧ (3 ≤ l0.attempts ∨ confirm = true)) → r.1.running = l0.shadow) ∧
    (l0.imageValid l0.running = false → l0.imageValid l0.shadow = false → r.2 = true) ∧
    (l0.phase = .pending → l0.attempts < 3 → confirm = false → force = false → l0.imageValid l0.running = true →
      r.2 = false ∧ r.1.running = l0.running ∧ r.1.phase = .pending ∧ r.1.attempts = l0.attempts + 1) ∧
    (l0.phase = .idle → force = false → l0.imageValid l0.running = true → r = (l0, false))) ∧
  (∀ (s : State) (strap : BitVec 4), s.pins.aux = true → s.pins.sysRst = false →
    exec (.sysRstDeassert strap false) s = .next { s with
      pins := { s.pins with sysRst := true, strap := strap, faultForced := true, mainEn := false }
      pwr := { s.pwr with strapHeld := strap, phase := .romHalted } } ∧
    ∃ u, exec (.sysRstDeassert strap true) s = .next u ∧ u.pins.sysRst = true ∧ u.pwr.strapHeld = strap ∧
      (let r := s.lan.loader (strap.getLsbD 3) false
       let dead := decide (slotSectors s.lan.density = 0)
       (dead = true ∨ r.2 = true → u.gbl.recovery = true ∧ u.pins.mainEn = false ∧ u.pins.faultForced = true ∧ u.pwr.phase = .recovery) ∧
       (dead = true → u.pwr.deferred = s.pwr.deferred ++ [(srcLantern, s.lan.density)]) ∧
       (dead = false → r.2 = false → s.pins.thermTrip = false → u.pins.mainEn = true ∧ u.pwr.phase = .mainRequested ∧
         u.lan = { r.1 with confirmArmed := decide (r.1.phase = .pending) }) ∧
       (dead = false → r.2 = false → s.pins.thermTrip = true → u.pins.mainEn = s.pins.mainEn ∧ u.pwr.phase = .down)))

/-- With PWRGD_ALL the part loads its image, runs the core clock of its grade or the settings, and trains every port whose light is
good; without it within tPG it gives up (15 R407–R409; 17 R459, R460; 10 R276, R286). A stack that fails three times is dead and the
part's compute is retired; once every stack is trained or given up the memories are scrubbed to zero, and READY writes the records that
waited (13 R364; 15 R408; 17 R461). -/
def Obligations.BootRunsToReady : Prop :=
  (∀ s : State, s.alive = true → s.pwr.phase = .mainRequested →
    (∃ u, exec .pwrgdAllAssert s = .next u ∧ u.pins.pwrgd = true ∧ u.pwr.phase = .booting ∧ u.pwr.procs = true ∧
      u.pwr.vcore = s.fuse.vcoreTarget ∧ u.out = s.out ++ [.avs s.fuse.vcoreTarget] ∧ u.gbl.restricted = !s.steppingListed ∧
      u.lan = s.lan.convert ∧ u.gbl.clk = (if s.fuse.b14 = true ∨ s.lan.convert.settingNat 0x0007 0 = 1 then 1400 else 1600) ∧
      u.flt.size = s.lan.convert.settingNat 0x0003 4096 ∧
      (∀ n, n < 32 → let light := Sparse.get Light.ok s.lnk.light (n / 8)
        (light = .warn ∨ light = .fail → (u.port n).state = .failed ∧ (u.port n).cause = 3) ∧
        (¬(light = .warn ∨ light = .fail) → (u.port n).state = .training)) ∧
      (∀ b, s.perstHigh b = true → s.portEnabled b = true → (u.hp b).up = true) ∧
      (∀ b, s.perstHigh b = false ∨ s.portEnabled b = false → (u.hp b) = s.hp b)) ∧
    exec .pwrgdTimeout s = .next { s with
      pins := { s.pins with mainEn := false, faultForced := true }
      pwr := { s.pwr with phase := .down, noRetry := true, deferred := s.pwr.deferred ++ [(3 * 256 + srcPower, 0)] } }) ∧
  (∀ (s : State) (k : Fin 8), s.pwr.phase = .booting → Sparse.get false s.pwr.hbmTrained k.val = false →
    Sparse.get 0 s.hbm.dead k.val = 0 → let n := Sparse.get 0 s.pwr.hbmRetries k.val
    exec (.hbmTrainingComplete k true) s = .next { s with pwr := { s.pwr with hbmTrained := Sparse.set false s.pwr.hbmTrained k.val true } } ∧
    (n < 2 → exec (.hbmTrainingComplete k false) s = .next { s with pwr := { s.pwr with hbmRetries := Sparse.set 0 s.pwr.hbmRetries k.val (n + 1) } }) ∧
    (2 ≤ n → exec (.hbmTrainingComplete k false) s = .next { s with
      hbm := { s.hbm with dead := Sparse.set 0 s.hbm.dead k.val 0xFFFFFFFFFFFFFFFF#64 }
      gbl := { s.gbl with retired := true }
      pwr := { s.pwr with deferred := s.pwr.deferred ++ [(3 * 256 + srcHbm, k.val)] } })) ∧
  (∀ s : State, s.pwr.phase = .booting → (s.stacksDone = false → exec .bootScrub s = .next s) ∧
    (s.stacksDone = true → ∃ u, exec .bootScrub s = .next u ∧ u.pwr.phase = .scrubbed ∧ (∀ a, Bytes.read u.hbm.mem a = 0) ∧
      u.hbm.poison = [] ∧ u.coll.buf = [] ∧ (∀ t, (u.tile t).sp = [] ∧ (u.tile t).vb = [] ∧ (u.tile t).acc = [] ∧ (u.tile t).sets = []))) ∧
  (∀ s : State, s.alive = true → s.pwr.phase = .scrubbed → s.pins.mainEn = true → ∃ u, exec .readyAssert s = .next u ∧
    u.pins = { s.pins with ready := true } ∧ u.ready = true ∧ u.pwr = { s.pwr with phase := .up, deferred := [] } ∧
    u.flt.head = s.flt.head + s.pwr.deferred.length)

/-- A pending image that confirms is in phase IDLE from then on, and its tasks after confirmation begin (15 R412, R417).

Sectors of a slot are erased and programmed in turn; the last of the running slot puts the staged image there, the last of the
shadow slot makes it a copy of the running one (15 R413, R416). An erase may be suspended, and an access while the execute-in-place
window is closed is recorded and leaves the flash operation alone (R414). -/
def Obligations.ConfirmationAndFlashSectors : Prop :=
  (∀ s : State,
     (s.lan.phase = .pending → s.pwr.procs = true → s.ready = true → s.lan.inForce.valid = true → ∃ u, exec .confirm s = .next u ∧
       u.lan.phase = .idle ∧ u.lan.confirmArmed = false ∧ u.lan.flashOp ≠ none ∧ u.lan.flashErase = true ∧ u.lan.running = s.lan.running ∧
       (u.lan.oldArea = none → u.lan.flashOp = some u.lan.shadowFirst ∧ u.lan.shadow = .torn)) ∧
     (s.lan.phase ≠ .pending ∨ s.pwr.procs = false ∨ s.ready = false ∨ s.lan.inForce.valid = false → exec .confirm s = .next s)) ∧
  ((∀ s : State, s.lan.flashOp = none → exec .flashOperationEnd s = .next s ∧ exec .eraseSuspend s = .next s ∧
     (∀ task, exec (.xipBusFault task) s = .next s)) ∧
   (∀ (s : State) (n : Nat), s.lan.flashOp = some n → 16 ≤ n →
     (s.lan.flashErase = true → exec .flashOperationEnd s = .next { s with lan := { s.lan.erased n with flashSusp := false, flashErase := false } } ∧
       exec .eraseSuspend s = .next { s with lan := { s.lan with flashSusp := true } }) ∧
     (s.lan.flashErase = false → exec .eraseSuspend s = .next s ∧ ∃ u, exec .flashOperationEnd s = .next u ∧
       (s.lan.slotLast n = false → u.lan.flashOp = some (n + 1) ∧ u.lan.flashErase = true ∧
         (u.lan.journal.getLast?).map (fun (r : JRec) => (r.type, r.arg0)) = some (0x04, BitVec.ofNat 64 (n + 1)) ∧
         u.lan.running = s.lan.running ∧ u.lan.shadow = s.lan.shadow) ∧
       (∀ i, s.lan.slotLast n = true → s.lan.inShadow n = false → s.lan.staging = some i → u.lan.flashOp = none ∧
         u.lan.running = .whole i ∧ u.lan.shadow = s.lan.shadow) ∧
       (s.lan.slotLast n = true → s.lan.inShadow n = true → u.lan.shadow = s.lan.running ∧ u.lan.jstate.closed = true)) ∧
     (∀ task, ∃ u, exec (.xipBusFault task) s = .next u ∧ u.lan = s.lan ∧
       (s.mailboxUp = true → u.flt.head = s.flt.head + 1 ∧ u.pwr = s.pwr) ∧
       (s.mailboxUp = false → u.flt = s.flt ∧ u.pwr.deferred = s.pwr.deferred ++ [(srcLantern, task)]))))

/-! ### MCTP and PLDM (15 R405, R410, R416, R419–R421) -/

/-- MCTP control is answered on the bus it came from in every state but reset: the endpoint ID of a bus is what its owner assigned,
and the message types are control and PLDM. The data of the other answers is the DMTF standards' (15 R405, R419; log entry 31).

PLDM types 0 and 5 are answered by the loader and Lantern, type 2 by Lantern alone: the terminus ID that was set, the types 0, 2 and
5, the reading of a thermal sensor, the states of READY, FAULT_N and THERM_ALERT_N, and the state of the update. Reading changes nothing
but the output and the counter of free values (15 R410, R416, R419, R420; log entry 31). -/
def Obligations.ManagementMessagesAreAnswered : Prop :=
  (∀ (s : State) (bus : Bool),
     (s.controlUp = true →
       (∀ eid, ∃ u, exec (.setEndpointId bus eid) s = .next u ∧ u.lan.eid bus = eid ∧ u.lan.eid (!bus) = s.lan.eid (!bus) ∧
         u = { s with lan := u.lan, out := s.out ++ [.mctp bus ccOk [eid]] }) ∧
       exec (.getEndpointId bus) s = .next { s with out := s.out ++ [.mctp bus ccOk [s.lan.eid bus]] } ∧
       exec (.getEndpointUuid bus) s = .next { s with out := s.out ++ [.mctp bus ccOk (Config.pldmData 0 s.fuse.serial.toNat 0)] } ∧
       (∀ ty, exec (.getMctpVersionSupport bus ty) s = .next { s with out := s.out ++ [.mctp bus ccOk (Config.pldmData 1 ty.toNat 0)] }) ∧
       exec (.getMessageTypeSupport bus) s = .next { s with out := s.out ++ [.mctp bus ccOk [0x00, 0x01]] }) ∧
     (s.controlUp = false → exec (.getEndpointId bus) s = .next s ∧ exec (.getEndpointUuid bus) s = .next s ∧
       exec (.getMessageTypeSupport bus) s = .next s ∧ (∀ v, exec (.setEndpointId bus v) s = .next s ∧
         exec (.getMctpVersionSupport bus v) s = .next s)) ∧
     (s.controlUp = true ↔ s.pins.aux = true ∧ s.pins.sysRst = true ∧ s.pwr.phase ≠ .inReset)) ∧
  (∀ (s : State) (bus : Bool),
     let replies (c : Instr) (code : BitVec 8) (data : List Byte) : Prop := exec c s = .next { s with out := s.out ++ [.mctp bus code data] }
     let asks (c : Instr) (data : List Byte) : Prop :=
       exec c s = .next { s with out := s.out ++ [.mctp bus ccOk data], free := s.free + 1 }
     (s.pldmUp = true →
       (∀ tid, exec (.setTid bus tid) s = .next { s with lan := { s.lan with tid := tid }, out := s.out ++ [.mctp bus ccOk []] }) ∧
       replies (.getTid bus) ccOk [s.lan.tid] ∧ replies (.getPldmTypes bus) ccOk [0, 2, 5] ∧
       (∀ ty : BitVec 8, replies (.getPldmVersion bus ty) ccOk (Config.pldmData 2 ty.toNat 0) ∧
         replies (.getPldmCommands bus ty) ccOk (Config.pldmData 3 ty.toNat 0)) ∧
       replies (.queryDeviceIdentifiers bus) ccOk (Config.pldmData 7 0 0) ∧
       (∀ i, s.lan.running = .whole i → asks (.getFirmwareParameters bus) (Config.pldmData 8 i.version.toNat s.free)) ∧
       asks (.getStatus bus) (BitVec.ofNat 8 s.lan.upd.code :: Config.pldmData 9 s.lan.upd.code s.free)) ∧
     (s.monitorUp = true →
       replies (.getPdrRepositoryInfo bus) ccOk (Config.pldmData 4 0 0) ∧
       (∀ h : BitVec 32, replies (.getPdr bus h) ccOk (Config.pldmData 5 h.toNat 0)) ∧
       (∀ n, n < 48 → replies (.getSensorReading bus n) ccOk (leBytes 2 (wrap 16 (Sparse.get 0 s.pwr.sensors n)))) ∧
       replies (.getStateSensorReadings bus 0) ccOk [BitVec.ofNat 8 (b2n s.pins.ready)] ∧
       replies (.getStateSensorReadings bus 1) ccOk [BitVec.ofNat 8 (b2n s.faultN)] ∧
       replies (.getStateSensorReadings bus 2) ccOk [BitVec.ofNat 8 (b2n s.pins.thermAlert)] ∧
       (∀ n, 4 ≤ n → replies (.getStateSensorReadings bus n) ccInvalidData []) ∧
       (∀ en eid : BitVec 8, exec (.setEventReceiver bus en eid) s = .next { s with
         lan := { s.lan with evRcv := if en = 0 then none else some (bus, eid) }
         out := s.out ++ [.mctp bus ccOk []] }) ∧
       (∀ cls : BitVec 8, asks (.platformEventMessage bus cls) (Config.pldmData 6 cls.toNat s.free))) ∧
     (s.monitorUp = false → exec (.getPdrRepositoryInfo bus) s = .next s ∧ (∀ n, exec (.getSensorReading bus n) s = .next s ∧
       exec (.getStateSensorReadings bus n) s = .next s)) ∧
     (s.pldmUp = false → exec (.getTid bus) s = .next s ∧ exec (.getPldmTypes bus) s = .next s ∧ exec (.getStatus bus) s = .next s ∧
       s.monitorUp = false))

/-- An update goes through its states in order, on the bus that began it: one at a time; the main image or the key manifest, at most
64 MiB, in pieces in order and no larger than the transfer size; a command out of its state is refused and changes nothing (15 R416,
R419, R421). -/
def Obligations.UpdatesGoThroughTheirStates : Prop :=
  ∀ (s : State) (bus : Bool), s.pldmUp = true →
    let replies (c : Instr) (code : BitVec 8) (l : Lantern) : Prop :=
      exec c s = .next { s with lan := l, out := s.out ++ [.mctp bus code []] }
    let l := s.lan
    let mine := decide (l.updBus = bus)
    (∀ n, (l.upd = .idle → replies (.requestUpdate bus n) ccOk { l with
        upd := .learn
        updBus := bus
        maxTransfer := transferSize n
        updStarted := false
        staging := none
        stagingKeys := none
        received := 0 } ∧ 32 ≤ transferSize n ∧ transferSize n ≤ 4096) ∧ (l.upd ≠ .idle → replies (.requestUpdate bus n) ccUpdating l)) ∧
    (∀ comp, (l.upd = .learn → mine = true → comp ≤ 1 → replies (.passComponentTable bus comp) ccOk { l with upd := .ready }) ∧
      (l.upd = .learn → mine = true → 1 < comp → replies (.passComponentTable bus comp) ccInvalidData l) ∧
      (l.upd ≠ .learn ∨ mine = false → replies (.passComponentTable bus comp) ccState l)) ∧
    (∀ comp size, (l.upd = .ready → mine = true → s.gbl.recovery = false →
        (comp ≤ 1 → size ≤ 67108864 → replies (.updateComponent bus comp size) ccOk
          { l with upd := .download, component := comp, compSize := size, received := 0 }) ∧
        (1 < comp ∨ 67108864 < size → replies (.updateComponent bus comp size) ccInvalidData l)) ∧
      (l.upd = .ready → mine = true → s.gbl.recovery = true → comp = 0 → 65536 * l.slotSize < size →
        replies (.updateComponent bus comp size) ccInvalidData l) ∧
      (l.upd ≠ .ready ∨ mine = false → replies (.updateComponent bus comp size) ccState l)) ∧
    (∀ off len, let fits := decide (off = l.received ∧ len ≤ l.maxTransfer ∧ off + len ≤ l.compSize)
      (l.upd = .download → mine = true → fits = true → s.gbl.recovery = false →
        exec (.requestFirmwareData bus off len) s = .next { s with lan := { l with received := off + len } }) ∧
      (l.upd = .download → mine = true → fits = true → s.gbl.recovery = true → l.component = 0 → l.updStarted = false →
        ∃ u, exec (.requestFirmwareData bus off len) s = .next u ∧ u.lan.received = off + len ∧ u.lan.updStarted = true ∧
          u.lan.phase = .updating ∧ u.lan.flashOp = some runningFirst) ∧
      (l.upd = .download → mine = true → fits = false → replies (.requestFirmwareData bus off len) ccInvalidData l) ∧
      (l.upd ≠ .download ∨ mine = false → replies (.requestFirmwareData bus off len) ccState l)) ∧
    (∀ image keys, (l.upd = .download → mine = true → l.received = l.compSize → replies (.transferComplete bus image keys) ccOk
        (if l.component = 0 then { l with upd := .verify, staging := some image } else { l with upd := .verify, stagingKeys := keys })) ∧
      (l.upd = .download → mine = true → l.received ≠ l.compSize → replies (.transferComplete bus image keys) ccState l) ∧
      (l.upd ≠ .download ∨ mine = false → replies (.transferComplete bus image keys) ccState l))

/-- Verification of a staged image checks its tag and format, hash, signatures, security version, stepping and size; a good one goes
to the running slot after the shadow copy is whole, a bad one ends the update with the slots as they were. Read back and valid, it is
journalled PENDING (15 R398, R401–R404, R412, R416).

Activation resets the part at once when it is self-contained and no operation holds a tag, and else waits for the next reset. An
update is cancelled only before UPDATE_STARTED, with the flash as it was; from then on it runs to its end (15 R416, R421, R423). -/
def Obligations.UpdatesAreVerifiedAppliedOrCancelled : Prop :=
  (∀ (s : State) (bus : Bool), s.pldmUp = true → s.lan.updBus = bus → let l := s.lan
     (∀ i, s.stagedGood i = true → i.magic = 0x5A4C4E31 ∧ i.fmtVer = 1 ∧ i.tagOk = true ∧ Config.sha384 i.payload = i.hash ∧ l.signed i = true ∧
       l.fuseSvn ≤ i.svn ∧ i.steppings.getLsbD (b2n s.fuse.b0) = true ∧ i.payloadLen ≤ 54525952) ∧
     (∀ i, l.upd = .verify → l.component = 0 → l.staging = some i → ∃ u, exec (.verifyComplete bus) s = .next u ∧
       (s.stagedGood i = false → u = { s with lan := l.endUpdate, out := s.out ++ [.mctp bus ccInvalidData []] }) ∧
       (s.stagedGood i = true → u.out = s.out ++ [.mctp bus ccOk []] ∧ u.lan.upd = .apply ∧
         (s.gbl.recovery = false → l.shadowValid = true → u.lan.phase = .updating ∧ u.lan.updStarted = true ∧
           u.lan.flashOp = some runningFirst ∧ u.lan.running = .torn ∧ u.lan.shadow = l.shadow) ∧
         (s.gbl.recovery = false → l.shadowValid = false → u.lan.phase = .idle ∧ u.lan.jstate.closed = false ∧
           u.lan.flashOp = some l.shadowFirst ∧ u.lan.running = l.running))) ∧
     (l.upd = .verify → l.component ≠ 0 → ∃ u, exec (.verifyComplete bus) s = .next u ∧
       (l.keysGood = true → u.lan = { l with upd := .apply }) ∧ (l.keysGood = false → u.lan = l.endUpdate) ∧
       u.lan.running = l.running ∧ u.lan.shadow = l.shadow ∧ u.lan.journal = l.journal) ∧
     (∀ good, l.upd = .apply → l.flashOp = none → l.component = 0 → ∃ u, exec (.applyComplete bus good) s = .next u ∧
       (good = true → l.imageValid l.running = true → u.lan.upd = .activate ∧ u.lan.phase = .pending ∧ u.lan.attempts = 0 ∧
         u.lan.running = l.running) ∧
       (good = false ∨ l.imageValid l.running = false → u.lan = { l.endUpdate with running := .torn })) ∧
     (∀ good, l.upd = .apply → l.flashOp = none → l.component ≠ 0 → ∃ u, exec (.applyComplete bus good) s = .next u ∧
       u.lan.upd = .activate ∧ (u.lan.keyA = l.stagingKeys ∨ u.lan.keyB = l.stagingKeys) ∧ u.lan.running = l.running) ∧
     (∀ good, l.upd ≠ .apply ∨ l.flashOp ≠ none → exec (.applyComplete bus good) s = .next { s with out := s.out ++ [.mctp bus ccState []] })) ∧
  (∀ (s : State) (bus : Bool), s.pldmUp = true → let l := s.lan
     (l.upd = .activate → l.updBus = bus →
       exec (.activateFirmware bus false) s = .next { s with lan := { l with upd := .idle }, out := s.out ++ [.mctp bus ccOk []] } ∧
       (s.q.ops ≠ [] → exec (.activateFirmware bus true) s = .next { s with out := s.out ++ [.mctp bus ccNotReady []] }) ∧
       (s.q.ops = [] → ∃ u, exec (.activateFirmware bus true) s = .next u ∧ u.pins.ready = false ∧ u.hbm = Hbm.reset ∧ u.tiles = [] ∧
         u.gbl.rstCause = s.gbl.rstCause ∧ u.lan.upd = .idle ∧ u.out = s.out ++ [.mctp bus ccOk []])) ∧
     (l.upd ≠ .activate ∨ l.updBus ≠ bus → ∀ self,
       exec (.activateFirmware bus self) s = .next { s with out := s.out ++ [.mctp bus ccState []] }) ∧
     (let early := decide (l.updBus = bus ∧ l.updStarted = false)
      (early = true → l.upd = .download ∨ l.upd = .verify ∨ l.upd = .apply → exec (.cancelUpdateComponent bus) s = .next { s with
         lan := { l with upd := .ready, staging := none, stagingKeys := none, received := 0 }
         out := s.out ++ [.mctp bus ccOk []] }) ∧
      (early = true → l.upd ≠ .idle → l.upd ≠ .activate → exec (.cancelUpdate bus) s = .next { s with
         lan := { l with upd := .idle, staging := none, stagingKeys := none, received := 0, updStarted := false }
         out := s.out ++ [.mctp bus ccOk []] }) ∧
      (early = false → exec (.cancelUpdate bus) s = .next { s with out := s.out ++ [.mctp bus ccState []] } ∧
         exec (.cancelUpdateComponent bus) s = .next { s with out := s.out ++ [.mctp bus ccState []] })))

/-! ### Reset and the whole machine (16 R451; 13 R364) -/

/-- At reset every register whose Reset column gives a number reads it: 0, but TB_LEAD 2,000, TB_COLL_TMO 2,000,000, the sizes of the
three digest rings 65,536 and FLT_SIZE 4,096; GBL_CAP and the PART of GBL_ID are fixed. Read here with READY high, since most blocks answer
only then (16 R429–R443; 17 R461). GBL_RSTCAUSE shows the power-on that State.reset stands for (log entry 2).

The canonical forms hold at reset. -/
def Obligations.ResetIsCanonicalAndReadsItsColumn : Prop :=
  (let s : State := { State.reset with pins := { Pins.reset with ready := true } }
   let r (o : Nat) : Nat := (s.regRead o).toNat
   r 0x000 % 256 = 0x09 ∧ r 0x008 % 2 ^ 40 = 1024 + 1088 * 2 ^ 11 + 512 * 2 ^ 22 + 32 * 2 ^ 32 + 2 * 2 ^ 38 ∧ r 0x010 = 1 ∧ r 0x020 = 0 ∧ r 0x040 = 0 ∧
   r 0x028 = 1 ∧ (∀ k, k < 6 → r (0x10000 + 8 * k) = 0) ∧ (∀ i, i < 16 → r (0x10100 + 8 * i) = 0) ∧
   (∀ n k, n < 128 → k < 16 → r (0x20000 + 0x80 * n + 8 * k) = 0) ∧ (∀ i, i < 256 → r (0x24000 + 8 * i) = 0) ∧
   r 0x25000 = 0 ∧ r 0x25008 = 0 ∧ r 0x40000 = 0 ∧ r 0x40010 = 0 ∧ r 0x40018 = 2000 ∧ r 0x40020 = 2000000 ∧ r 0x40028 = 0 ∧ r 0x40030 = 0 ∧
   r 0x40038 = 0 ∧ (∀ n k, n < 32 → k < 9 → r (0x50000 + 0x100 * n + 8 * k) = 0) ∧ (∀ k, k < 32 → r (0x60000 + 8 * k) = 0) ∧
   r 0x80000 = 0 ∧ r 0x80008 = 0 ∧ (∀ k, k < 3 → r (0x80018 + 32 * k) = 65536 ∧ r (0x80020 + 32 * k) = 0 ∧ r (0x80028 + 32 * k) = 0) ∧
   (∀ k, k < 11 → r (0x81000 + 8 * k) = 0) ∧ r 0x90008 = 4096 ∧ r 0x90010 = 0 ∧ r 0x90018 = 0 ∧ r 0x90020 = 0 ∧
   (∀ k, k < 4 → r (0xA0008 + 8 * k) = 0) ∧ State.reset.pins.ready = false ∧ State.reset.pins.mainEn = false ∧ State.reset.pending = [] ∧
   State.reset.op 0 = none ∧ (∀ a, Bytes.read State.reset.hbm.mem a = 0)) ∧
  (State.reset.MemoryCanonical ∧ State.reset.TilesCanonical)

/-- Every command answers a next state in every state, and leaves the queue of waiting commands to the step. -/
def Obligations.EveryCommandAnswersANextState : Prop :=
  ∀ (c : Instr) (s : State), ∃ u, exec c s = .next u ∧ u.pending = s.pending

/-- Every step keeps HBM and the hosts' memories in their canonical form, so equal memories are equal data. -/
def Obligations.StepsKeepMemoryCanonical : Prop :=
  ∀ (s u : State), s.MemoryCanonical → step s = .next u → u.MemoryCanonical

/-- Every step keeps the tiles, and those saved by a pre-emption, in their canonical form: the premise of the statements that read a tile
after all tiles change at once. -/
def Obligations.StepsKeepTilesCanonical : Prop :=
  ∀ (s u : State), s.TilesCanonical → step s = .next u → u.TilesCanonical

/-! ### Saved tensors (08 R221, R222) -/

/-- A plane-packed group that fits gives every bit of its 64 elements back, signed zeros, subnormals, infinities and NaN payloads
included, from a slot of 66 + 8k bytes with FORM 0x00 (08 R221). The places of spilled groups lie in their tile's share, the HBM
share first, and no two groups of a step share a place, for areas of any size that a step plan's 64-bit field holds (R222). -/
def Obligations.PlanePackedGroupsRoundTrip : Prop :=
  (∀ (k : Nat) (l : List Nat), k ∈ [2, 3, 4] → l.length = 64 → (∀ x ∈ l, x < 2 ^ 16) → groupFits k l = true →
    unpackGroup k (packGroup k l) = l ∧ (packGroup k l).length = 66 + 8 * k ∧ slotSpilled (packGroup k l) = false) ∧
  (∀ base size haddr hsize t n u m, size < 2 ^ 64 → n < sharePlaces size + sharePlaces hsize → m < sharePlaces size + sharePlaces hsize →
    let p := spillPlace base size haddr hsize t n
    let q := spillPlace base size haddr hsize u m
    (p.1 = false ↔ n < sharePlaces size) ∧ (p.1 = q.1 → p.2.2 = q.2.2 → t = u ∧ n = m) ∧
    (p.1 = false → base + t * (sharePlaces size) * 128 ≤ p.2.2 ∧ p.2.2 + 128 ≤ base + (t + 1) * (sharePlaces size) * 128) ∧
    (p.1 = true → haddr + t * (sharePlaces hsize) * 128 ≤ p.2.2 ∧ p.2.2 + 128 ≤ haddr + (t + 1) * (sharePlaces hsize) * 128))

end
end

