-- ==== Sys2Proof/Laws/Sparse.lean ====
section
/-!
SUPPORT. Sparse stores and byte memories: a read after a write, what a write leaves alone, and the canonical form that every
operation keeps.
-/

namespace Sys2Proof.Machine

section generic
variable {α : Type}

@[simp] theorem Sparse.get_nil (d : α) (k : Nat) : Sparse.get d [] k = d := rfl

theorem Sparse.get_cons (d : α) (c : Nat × α) (m : Sparse α) (k : Nat) :
    Sparse.get d (c :: m) k = if c.1 = k then c.2 else Sparse.get d m k := rfl

theorem Sparse.get_put_self (d : α) (m : Sparse α) (k : Nat) (v : α) : Sparse.get d (Sparse.put m k v) k = v := by
  induction m with
  | nil => simp [Sparse.put, Sparse.get]
  | cons c m ih =>
    simp only [Sparse.put]
    split
    · simp [Sparse.get]
    · split
      · simp [Sparse.get]
      · rename_i h _; simp [Sparse.get, h, ih]

theorem Sparse.get_put_ne (d : α) (m : Sparse α) {k k' : Nat} (v : α) (h : k' ≠ k) :
    Sparse.get d (Sparse.put m k v) k' = Sparse.get d m k' := by
  induction m with
  | nil => simp [Sparse.put, Sparse.get, Ne.symm h]
  | cons c m ih =>
    simp only [Sparse.put]
    split
    · rename_i e; subst e; simp [Sparse.get, Ne.symm h]
    · split
      · simp [Sparse.get, Ne.symm h]
      · simp [Sparse.get, ih]

theorem Sparse.get_filter (d : α) (p : Nat → Bool) (m : Sparse α) (k : Nat) :
    Sparse.get d (m.filter fun c => p c.1) k = if p k then Sparse.get d m k else d := by
  induction m with
  | nil => simp
  | cons c m ih =>
    rw [List.filter_cons]
    by_cases hp : p c.1 <;> by_cases e : c.1 = k <;> simp_all [Sparse.get]

variable [DecidableEq α]

/-- A read after a write of the same key gives the value written. -/
@[simp] theorem Sparse.get_set_self (d : α) (m : Sparse α) (k : Nat) (v : α) : Sparse.get d (Sparse.set d m k v) k = v := by
  unfold Sparse.set
  split
  · rename_i h
    rw [Sparse.get_filter d (fun c => c != k)]
    simp [h]
  · exact Sparse.get_put_self d m k v

/-- A write leaves every other key alone. -/
@[simp] theorem Sparse.get_set_ne (d : α) (m : Sparse α) {k k' : Nat} (v : α) (h : k' ≠ k) :
    Sparse.get d (Sparse.set d m k v) k' = Sparse.get d m k' := by
  unfold Sparse.set
  split
  · rw [Sparse.get_filter d (fun c => c != k)]
    simp [h]
  · exact Sparse.get_put_ne d m v h

theorem Sparse.get_set (d : α) (m : Sparse α) (k k' : Nat) (v : α) :
    Sparse.get d (Sparse.set d m k v) k' = if k' = k then v else Sparse.get d m k' := by
  split
  · rename_i h; subst h; simp
  · rename_i h; simp [h]

/-- What a replacement of every listed value leaves: a listed key's new value; the default elsewhere. -/
theorem Sparse.get_mapVals (d : α) (f : Nat → α → α) (m : Sparse α) (k : Nat) (hd : f k d = d)
    (hw : ∃ lo, Sparse.wfFrom d lo m = true) :
    Sparse.get d (Sparse.mapVals d f m) k = f k (Sparse.get d m k) := by
  obtain ⟨lo, hw⟩ := hw
  have none : ∀ (m : Sparse α) (lo : Nat), k < lo → Sparse.wfFrom d lo m = true →
      Sparse.get d (Sparse.mapVals d f m) k = d := by
    intro m
    induction m with
    | nil => intros; rfl
    | cons c m ih =>
      intro lo hk h
      simp only [Sparse.wfFrom, Bool.and_eq_true, decide_eq_true_eq] at h
      have := ih (c.1 + 1) (by omega) h.2
      unfold Sparse.mapVals at this ⊢
      rw [List.map_cons, List.filter_cons]
      have hne : c.1 ≠ k := by omega
      split <;> simp_all [Sparse.get]
  induction m generalizing lo with
  | nil => simp [Sparse.mapVals, hd]
  | cons c m ih =>
    simp only [Sparse.wfFrom, Bool.and_eq_true, decide_eq_true_eq] at hw
    have ih := ih (c.1 + 1) hw.2
    have hn := none m (c.1 + 1)
    unfold Sparse.mapVals at ih hn ⊢
    rw [List.map_cons, List.filter_cons]
    by_cases e : c.1 = k
    · have h2 := hn (by omega) hw.2
      split
      · simp [Sparse.get, e]
      · rename_i hf
        simp only [decide_eq_true_eq, ne_eq, Decidable.not_not] at hf
        rw [h2]; simp [Sparse.get, e]; rw [← e]; exact hf.symm
    · split
      · simp only [Sparse.get, e, if_false]; exact ih
      · simp only [Sparse.get, e, if_false]; exact ih

/-! ### The canonical form -/

theorem Sparse.wfFrom_mono (d : α) {lo lo' : Nat} {m : Sparse α} (hl : lo' ≤ lo) (h : Sparse.wfFrom d lo m = true) :
    Sparse.wfFrom d lo' m = true := by
  cases m with
  | nil => rfl
  | cons c m =>
    simp only [Sparse.wfFrom, Bool.and_eq_true, decide_eq_true_eq] at h ⊢
    exact ⟨⟨by omega, h.1.2⟩, h.2⟩

theorem Sparse.wfFrom_put (d : α) {lo k : Nat} {m : Sparse α} {v : α} (hv : v ≠ d) (hk : lo ≤ k)
    (h : Sparse.wfFrom d lo m = true) : Sparse.wfFrom d lo (Sparse.put m k v) = true := by
  induction m generalizing lo with
  | nil => simp [Sparse.put, Sparse.wfFrom, hv, hk]
  | cons c m ih =>
    simp only [Sparse.wfFrom, Bool.and_eq_true, decide_eq_true_eq] at h
    simp only [Sparse.put]
    split
    · rename_i e; subst e
      simp [Sparse.wfFrom, hv, h.2, hk]
    · split
      · simp only [Sparse.wfFrom, Bool.and_eq_true, decide_eq_true_eq]
        exact ⟨⟨hk, hv⟩, ⟨by omega, h.1.2⟩, h.2⟩
      · simp only [Sparse.wfFrom, Bool.and_eq_true, decide_eq_true_eq]
        exact ⟨h.1, ih (by omega) h.2⟩

theorem Sparse.wfFrom_filter (d : α) {lo : Nat} {m : Sparse α} (p : Nat × α → Bool)
    (h : Sparse.wfFrom d lo m = true) : Sparse.wfFrom d lo (m.filter p) = true := by
  induction m generalizing lo with
  | nil => rfl
  | cons c m ih =>
    simp only [Sparse.wfFrom, Bool.and_eq_true, decide_eq_true_eq] at h
    rw [List.filter_cons]
    split
    · simp only [Sparse.wfFrom, Bool.and_eq_true, decide_eq_true_eq]
      exact ⟨h.1, ih h.2⟩
    · exact Sparse.wfFrom_mono d (by omega) (ih h.2)

/-- A write keeps the canonical form. -/
theorem Sparse.wfFrom_set (d : α) {m : Sparse α} (k : Nat) (v : α) (h : Sparse.wfFrom d 0 m = true) :
    Sparse.wfFrom d 0 (Sparse.set d m k v) = true := by
  unfold Sparse.set
  split
  · exact Sparse.wfFrom_filter d _ h
  · rename_i hv; exact Sparse.wfFrom_put d hv (Nat.zero_le _) h

/-- Replacing every listed value keeps the canonical form. -/
theorem Sparse.wfFrom_mapVals (d : α) (f : Nat → α → α) {lo : Nat} {m : Sparse α} (h : Sparse.wfFrom d lo m = true) :
    Sparse.wfFrom d lo (Sparse.mapVals d f m) = true := by
  induction m generalizing lo with
  | nil => rfl
  | cons c m ih =>
    simp only [Sparse.wfFrom, Bool.and_eq_true, decide_eq_true_eq] at h
    have ih := ih h.2
    unfold Sparse.mapVals at ih ⊢
    rw [List.map_cons, List.filter_cons]
    split
    · rename_i hv
      simp only [decide_eq_true_eq] at hv
      simp only [Sparse.wfFrom, Bool.and_eq_true, decide_eq_true_eq]
      exact ⟨⟨h.1.1, hv⟩, ih⟩
    · exact Sparse.wfFrom_mono d (by omega) ih

end generic

/-! ### Byte memories -/

@[simp] theorem Bytes.read_write_self (m : Bytes) (a : Nat) (v : Byte) : Bytes.read (Bytes.write m a v) a = v :=
  Sparse.get_set_self _ _ _ _

@[simp] theorem Bytes.read_write_ne (m : Bytes) {a b : Nat} (v : Byte) (h : b ≠ a) :
    Bytes.read (Bytes.write m a v) b = Bytes.read m b := Sparse.get_set_ne _ _ _ h

/-- A run of bytes leaves every address outside it alone. -/
theorem Bytes.read_writeN_out (m : Bytes) (a b : Nat) (l : List Byte) (h : b < a ∨ a + l.length ≤ b) :
    Bytes.read (Bytes.writeN m a l) b = Bytes.read m b := by
  induction l generalizing m a with
  | nil => rfl
  | cons x l ih =>
    simp only [List.length_cons] at h
    rw [Bytes.writeN, ih _ _ (by omega), Bytes.read_write_ne _ _ (by omega)]

/-- Every byte of a run reads back. -/
theorem Bytes.read_writeN_in (m : Bytes) (a i : Nat) (l : List Byte) (h : i < l.length) :
    Bytes.read (Bytes.writeN m a l) (a + i) = l[i] := by
  induction l generalizing m a i with
  | nil => simp at h
  | cons x l ih =>
    simp only [List.length_cons] at h
    rw [Bytes.writeN]
    cases i with
    | zero => rw [Bytes.read_writeN_out _ _ _ _ (by omega)]; simp
    | succ i =>
      have := ih (Bytes.write m a x) (a + 1) i (by omega)
      rw [show a + (i + 1) = a + 1 + i by omega, this]; simp

/-- Reading back a run just written gives the run. -/
theorem Bytes.readN_writeN (m : Bytes) (a : Nat) (l : List Byte) :
    Bytes.readN (Bytes.writeN m a l) a l.length = l := by
  apply List.ext_getElem
  · simp [Bytes.readN]
  · intro i h1 h2
    simp [Bytes.readN, Bytes.read_writeN_in m a i l h2]

/-- A run read elsewhere is unchanged by a write of a run that does not meet it. -/
theorem Bytes.readN_writeN_out (m : Bytes) (a b n : Nat) (l : List Byte) (h : b + n ≤ a ∨ a + l.length ≤ b) :
    Bytes.readN (Bytes.writeN m a l) b n = Bytes.readN m b n := by
  unfold Bytes.readN
  apply List.map_congr_left
  intro i hi
  rw [List.mem_range] at hi
  exact Bytes.read_writeN_out _ _ _ _ (by omega)

@[simp] theorem Bytes.length_readN (m : Bytes) (a n : Nat) : (Bytes.readN m a n).length = n := by simp [Bytes.readN]

theorem Memory.wf_nil : Memory.wf [] = true := rfl

theorem Memory.wf_write {m : Bytes} (a : Nat) (v : Byte) (h : Memory.wf m = true) : Memory.wf (Bytes.write m a v) = true :=
  Sparse.wfFrom_set _ _ _ h

theorem Memory.wf_writeN {m : Bytes} (a : Nat) (l : List Byte) (h : Memory.wf m = true) :
    Memory.wf (Bytes.writeN m a l) = true := by
  induction l generalizing m a with
  | nil => exact h
  | cons x l ih => exact ih _ (Memory.wf_write _ _ h)

theorem Memory.wf_keep {m : Bytes} (p : Nat → Bool) (h : Memory.wf m = true) : Memory.wf (Bytes.keep m p) = true :=
  Sparse.wfFrom_filter _ _ h

theorem Bytes.read_keep (m : Bytes) (p : Nat → Bool) (a : Nat) :
    Bytes.read (Bytes.keep m p) a = if p a then Bytes.read m a else 0 := Sparse.get_filter _ _ _ _

/-! ### Little-endian numbers -/

@[simp] theorem length_leBytes (n v : Nat) : (leBytes n v).length = n := by
  induction n generalizing v with
  | zero => rfl
  | succ n ih => simp [leBytes, ih]

/-- The number of the n low bytes of v is v modulo 2 to the 8n. -/
theorem leNat_leBytes (n v : Nat) : leNat (leBytes n v) = v % 2 ^ (8 * n) := by
  induction n generalizing v with
  | zero => simp [leBytes, leNat, Nat.mod_one]
  | succ n ih =>
    simp only [leBytes, leNat, ih, BitVec.toNat_ofNat]
    have : 2 ^ (8 * (n + 1)) = 2 ^ 8 * 2 ^ (8 * n) := by rw [← Nat.pow_add]; congr 1; omega
    have e : (2 : Nat) ^ 8 = 256 := rfl
    rw [this, e, Nat.mod_mul]

/-- A number written in n bytes reads back, cut to n bytes. -/
theorem Bytes.readLe_writeLe (m : Bytes) (a n v : Nat) :
    Bytes.readLe (Bytes.writeLe m a n v) a n = v % 2 ^ (8 * n) := by
  unfold Bytes.readLe Bytes.writeLe
  have := Bytes.readN_writeN m a (leBytes n v)
  rw [length_leBytes] at this
  rw [this, leNat_leBytes]

end Sys2Proof.Machine
end

