-- ==== Sys2Proof/Laws/State.lean ====
section
/-!
SUPPORT. What each named update of State leaves of every field, and what it changes, one lemma each.
-/

namespace Sys2Proof.Machine

variable (s : State)

@[simp] theorem State.setTile_pending (t : Nat) (x : Tile) : (s.setTile t x).pending = s.pending := rfl
@[simp] theorem State.setTile_out (t : Nat) (x : Tile) : (s.setTile t x).out = s.out := rfl
@[simp] theorem State.setTile_free (t : Nat) (x : Tile) : (s.setTile t x).free = s.free := rfl
@[simp] theorem State.setTile_fuse (t : Nat) (x : Tile) : (s.setTile t x).fuse = s.fuse := rfl
@[simp] theorem State.setTile_pins (t : Nat) (x : Tile) : (s.setTile t x).pins = s.pins := rfl
@[simp] theorem State.setTile_pwr (t : Nat) (x : Tile) : (s.setTile t x).pwr = s.pwr := rfl
@[simp] theorem State.setTile_tap (t : Nat) (x : Tile) : (s.setTile t x).tap = s.tap := rfl
@[simp] theorem State.setTile_gbl (t : Nat) (x : Tile) : (s.setTile t x).gbl = s.gbl := rfl
@[simp] theorem State.setTile_hpA (t : Nat) (x : Tile) : (s.setTile t x).hpA = s.hpA := rfl
@[simp] theorem State.setTile_hpB (t : Nat) (x : Tile) : (s.setTile t x).hpB = s.hpB := rfl
@[simp] theorem State.setTile_hpOwn (t : Nat) (x : Tile) : (s.setTile t x).hpOwn = s.hpOwn := rfl
@[simp] theorem State.setTile_q (t : Nat) (x : Tile) : (s.setTile t x).q = s.q := rfl
@[simp] theorem State.setTile_prog (t : Nat) (x : Tile) : (s.setTile t x).prog = s.prog := rfl
@[simp] theorem State.setTile_saved (t : Nat) (x : Tile) : (s.setTile t x).saved = s.saved := rfl
@[simp] theorem State.setTile_ix (t : Nat) (x : Tile) : (s.setTile t x).ix = s.ix := rfl
@[simp] theorem State.setTile_hbm (t : Nat) (x : Tile) : (s.setTile t x).hbm = s.hbm := rfl
@[simp] theorem State.setTile_tb (t : Nat) (x : Tile) : (s.setTile t x).tb = s.tb := rfl
@[simp] theorem State.setTile_ag (t : Nat) (x : Tile) : (s.setTile t x).ag = s.ag := rfl
@[simp] theorem State.setTile_coll (t : Nat) (x : Tile) : (s.setTile t x).coll = s.coll := rfl
@[simp] theorem State.setTile_lnk (t : Nat) (x : Tile) : (s.setTile t x).lnk = s.lnk := rfl
@[simp] theorem State.setTile_tm (t : Nat) (x : Tile) : (s.setTile t x).tm = s.tm := rfl
@[simp] theorem State.setTile_dg (t : Nat) (x : Tile) : (s.setTile t x).dg = s.dg := rfl
@[simp] theorem State.setTile_ss (t : Nat) (x : Tile) : (s.setTile t x).ss = s.ss := rfl
@[simp] theorem State.setTile_flt (t : Nat) (x : Tile) : (s.setTile t x).flt = s.flt := rfl
@[simp] theorem State.setTile_mbx (t : Nat) (x : Tile) : (s.setTile t x).mbx = s.mbx := rfl
@[simp] theorem State.setTile_lan (t : Nat) (x : Tile) : (s.setTile t x).lan = s.lan := rfl
@[simp] theorem State.setTile_seqr (t : Nat) (x : Tile) : (s.setTile t x).seqr = s.seqr := rfl
@[simp] theorem State.setTile_recov (t : Nat) (x : Tile) : (s.setTile t x).recov = s.recov := rfl

@[simp] theorem State.setSeq_pending (t : Nat) (x : TileSeq) : (s.setSeq t x).pending = s.pending := rfl
@[simp] theorem State.setSeq_out (t : Nat) (x : TileSeq) : (s.setSeq t x).out = s.out := rfl
@[simp] theorem State.setSeq_free (t : Nat) (x : TileSeq) : (s.setSeq t x).free = s.free := rfl
@[simp] theorem State.setSeq_fuse (t : Nat) (x : TileSeq) : (s.setSeq t x).fuse = s.fuse := rfl
@[simp] theorem State.setSeq_pins (t : Nat) (x : TileSeq) : (s.setSeq t x).pins = s.pins := rfl
@[simp] theorem State.setSeq_pwr (t : Nat) (x : TileSeq) : (s.setSeq t x).pwr = s.pwr := rfl
@[simp] theorem State.setSeq_tap (t : Nat) (x : TileSeq) : (s.setSeq t x).tap = s.tap := rfl
@[simp] theorem State.setSeq_gbl (t : Nat) (x : TileSeq) : (s.setSeq t x).gbl = s.gbl := rfl
@[simp] theorem State.setSeq_hpA (t : Nat) (x : TileSeq) : (s.setSeq t x).hpA = s.hpA := rfl
@[simp] theorem State.setSeq_hpB (t : Nat) (x : TileSeq) : (s.setSeq t x).hpB = s.hpB := rfl
@[simp] theorem State.setSeq_hpOwn (t : Nat) (x : TileSeq) : (s.setSeq t x).hpOwn = s.hpOwn := rfl
@[simp] theorem State.setSeq_q (t : Nat) (x : TileSeq) : (s.setSeq t x).q = s.q := rfl
@[simp] theorem State.setSeq_prog (t : Nat) (x : TileSeq) : (s.setSeq t x).prog = s.prog := rfl
@[simp] theorem State.setSeq_saved (t : Nat) (x : TileSeq) : (s.setSeq t x).saved = s.saved := rfl
@[simp] theorem State.setSeq_ix (t : Nat) (x : TileSeq) : (s.setSeq t x).ix = s.ix := rfl
@[simp] theorem State.setSeq_hbm (t : Nat) (x : TileSeq) : (s.setSeq t x).hbm = s.hbm := rfl
@[simp] theorem State.setSeq_tb (t : Nat) (x : TileSeq) : (s.setSeq t x).tb = s.tb := rfl
@[simp] theorem State.setSeq_ag (t : Nat) (x : TileSeq) : (s.setSeq t x).ag = s.ag := rfl
@[simp] theorem State.setSeq_coll (t : Nat) (x : TileSeq) : (s.setSeq t x).coll = s.coll := rfl
@[simp] theorem State.setSeq_lnk (t : Nat) (x : TileSeq) : (s.setSeq t x).lnk = s.lnk := rfl
@[simp] theorem State.setSeq_tm (t : Nat) (x : TileSeq) : (s.setSeq t x).tm = s.tm := rfl
@[simp] theorem State.setSeq_dg (t : Nat) (x : TileSeq) : (s.setSeq t x).dg = s.dg := rfl
@[simp] theorem State.setSeq_ss (t : Nat) (x : TileSeq) : (s.setSeq t x).ss = s.ss := rfl
@[simp] theorem State.setSeq_flt (t : Nat) (x : TileSeq) : (s.setSeq t x).flt = s.flt := rfl
@[simp] theorem State.setSeq_mbx (t : Nat) (x : TileSeq) : (s.setSeq t x).mbx = s.mbx := rfl
@[simp] theorem State.setSeq_lan (t : Nat) (x : TileSeq) : (s.setSeq t x).lan = s.lan := rfl
@[simp] theorem State.setSeq_seqr (t : Nat) (x : TileSeq) : (s.setSeq t x).seqr = s.seqr := rfl
@[simp] theorem State.setSeq_recov (t : Nat) (x : TileSeq) : (s.setSeq t x).recov = s.recov := rfl

@[simp] theorem State.raiseFlags_pending (t f : Nat) : (s.raiseFlags t f).pending = s.pending := rfl
@[simp] theorem State.raiseFlags_out (t f : Nat) : (s.raiseFlags t f).out = s.out := rfl
@[simp] theorem State.raiseFlags_free (t f : Nat) : (s.raiseFlags t f).free = s.free := rfl
@[simp] theorem State.raiseFlags_fuse (t f : Nat) : (s.raiseFlags t f).fuse = s.fuse := rfl
@[simp] theorem State.raiseFlags_pins (t f : Nat) : (s.raiseFlags t f).pins = s.pins := rfl
@[simp] theorem State.raiseFlags_pwr (t f : Nat) : (s.raiseFlags t f).pwr = s.pwr := rfl
@[simp] theorem State.raiseFlags_tap (t f : Nat) : (s.raiseFlags t f).tap = s.tap := rfl
@[simp] theorem State.raiseFlags_gbl (t f : Nat) : (s.raiseFlags t f).gbl = s.gbl := rfl
@[simp] theorem State.raiseFlags_hpA (t f : Nat) : (s.raiseFlags t f).hpA = s.hpA := rfl
@[simp] theorem State.raiseFlags_hpB (t f : Nat) : (s.raiseFlags t f).hpB = s.hpB := rfl
@[simp] theorem State.raiseFlags_hpOwn (t f : Nat) : (s.raiseFlags t f).hpOwn = s.hpOwn := rfl
@[simp] theorem State.raiseFlags_q (t f : Nat) : (s.raiseFlags t f).q = s.q := rfl
@[simp] theorem State.raiseFlags_prog (t f : Nat) : (s.raiseFlags t f).prog = s.prog := rfl
@[simp] theorem State.raiseFlags_saved (t f : Nat) : (s.raiseFlags t f).saved = s.saved := rfl
@[simp] theorem State.raiseFlags_ix (t f : Nat) : (s.raiseFlags t f).ix = s.ix := rfl
@[simp] theorem State.raiseFlags_hbm (t f : Nat) : (s.raiseFlags t f).hbm = s.hbm := rfl
@[simp] theorem State.raiseFlags_tb (t f : Nat) : (s.raiseFlags t f).tb = s.tb := rfl
@[simp] theorem State.raiseFlags_ag (t f : Nat) : (s.raiseFlags t f).ag = s.ag := rfl
@[simp] theorem State.raiseFlags_coll (t f : Nat) : (s.raiseFlags t f).coll = s.coll := rfl
@[simp] theorem State.raiseFlags_lnk (t f : Nat) : (s.raiseFlags t f).lnk = s.lnk := rfl
@[simp] theorem State.raiseFlags_tm (t f : Nat) : (s.raiseFlags t f).tm = s.tm := rfl
@[simp] theorem State.raiseFlags_dg (t f : Nat) : (s.raiseFlags t f).dg = s.dg := rfl
@[simp] theorem State.raiseFlags_ss (t f : Nat) : (s.raiseFlags t f).ss = s.ss := rfl
@[simp] theorem State.raiseFlags_flt (t f : Nat) : (s.raiseFlags t f).flt = s.flt := rfl
@[simp] theorem State.raiseFlags_mbx (t f : Nat) : (s.raiseFlags t f).mbx = s.mbx := rfl
@[simp] theorem State.raiseFlags_lan (t f : Nat) : (s.raiseFlags t f).lan = s.lan := rfl
@[simp] theorem State.raiseFlags_seqr (t f : Nat) : (s.raiseFlags t f).seqr = s.seqr := rfl
@[simp] theorem State.raiseFlags_recov (t f : Nat) : (s.raiseFlags t f).recov = s.recov := rfl

@[simp] theorem State.emit_pending (o : Out) : (s.emit o).pending = s.pending := rfl
@[simp] theorem State.emit_free (o : Out) : (s.emit o).free = s.free := rfl
@[simp] theorem State.emit_fuse (o : Out) : (s.emit o).fuse = s.fuse := rfl
@[simp] theorem State.emit_pins (o : Out) : (s.emit o).pins = s.pins := rfl
@[simp] theorem State.emit_pwr (o : Out) : (s.emit o).pwr = s.pwr := rfl
@[simp] theorem State.emit_tap (o : Out) : (s.emit o).tap = s.tap := rfl
@[simp] theorem State.emit_gbl (o : Out) : (s.emit o).gbl = s.gbl := rfl
@[simp] theorem State.emit_hpA (o : Out) : (s.emit o).hpA = s.hpA := rfl
@[simp] theorem State.emit_hpB (o : Out) : (s.emit o).hpB = s.hpB := rfl
@[simp] theorem State.emit_hpOwn (o : Out) : (s.emit o).hpOwn = s.hpOwn := rfl
@[simp] theorem State.emit_q (o : Out) : (s.emit o).q = s.q := rfl
@[simp] theorem State.emit_prog (o : Out) : (s.emit o).prog = s.prog := rfl
@[simp] theorem State.emit_saved (o : Out) : (s.emit o).saved = s.saved := rfl
@[simp] theorem State.emit_tiles (o : Out) : (s.emit o).tiles = s.tiles := rfl
@[simp] theorem State.emit_ix (o : Out) : (s.emit o).ix = s.ix := rfl
@[simp] theorem State.emit_hbm (o : Out) : (s.emit o).hbm = s.hbm := rfl
@[simp] theorem State.emit_tb (o : Out) : (s.emit o).tb = s.tb := rfl
@[simp] theorem State.emit_ag (o : Out) : (s.emit o).ag = s.ag := rfl
@[simp] theorem State.emit_coll (o : Out) : (s.emit o).coll = s.coll := rfl
@[simp] theorem State.emit_lnk (o : Out) : (s.emit o).lnk = s.lnk := rfl
@[simp] theorem State.emit_tm (o : Out) : (s.emit o).tm = s.tm := rfl
@[simp] theorem State.emit_dg (o : Out) : (s.emit o).dg = s.dg := rfl
@[simp] theorem State.emit_ss (o : Out) : (s.emit o).ss = s.ss := rfl
@[simp] theorem State.emit_flt (o : Out) : (s.emit o).flt = s.flt := rfl
@[simp] theorem State.emit_mbx (o : Out) : (s.emit o).mbx = s.mbx := rfl
@[simp] theorem State.emit_lan (o : Out) : (s.emit o).lan = s.lan := rfl
@[simp] theorem State.emit_seqr (o : Out) : (s.emit o).seqr = s.seqr := rfl
@[simp] theorem State.emit_recov (o : Out) : (s.emit o).recov = s.recov := rfl

@[simp] theorem State.useFree_pending (n : Nat) : (s.useFree n).pending = s.pending := rfl
@[simp] theorem State.useFree_out (n : Nat) : (s.useFree n).out = s.out := rfl
@[simp] theorem State.useFree_fuse (n : Nat) : (s.useFree n).fuse = s.fuse := rfl
@[simp] theorem State.useFree_pins (n : Nat) : (s.useFree n).pins = s.pins := rfl
@[simp] theorem State.useFree_pwr (n : Nat) : (s.useFree n).pwr = s.pwr := rfl
@[simp] theorem State.useFree_tap (n : Nat) : (s.useFree n).tap = s.tap := rfl
@[simp] theorem State.useFree_gbl (n : Nat) : (s.useFree n).gbl = s.gbl := rfl
@[simp] theorem State.useFree_hpA (n : Nat) : (s.useFree n).hpA = s.hpA := rfl
@[simp] theorem State.useFree_hpB (n : Nat) : (s.useFree n).hpB = s.hpB := rfl
@[simp] theorem State.useFree_hpOwn (n : Nat) : (s.useFree n).hpOwn = s.hpOwn := rfl
@[simp] theorem State.useFree_q (n : Nat) : (s.useFree n).q = s.q := rfl
@[simp] theorem State.useFree_prog (n : Nat) : (s.useFree n).prog = s.prog := rfl
@[simp] theorem State.useFree_saved (n : Nat) : (s.useFree n).saved = s.saved := rfl
@[simp] theorem State.useFree_tiles (n : Nat) : (s.useFree n).tiles = s.tiles := rfl
@[simp] theorem State.useFree_ix (n : Nat) : (s.useFree n).ix = s.ix := rfl
@[simp] theorem State.useFree_hbm (n : Nat) : (s.useFree n).hbm = s.hbm := rfl
@[simp] theorem State.useFree_tb (n : Nat) : (s.useFree n).tb = s.tb := rfl
@[simp] theorem State.useFree_ag (n : Nat) : (s.useFree n).ag = s.ag := rfl
@[simp] theorem State.useFree_coll (n : Nat) : (s.useFree n).coll = s.coll := rfl
@[simp] theorem State.useFree_lnk (n : Nat) : (s.useFree n).lnk = s.lnk := rfl
@[simp] theorem State.useFree_tm (n : Nat) : (s.useFree n).tm = s.tm := rfl
@[simp] theorem State.useFree_dg (n : Nat) : (s.useFree n).dg = s.dg := rfl
@[simp] theorem State.useFree_ss (n : Nat) : (s.useFree n).ss = s.ss := rfl
@[simp] theorem State.useFree_flt (n : Nat) : (s.useFree n).flt = s.flt := rfl
@[simp] theorem State.useFree_mbx (n : Nat) : (s.useFree n).mbx = s.mbx := rfl
@[simp] theorem State.useFree_lan (n : Nat) : (s.useFree n).lan = s.lan := rfl
@[simp] theorem State.useFree_seqr (n : Nat) : (s.useFree n).seqr = s.seqr := rfl
@[simp] theorem State.useFree_recov (n : Nat) : (s.useFree n).recov = s.recov := rfl

@[simp] theorem State.setOp_pending (g : Nat) (o : Option Op) : (s.setOp g o).pending = s.pending := rfl
@[simp] theorem State.setOp_out (g : Nat) (o : Option Op) : (s.setOp g o).out = s.out := rfl
@[simp] theorem State.setOp_free (g : Nat) (o : Option Op) : (s.setOp g o).free = s.free := rfl
@[simp] theorem State.setOp_fuse (g : Nat) (o : Option Op) : (s.setOp g o).fuse = s.fuse := rfl
@[simp] theorem State.setOp_pins (g : Nat) (o : Option Op) : (s.setOp g o).pins = s.pins := rfl
@[simp] theorem State.setOp_pwr (g : Nat) (o : Option Op) : (s.setOp g o).pwr = s.pwr := rfl
@[simp] theorem State.setOp_tap (g : Nat) (o : Option Op) : (s.setOp g o).tap = s.tap := rfl
@[simp] theorem State.setOp_gbl (g : Nat) (o : Option Op) : (s.setOp g o).gbl = s.gbl := rfl
@[simp] theorem State.setOp_hpA (g : Nat) (o : Option Op) : (s.setOp g o).hpA = s.hpA := rfl
@[simp] theorem State.setOp_hpB (g : Nat) (o : Option Op) : (s.setOp g o).hpB = s.hpB := rfl
@[simp] theorem State.setOp_hpOwn (g : Nat) (o : Option Op) : (s.setOp g o).hpOwn = s.hpOwn := rfl
@[simp] theorem State.setOp_prog (g : Nat) (o : Option Op) : (s.setOp g o).prog = s.prog := rfl
@[simp] theorem State.setOp_saved (g : Nat) (o : Option Op) : (s.setOp g o).saved = s.saved := rfl
@[simp] theorem State.setOp_tiles (g : Nat) (o : Option Op) : (s.setOp g o).tiles = s.tiles := rfl
@[simp] theorem State.setOp_ix (g : Nat) (o : Option Op) : (s.setOp g o).ix = s.ix := rfl
@[simp] theorem State.setOp_hbm (g : Nat) (o : Option Op) : (s.setOp g o).hbm = s.hbm := rfl
@[simp] theorem State.setOp_tb (g : Nat) (o : Option Op) : (s.setOp g o).tb = s.tb := rfl
@[simp] theorem State.setOp_ag (g : Nat) (o : Option Op) : (s.setOp g o).ag = s.ag := rfl
@[simp] theorem State.setOp_coll (g : Nat) (o : Option Op) : (s.setOp g o).coll = s.coll := rfl
@[simp] theorem State.setOp_lnk (g : Nat) (o : Option Op) : (s.setOp g o).lnk = s.lnk := rfl
@[simp] theorem State.setOp_tm (g : Nat) (o : Option Op) : (s.setOp g o).tm = s.tm := rfl
@[simp] theorem State.setOp_dg (g : Nat) (o : Option Op) : (s.setOp g o).dg = s.dg := rfl
@[simp] theorem State.setOp_ss (g : Nat) (o : Option Op) : (s.setOp g o).ss = s.ss := rfl
@[simp] theorem State.setOp_flt (g : Nat) (o : Option Op) : (s.setOp g o).flt = s.flt := rfl
@[simp] theorem State.setOp_mbx (g : Nat) (o : Option Op) : (s.setOp g o).mbx = s.mbx := rfl
@[simp] theorem State.setOp_lan (g : Nat) (o : Option Op) : (s.setOp g o).lan = s.lan := rfl
@[simp] theorem State.setOp_seqr (g : Nat) (o : Option Op) : (s.setOp g o).seqr = s.seqr := rfl
@[simp] theorem State.setOp_recov (g : Nat) (o : Option Op) : (s.setOp g o).recov = s.recov := rfl

@[simp] theorem State.setWork_pending (n : Nat) (w : WorkRing) : (s.setWork n w).pending = s.pending := rfl
@[simp] theorem State.setWork_out (n : Nat) (w : WorkRing) : (s.setWork n w).out = s.out := rfl
@[simp] theorem State.setWork_free (n : Nat) (w : WorkRing) : (s.setWork n w).free = s.free := rfl
@[simp] theorem State.setWork_fuse (n : Nat) (w : WorkRing) : (s.setWork n w).fuse = s.fuse := rfl
@[simp] theorem State.setWork_pins (n : Nat) (w : WorkRing) : (s.setWork n w).pins = s.pins := rfl
@[simp] theorem State.setWork_pwr (n : Nat) (w : WorkRing) : (s.setWork n w).pwr = s.pwr := rfl
@[simp] theorem State.setWork_tap (n : Nat) (w : WorkRing) : (s.setWork n w).tap = s.tap := rfl
@[simp] theorem State.setWork_gbl (n : Nat) (w : WorkRing) : (s.setWork n w).gbl = s.gbl := rfl
@[simp] theorem State.setWork_hpA (n : Nat) (w : WorkRing) : (s.setWork n w).hpA = s.hpA := rfl
@[simp] theorem State.setWork_hpB (n : Nat) (w : WorkRing) : (s.setWork n w).hpB = s.hpB := rfl
@[simp] theorem State.setWork_hpOwn (n : Nat) (w : WorkRing) : (s.setWork n w).hpOwn = s.hpOwn := rfl
@[simp] theorem State.setWork_prog (n : Nat) (w : WorkRing) : (s.setWork n w).prog = s.prog := rfl
@[simp] theorem State.setWork_saved (n : Nat) (w : WorkRing) : (s.setWork n w).saved = s.saved := rfl
@[simp] theorem State.setWork_tiles (n : Nat) (w : WorkRing) : (s.setWork n w).tiles = s.tiles := rfl
@[simp] theorem State.setWork_ix (n : Nat) (w : WorkRing) : (s.setWork n w).ix = s.ix := rfl
@[simp] theorem State.setWork_hbm (n : Nat) (w : WorkRing) : (s.setWork n w).hbm = s.hbm := rfl
@[simp] theorem State.setWork_tb (n : Nat) (w : WorkRing) : (s.setWork n w).tb = s.tb := rfl
@[simp] theorem State.setWork_ag (n : Nat) (w : WorkRing) : (s.setWork n w).ag = s.ag := rfl
@[simp] theorem State.setWork_coll (n : Nat) (w : WorkRing) : (s.setWork n w).coll = s.coll := rfl
@[simp] theorem State.setWork_lnk (n : Nat) (w : WorkRing) : (s.setWork n w).lnk = s.lnk := rfl
@[simp] theorem State.setWork_tm (n : Nat) (w : WorkRing) : (s.setWork n w).tm = s.tm := rfl
@[simp] theorem State.setWork_dg (n : Nat) (w : WorkRing) : (s.setWork n w).dg = s.dg := rfl
@[simp] theorem State.setWork_ss (n : Nat) (w : WorkRing) : (s.setWork n w).ss = s.ss := rfl
@[simp] theorem State.setWork_flt (n : Nat) (w : WorkRing) : (s.setWork n w).flt = s.flt := rfl
@[simp] theorem State.setWork_mbx (n : Nat) (w : WorkRing) : (s.setWork n w).mbx = s.mbx := rfl
@[simp] theorem State.setWork_lan (n : Nat) (w : WorkRing) : (s.setWork n w).lan = s.lan := rfl
@[simp] theorem State.setWork_seqr (n : Nat) (w : WorkRing) : (s.setWork n w).seqr = s.seqr := rfl
@[simp] theorem State.setWork_recov (n : Nat) (w : WorkRing) : (s.setWork n w).recov = s.recov := rfl

@[simp] theorem State.setComp_pending (n : Nat) (w : CompRing) : (s.setComp n w).pending = s.pending := rfl
@[simp] theorem State.setComp_out (n : Nat) (w : CompRing) : (s.setComp n w).out = s.out := rfl
@[simp] theorem State.setComp_free (n : Nat) (w : CompRing) : (s.setComp n w).free = s.free := rfl
@[simp] theorem State.setComp_fuse (n : Nat) (w : CompRing) : (s.setComp n w).fuse = s.fuse := rfl
@[simp] theorem State.setComp_pins (n : Nat) (w : CompRing) : (s.setComp n w).pins = s.pins := rfl
@[simp] theorem State.setComp_pwr (n : Nat) (w : CompRing) : (s.setComp n w).pwr = s.pwr := rfl
@[simp] theorem State.setComp_tap (n : Nat) (w : CompRing) : (s.setComp n w).tap = s.tap := rfl
@[simp] theorem State.setComp_gbl (n : Nat) (w : CompRing) : (s.setComp n w).gbl = s.gbl := rfl
@[simp] theorem State.setComp_hpA (n : Nat) (w : CompRing) : (s.setComp n w).hpA = s.hpA := rfl
@[simp] theorem State.setComp_hpB (n : Nat) (w : CompRing) : (s.setComp n w).hpB = s.hpB := rfl
@[simp] theorem State.setComp_hpOwn (n : Nat) (w : CompRing) : (s.setComp n w).hpOwn = s.hpOwn := rfl
@[simp] theorem State.setComp_prog (n : Nat) (w : CompRing) : (s.setComp n w).prog = s.prog := rfl
@[simp] theorem State.setComp_saved (n : Nat) (w : CompRing) : (s.setComp n w).saved = s.saved := rfl
@[simp] theorem State.setComp_tiles (n : Nat) (w : CompRing) : (s.setComp n w).tiles = s.tiles := rfl
@[simp] theorem State.setComp_ix (n : Nat) (w : CompRing) : (s.setComp n w).ix = s.ix := rfl
@[simp] theorem State.setComp_hbm (n : Nat) (w : CompRing) : (s.setComp n w).hbm = s.hbm := rfl
@[simp] theorem State.setComp_tb (n : Nat) (w : CompRing) : (s.setComp n w).tb = s.tb := rfl
@[simp] theorem State.setComp_ag (n : Nat) (w : CompRing) : (s.setComp n w).ag = s.ag := rfl
@[simp] theorem State.setComp_coll (n : Nat) (w : CompRing) : (s.setComp n w).coll = s.coll := rfl
@[simp] theorem State.setComp_lnk (n : Nat) (w : CompRing) : (s.setComp n w).lnk = s.lnk := rfl
@[simp] theorem State.setComp_tm (n : Nat) (w : CompRing) : (s.setComp n w).tm = s.tm := rfl
@[simp] theorem State.setComp_dg (n : Nat) (w : CompRing) : (s.setComp n w).dg = s.dg := rfl
@[simp] theorem State.setComp_ss (n : Nat) (w : CompRing) : (s.setComp n w).ss = s.ss := rfl
@[simp] theorem State.setComp_flt (n : Nat) (w : CompRing) : (s.setComp n w).flt = s.flt := rfl
@[simp] theorem State.setComp_mbx (n : Nat) (w : CompRing) : (s.setComp n w).mbx = s.mbx := rfl
@[simp] theorem State.setComp_lan (n : Nat) (w : CompRing) : (s.setComp n w).lan = s.lan := rfl
@[simp] theorem State.setComp_seqr (n : Nat) (w : CompRing) : (s.setComp n w).seqr = s.seqr := rfl
@[simp] theorem State.setComp_recov (n : Nat) (w : CompRing) : (s.setComp n w).recov = s.recov := rfl

@[simp] theorem State.setIxe_pending (e : Nat) (x : IxEngine) : (s.setIxe e x).pending = s.pending := rfl
@[simp] theorem State.setIxe_out (e : Nat) (x : IxEngine) : (s.setIxe e x).out = s.out := rfl
@[simp] theorem State.setIxe_free (e : Nat) (x : IxEngine) : (s.setIxe e x).free = s.free := rfl
@[simp] theorem State.setIxe_fuse (e : Nat) (x : IxEngine) : (s.setIxe e x).fuse = s.fuse := rfl
@[simp] theorem State.setIxe_pins (e : Nat) (x : IxEngine) : (s.setIxe e x).pins = s.pins := rfl
@[simp] theorem State.setIxe_pwr (e : Nat) (x : IxEngine) : (s.setIxe e x).pwr = s.pwr := rfl
@[simp] theorem State.setIxe_tap (e : Nat) (x : IxEngine) : (s.setIxe e x).tap = s.tap := rfl
@[simp] theorem State.setIxe_gbl (e : Nat) (x : IxEngine) : (s.setIxe e x).gbl = s.gbl := rfl
@[simp] theorem State.setIxe_hpA (e : Nat) (x : IxEngine) : (s.setIxe e x).hpA = s.hpA := rfl
@[simp] theorem State.setIxe_hpB (e : Nat) (x : IxEngine) : (s.setIxe e x).hpB = s.hpB := rfl
@[simp] theorem State.setIxe_hpOwn (e : Nat) (x : IxEngine) : (s.setIxe e x).hpOwn = s.hpOwn := rfl
@[simp] theorem State.setIxe_q (e : Nat) (x : IxEngine) : (s.setIxe e x).q = s.q := rfl
@[simp] theorem State.setIxe_prog (e : Nat) (x : IxEngine) : (s.setIxe e x).prog = s.prog := rfl
@[simp] theorem State.setIxe_saved (e : Nat) (x : IxEngine) : (s.setIxe e x).saved = s.saved := rfl
@[simp] theorem State.setIxe_tiles (e : Nat) (x : IxEngine) : (s.setIxe e x).tiles = s.tiles := rfl
@[simp] theorem State.setIxe_hbm (e : Nat) (x : IxEngine) : (s.setIxe e x).hbm = s.hbm := rfl
@[simp] theorem State.setIxe_tb (e : Nat) (x : IxEngine) : (s.setIxe e x).tb = s.tb := rfl
@[simp] theorem State.setIxe_ag (e : Nat) (x : IxEngine) : (s.setIxe e x).ag = s.ag := rfl
@[simp] theorem State.setIxe_coll (e : Nat) (x : IxEngine) : (s.setIxe e x).coll = s.coll := rfl
@[simp] theorem State.setIxe_lnk (e : Nat) (x : IxEngine) : (s.setIxe e x).lnk = s.lnk := rfl
@[simp] theorem State.setIxe_tm (e : Nat) (x : IxEngine) : (s.setIxe e x).tm = s.tm := rfl
@[simp] theorem State.setIxe_dg (e : Nat) (x : IxEngine) : (s.setIxe e x).dg = s.dg := rfl
@[simp] theorem State.setIxe_ss (e : Nat) (x : IxEngine) : (s.setIxe e x).ss = s.ss := rfl
@[simp] theorem State.setIxe_flt (e : Nat) (x : IxEngine) : (s.setIxe e x).flt = s.flt := rfl
@[simp] theorem State.setIxe_mbx (e : Nat) (x : IxEngine) : (s.setIxe e x).mbx = s.mbx := rfl
@[simp] theorem State.setIxe_lan (e : Nat) (x : IxEngine) : (s.setIxe e x).lan = s.lan := rfl
@[simp] theorem State.setIxe_seqr (e : Nat) (x : IxEngine) : (s.setIxe e x).seqr = s.seqr := rfl
@[simp] theorem State.setIxe_recov (e : Nat) (x : IxEngine) : (s.setIxe e x).recov = s.recov := rfl

@[simp] theorem State.setPort_pending (n : Nat) (p : Port) : (s.setPort n p).pending = s.pending := rfl
@[simp] theorem State.setPort_out (n : Nat) (p : Port) : (s.setPort n p).out = s.out := rfl
@[simp] theorem State.setPort_free (n : Nat) (p : Port) : (s.setPort n p).free = s.free := rfl
@[simp] theorem State.setPort_fuse (n : Nat) (p : Port) : (s.setPort n p).fuse = s.fuse := rfl
@[simp] theorem State.setPort_pins (n : Nat) (p : Port) : (s.setPort n p).pins = s.pins := rfl
@[simp] theorem State.setPort_pwr (n : Nat) (p : Port) : (s.setPort n p).pwr = s.pwr := rfl
@[simp] theorem State.setPort_tap (n : Nat) (p : Port) : (s.setPort n p).tap = s.tap := rfl
@[simp] theorem State.setPort_gbl (n : Nat) (p : Port) : (s.setPort n p).gbl = s.gbl := rfl
@[simp] theorem State.setPort_hpA (n : Nat) (p : Port) : (s.setPort n p).hpA = s.hpA := rfl
@[simp] theorem State.setPort_hpB (n : Nat) (p : Port) : (s.setPort n p).hpB = s.hpB := rfl
@[simp] theorem State.setPort_hpOwn (n : Nat) (p : Port) : (s.setPort n p).hpOwn = s.hpOwn := rfl
@[simp] theorem State.setPort_q (n : Nat) (p : Port) : (s.setPort n p).q = s.q := rfl
@[simp] theorem State.setPort_prog (n : Nat) (p : Port) : (s.setPort n p).prog = s.prog := rfl
@[simp] theorem State.setPort_saved (n : Nat) (p : Port) : (s.setPort n p).saved = s.saved := rfl
@[simp] theorem State.setPort_tiles (n : Nat) (p : Port) : (s.setPort n p).tiles = s.tiles := rfl
@[simp] theorem State.setPort_ix (n : Nat) (p : Port) : (s.setPort n p).ix = s.ix := rfl
@[simp] theorem State.setPort_hbm (n : Nat) (p : Port) : (s.setPort n p).hbm = s.hbm := rfl
@[simp] theorem State.setPort_tb (n : Nat) (p : Port) : (s.setPort n p).tb = s.tb := rfl
@[simp] theorem State.setPort_ag (n : Nat) (p : Port) : (s.setPort n p).ag = s.ag := rfl
@[simp] theorem State.setPort_coll (n : Nat) (p : Port) : (s.setPort n p).coll = s.coll := rfl
@[simp] theorem State.setPort_tm (n : Nat) (p : Port) : (s.setPort n p).tm = s.tm := rfl
@[simp] theorem State.setPort_dg (n : Nat) (p : Port) : (s.setPort n p).dg = s.dg := rfl
@[simp] theorem State.setPort_ss (n : Nat) (p : Port) : (s.setPort n p).ss = s.ss := rfl
@[simp] theorem State.setPort_flt (n : Nat) (p : Port) : (s.setPort n p).flt = s.flt := rfl
@[simp] theorem State.setPort_mbx (n : Nat) (p : Port) : (s.setPort n p).mbx = s.mbx := rfl
@[simp] theorem State.setPort_lan (n : Nat) (p : Port) : (s.setPort n p).lan = s.lan := rfl
@[simp] theorem State.setPort_seqr (n : Nat) (p : Port) : (s.setPort n p).seqr = s.seqr := rfl
@[simp] theorem State.setPort_recov (n : Nat) (p : Port) : (s.setPort n p).recov = s.recov := rfl

/-! ### What they change -/

@[simp] theorem State.setTile_tiles (t : Nat) (x : Tile) : (s.setTile t x).tiles = Sparse.set Tile.reset s.tiles t x := rfl

@[simp] theorem State.tile_setTile_self (t : Nat) (x : Tile) : (s.setTile t x).tile t = x := Sparse.get_set_self _ _ _ _

@[simp] theorem State.tile_setTile_ne {t u : Nat} (x : Tile) (h : u ≠ t) : (s.setTile t x).tile u = s.tile u :=
  Sparse.get_set_ne _ _ _ h

@[simp] theorem State.tile_setSeq_self (t : Nat) (q : TileSeq) : (s.setSeq t q).tile t = { s.tile t with seq := q } :=
  Sparse.get_set_self _ _ _ _

@[simp] theorem State.tile_setSeq_ne {t u : Nat} (q : TileSeq) (h : u ≠ t) : (s.setSeq t q).tile u = s.tile u :=
  Sparse.get_set_ne _ _ _ h

@[simp] theorem State.tile_raiseFlags_self (t f : Nat) :
    (s.raiseFlags t f).tile t = { s.tile t with flags := raise (s.tile t).flags f } := Sparse.get_set_self _ _ _ _

@[simp] theorem State.tile_raiseFlags_ne {t u : Nat} (f : Nat) (h : u ≠ t) : (s.raiseFlags t f).tile u = s.tile u :=
  Sparse.get_set_ne _ _ _ h

@[simp] theorem State.emit_out (o : Out) : (s.emit o).out = s.out ++ [o] := rfl

@[simp] theorem State.useFree_free (n : Nat) : (s.useFree n).free = s.free + n := rfl

@[simp] theorem State.op_setOp_self (g : Nat) (o : Option Op) : (s.setOp g o).op g = o := Sparse.get_set_self _ _ _ _

@[simp] theorem State.op_setOp_ne {g h : Nat} (o : Option Op) (hn : h ≠ g) : (s.setOp g o).op h = s.op h :=
  Sparse.get_set_ne _ _ _ hn

@[simp] theorem State.work_setWork_self (n : Nat) (w : WorkRing) : (s.setWork n w).work n = w := Sparse.get_set_self _ _ _ _

@[simp] theorem State.work_setWork_ne {n m : Nat} (w : WorkRing) (h : m ≠ n) : (s.setWork n w).work m = s.work m :=
  Sparse.get_set_ne _ _ _ h

@[simp] theorem State.comp_setComp_self (n : Nat) (w : CompRing) : (s.setComp n w).comp n = w := Sparse.get_set_self _ _ _ _

@[simp] theorem State.comp_setComp_ne {n m : Nat} (w : CompRing) (h : m ≠ n) : (s.setComp n w).comp m = s.comp m :=
  Sparse.get_set_ne _ _ _ h

@[simp] theorem State.comp_setWork (n m : Nat) (w : WorkRing) : (s.setWork n w).comp m = s.comp m := rfl

@[simp] theorem State.work_setComp (n m : Nat) (w : CompRing) : (s.setComp n w).work m = s.work m := rfl

@[simp] theorem State.op_setWork (g n : Nat) (w : WorkRing) : (s.setWork n w).op g = s.op g := rfl

@[simp] theorem State.op_setComp (g n : Nat) (w : CompRing) : (s.setComp n w).op g = s.op g := rfl

@[simp] theorem State.ixe_setIxe_self (e : Nat) (x : IxEngine) : (s.setIxe e x).ixe e = x := Sparse.get_set_self _ _ _ _

@[simp] theorem State.ixe_setIxe_ne {e f : Nat} (x : IxEngine) (h : f ≠ e) : (s.setIxe e x).ixe f = s.ixe f :=
  Sparse.get_set_ne _ _ _ h

@[simp] theorem State.port_setPort_self (n : Nat) (p : Port) : (s.setPort n p).port n = p := Sparse.get_set_self _ _ _ _

@[simp] theorem State.port_setPort_ne {n m : Nat} (p : Port) (h : m ≠ n) : (s.setPort n p).port m = s.port m :=
  Sparse.get_set_ne _ _ _ h

@[simp] theorem State.hp_setHp_self (b : Bool) (h : HostPort) : (s.setHp b h).hp b = h := by cases b <;> rfl

@[simp] theorem State.hp_setHp_other (b : Bool) (h : HostPort) : (s.setHp b h).hp (!b) = s.hp (!b) := by cases b <;> rfl

@[simp] theorem State.setHp_pending (b : Bool) (h : HostPort) : (s.setHp b h).pending = s.pending := by cases b <;> rfl
@[simp] theorem State.setHp_out (b : Bool) (h : HostPort) : (s.setHp b h).out = s.out := by cases b <;> rfl
@[simp] theorem State.setHp_free (b : Bool) (h : HostPort) : (s.setHp b h).free = s.free := by cases b <;> rfl
@[simp] theorem State.setHp_fuse (b : Bool) (h : HostPort) : (s.setHp b h).fuse = s.fuse := by cases b <;> rfl
@[simp] theorem State.setHp_pins (b : Bool) (h : HostPort) : (s.setHp b h).pins = s.pins := by cases b <;> rfl
@[simp] theorem State.setHp_pwr (b : Bool) (h : HostPort) : (s.setHp b h).pwr = s.pwr := by cases b <;> rfl
@[simp] theorem State.setHp_tap (b : Bool) (h : HostPort) : (s.setHp b h).tap = s.tap := by cases b <;> rfl
@[simp] theorem State.setHp_gbl (b : Bool) (h : HostPort) : (s.setHp b h).gbl = s.gbl := by cases b <;> rfl
@[simp] theorem State.setHp_hpOwn (b : Bool) (h : HostPort) : (s.setHp b h).hpOwn = s.hpOwn := by cases b <;> rfl
@[simp] theorem State.setHp_q (b : Bool) (h : HostPort) : (s.setHp b h).q = s.q := by cases b <;> rfl
@[simp] theorem State.setHp_prog (b : Bool) (h : HostPort) : (s.setHp b h).prog = s.prog := by cases b <;> rfl
@[simp] theorem State.setHp_saved (b : Bool) (h : HostPort) : (s.setHp b h).saved = s.saved := by cases b <;> rfl
@[simp] theorem State.setHp_tiles (b : Bool) (h : HostPort) : (s.setHp b h).tiles = s.tiles := by cases b <;> rfl
@[simp] theorem State.setHp_ix (b : Bool) (h : HostPort) : (s.setHp b h).ix = s.ix := by cases b <;> rfl
@[simp] theorem State.setHp_hbm (b : Bool) (h : HostPort) : (s.setHp b h).hbm = s.hbm := by cases b <;> rfl
@[simp] theorem State.setHp_tb (b : Bool) (h : HostPort) : (s.setHp b h).tb = s.tb := by cases b <;> rfl
@[simp] theorem State.setHp_ag (b : Bool) (h : HostPort) : (s.setHp b h).ag = s.ag := by cases b <;> rfl
@[simp] theorem State.setHp_coll (b : Bool) (h : HostPort) : (s.setHp b h).coll = s.coll := by cases b <;> rfl
@[simp] theorem State.setHp_lnk (b : Bool) (h : HostPort) : (s.setHp b h).lnk = s.lnk := by cases b <;> rfl
@[simp] theorem State.setHp_tm (b : Bool) (h : HostPort) : (s.setHp b h).tm = s.tm := by cases b <;> rfl
@[simp] theorem State.setHp_dg (b : Bool) (h : HostPort) : (s.setHp b h).dg = s.dg := by cases b <;> rfl
@[simp] theorem State.setHp_ss (b : Bool) (h : HostPort) : (s.setHp b h).ss = s.ss := by cases b <;> rfl
@[simp] theorem State.setHp_flt (b : Bool) (h : HostPort) : (s.setHp b h).flt = s.flt := by cases b <;> rfl
@[simp] theorem State.setHp_mbx (b : Bool) (h : HostPort) : (s.setHp b h).mbx = s.mbx := by cases b <;> rfl
@[simp] theorem State.setHp_lan (b : Bool) (h : HostPort) : (s.setHp b h).lan = s.lan := by cases b <;> rfl
@[simp] theorem State.setHp_seqr (b : Bool) (h : HostPort) : (s.setHp b h).seqr = s.seqr := by cases b <;> rfl
@[simp] theorem State.setHp_recov (b : Bool) (h : HostPort) : (s.setHp b h).recov = s.recov := by cases b <;> rfl

end Sys2Proof.Machine
end

