-- ==== Sys2Proof/Laws/Bundle.lean ====
section
/-!
SUPPORT. The end of a bundle: everything it can do, said once.
-/

namespace Sys2Proof.Machine

theorem Bank.trigger_eq (b : Bank) (n : Nat) : ∃ x, b.trigger n = { b with target := x } := by
  have go (y : BankState) : ∃ x, (if b.state = y ∧ b.target = none then b else { b with target := some y }) = { b with target := x } := by
    split
    · exact ⟨b.target, rfl⟩
    · exact ⟨_, rfl⟩
  unfold Bank.trigger
  dsimp only
  split
  · exact go _
  · exact go _
  · exact go _
  · exact ⟨b.target, rfl⟩

/-- A power plan's triggers change nothing but the banks' targets. -/
theorem planTrigger_eq (h : Bytes) (q b : Nat) (x : Tile) : ∃ u v w, planTrigger h q b x = { x with
    bankSp := { x.bankSp with target := u }, bank0 := { x.bank0 with target := v }, bank1 := { x.bank1 with target := w } } := by
  unfold planTrigger
  generalize List.range 16 = l
  induction l generalizing x with
  | nil => exact ⟨x.bankSp.target, x.bank0.target, x.bank1.target, rfl⟩
  | cons i l ih =>
    simp only [List.foldl_cons]
    split
    · obtain ⟨a, ha⟩ := Bank.trigger_eq x.bankSp (field (Bytes.readLe h (0x060 + 4 * i) 4) 15 14)
      obtain ⟨c, hc⟩ := Bank.trigger_eq x.bank0 (field (Bytes.readLe h (0x060 + 4 * i) 4) 13 12)
      obtain ⟨d, hd⟩ := Bank.trigger_eq x.bank1 (field (Bytes.readLe h (0x060 + 4 * i) 4) 11 10)
      rw [ha, hc, hd]
      obtain ⟨u, v, w, e⟩ := ih { x with bankSp := { x.bankSp with target := a }, bank0 := { x.bank0 with target := c },
                                         bank1 := { x.bank1 with target := d } }
      exact ⟨u, v, w, e⟩
    · exact ih x

/-- The registers of a sequencer that steps past a bundle stay. -/
theorem TileSeq.sameRegisters_advance (q : TileSeq) (nb : Nat) : q.SameRegisters (q.advance nb) := by
  unfold TileSeq.SameRegisters TileSeq.advance
  dsimp only
  split <;> rfl

theorem TileSeq.SameRegisters.refl (q : TileSeq) : q.SameRegisters q := rfl

theorem TileSeq.SameRegisters.trans {a b c : TileSeq} (h : a.SameRegisters b) (k : b.SameRegisters c) :
    a.SameRegisters c := by
  unfold TileSeq.SameRegisters at *
  rw [k, h]

/-- A stop that falls due changes the tile's run state and its pending stop only; a halted tile stays halted. -/
theorem Tile.settle_eq (x : Tile) :
    x.settle = { x with seq := { x.seq with run := x.settle.seq.run }, stopAt := x.settle.stopAt } := by
  unfold Tile.settle
  split
  · rfl
  · dsimp only
    split
    · split <;> rfl
    · rfl

theorem Tile.settle_run (x : Tile) : x.settle.seq.run = x.seq.run ∨ (x.seq.run.live = true ∧ x.settle.seq.run = .stopped) := by
  unfold Tile.settle
  split
  · exact .inl rfl
  · split
    · rename_i h
      split
      · exact .inr ⟨h, rfl⟩
      · exact .inl rfl
    · exact .inl rfl

theorem Tile.settle_halted (x : Tile) : x.settle.seq.run = .halted ↔ x.seq.run = .halted := by
  rcases Tile.settle_run x with h | ⟨h, k⟩
  · rw [h]
  · rw [k]
    constructor
    · intro e; cases e
    · intro e; rw [e] at h; cases h

/-- Which accesses a sequencer has passed depends on its section, its place and whether it has halted. -/
theorem withdrawPassed_congr (t : Nat) {q q' : TileSeq} (plan : List Access) (hs : q'.sect = q.sect)
    (hr : q'.run = .halted ↔ q.run = .halted) (hl : q'.loops = q.loops) (hb : q'.bundle = q.bundle) :
    withdrawPassed t q' plan = withdrawPassed t q plan := by
  unfold withdrawPassed TileSeq.pos
  rw [hs, hl, hb]
  simp only [hr]

theorem TileSeq.landLdc_idem (q : TileSeq) : q.landLdc.landLdc = q.landLdc := by
  unfold TileSeq.landLdc
  cases h : q.ldc with
  | none => simp [h]
  | some c => rfl

theorem TileSeq.landLdc_ldc (q : TileSeq) : q.landLdc.ldc = none := by
  unfold TileSeq.landLdc
  cases h : q.ldc with
  | none => simp [h]
  | some c => rfl

theorem TileSeq.landLdc_none {q : TileSeq} (h : q.ldc = none) : q.landLdc = q := by
  unfold TileSeq.landLdc; rw [h]

/-- The sequencer that the C slot's write leaves before it moves on. -/
def State.bundleSeq (s : State) (t : Nat) (f : TileSeq → TileSeq) : TileSeq :=
  let q := (s.tile t).seq.landLdc
  f { q with skip := q.skip - 1 }

/-- A sequencer that moves on while it runs. -/
def TileSeq.move (q : TileSeq) (nb : Nat) : TileSeq := if q.run = .running then q.advance nb else q

/-- Where the sequencer stands after the bundle. -/
def State.bundleNext (s : State) (t : Nat) (f : TileSeq → TileSeq) : TileSeq :=
  let q := (s.bundleSeq t f).move (s.nb t)
  if q.run = .running then q else q.landLdc

theorem TileSeq.landLdc_cycle (q : TileSeq) : q.landLdc.cycle = q.cycle := by unfold TileSeq.landLdc; split <;> rfl

theorem TileSeq.advance_cycle (q : TileSeq) (n : Nat) : (q.advance n).cycle = q.cycle := by
  unfold TileSeq.advance; dsimp only; split <;> rfl

theorem TileSeq.advance_run (q : TileSeq) (n : Nat) (h : (q.advance n).run = .running) : q.run = .running := by
  unfold TileSeq.advance at h
  dsimp only at h
  split at h
  · cases h
  · dsimp only at h
    split at h
    · cases h
    · exact h

/-- The tile at the end of the bundle's cycle, before a stop that falls due. -/
def State.bundleTile (s : State) (t : Nat) (f : TileSeq → TileSeq) : Tile :=
  { planTrigger s.prog.header (s.tile t).seq.sect.toNat (s.tile t).seq.bundle (s.tile t) with
    seq := s.bundleNext t f }.endCycle

/-- The end of a bundle written out: the sequencer of `bundleNext` with one more cycle, which a stop that falls due may stop. -/
theorem State.leaveBundle_eq (s : State) (t : Nat) (f : TileSeq → TileSeq) :
    ∃ u v w r st, s.leaveBundle t f = { s.setTile t { s.tile t with
        seq := { s.bundleNext t f with cycle := (s.bundleNext t f).cycle + 1, run := r }
        bankSp := { (s.tile t).bankSp with target := u }
        bank0 := { (s.tile t).bank0 with target := v }
        bank1 := { (s.tile t).bank1 with target := w }
        port := (s.tile t).port.filter fun e => decide ((s.bundleNext t f).cycle + 1 ≤ e.1)
        stopAt := st } with hbm := { s.hbm with plan := withdrawPassed t (s.bundleNext t f) s.hbm.plan } } ∧
      (r = .halted ↔ (s.bundleNext t f).run = .halted) ∧
      ((s.tile t).stopAt = none → st = none ∧ r = (s.bundleNext t f).run) := by
  obtain ⟨u, v, w, hp⟩ := planTrigger_eq s.prog.header (s.tile t).seq.sect.toNat (s.tile t).seq.bundle (s.tile t)
  have e := Tile.settle_eq (s.bundleTile t f)
  refine ⟨u, v, w, (s.bundleTile t f).settle.seq.run, (s.bundleTile t f).settle.stopAt, ?_, Tile.settle_halted _, ?_⟩
  · have k : s.leaveBundle t f = { s.setTile t (s.bundleTile t f).settle with
        hbm := { s.hbm with plan := withdrawPassed t (s.bundleNext t f) s.hbm.plan } } := by
      unfold State.leaveBundle State.bundleTile
      dsimp only
      rw [hp]
      rfl
    rw [k, e]
    generalize (s.bundleTile t f).settle.seq.run = r
    generalize (s.bundleTile t f).settle.stopAt = st
    unfold State.bundleTile
    rw [hp]
    rfl
  · intro h
    unfold Tile.settle State.bundleTile Tile.endCycle
    rw [hp, h]
    exact ⟨rfl, rfl⟩

theorem State.bundleNext_cycle (s : State) (t : Nat) (f : TileSeq → TileSeq) (hc : ∀ q, (f q).cycle = q.cycle) :
    (s.bundleNext t f).cycle = (s.tile t).seq.cycle := by
  have hb : (s.bundleSeq t f).cycle = (s.tile t).seq.cycle := (hc _).trans (TileSeq.landLdc_cycle _)
  have hm : ((s.bundleSeq t f).move (s.nb t)).cycle = (s.bundleSeq t f).cycle := by
    unfold TileSeq.move
    split
    · exact TileSeq.advance_cycle _ _
    · rfl
  unfold State.bundleNext
  dsimp only
  split
  · rw [hm, hb]
  · rw [TileSeq.landLdc_cycle, hm, hb]

/-- The end of a bundle: the frame, and the registers that the C slot's write leaves (an LDC value on its way lands at once
when the section ends). -/
theorem State.leaveBundle_leaves (s : State) (t : Nat) (f : TileSeq → TileSeq) (q : TileSeq)
    (hc : ∀ q, (f q).cycle = q.cycle) (hq : q.SameRegisters (s.bundleSeq t f)) (hl : (s.bundleSeq t f).ldc = none) :
    BundleLeaves s (s.leaveBundle t f) t q := by
  obtain ⟨u, v, w, r, st, e, hr, -⟩ := State.leaveBundle_eq s t f
  have hcyc := State.bundleNext_cycle s t f hc
  have ht : (s.leaveBundle t f).tile t = { s.tile t with
        seq := { s.bundleNext t f with cycle := (s.bundleNext t f).cycle + 1, run := r }
        bankSp := { (s.tile t).bankSp with target := u }
        bank0 := { (s.tile t).bank0 with target := v }
        bank1 := { (s.tile t).bank1 with target := w }
        port := (s.tile t).port.filter fun e => decide ((s.bundleNext t f).cycle + 1 ≤ e.1)
        stopAt := st } := by rw [e]; exact Sparse.get_set_self _ _ _ _
  refine ⟨⟨?_, ?_, ?_, ?_⟩, ?_⟩
  · rw [ht, e]
    rw [show withdrawPassed t ({ s.bundleNext t f with cycle := (s.bundleNext t f).cycle + 1, run := r }) s.hbm.plan
      = withdrawPassed t (s.bundleNext t f) s.hbm.plan from withdrawPassed_congr _ _ rfl hr rfl rfl]
    rfl
  · intro x hx; rw [e]; exact Sparse.get_set_ne _ _ _ hx
  · rw [ht, ← hcyc]
  · rw [ht, ← hcyc]
  · rw [ht]
    have hn : q.SameRegisters (s.bundleNext t f) := by
      have ha : q.SameRegisters ((s.bundleSeq t f).move (s.nb t)) := by
        unfold TileSeq.move
        split
        · exact hq.trans (TileSeq.sameRegisters_advance _ _)
        · exact hq
      unfold State.bundleNext
      dsimp only
      split
      · exact ha
      · rw [TileSeq.landLdc_none]
        · exact ha
        · rw [ha]; rw [hq] at hl; exact hl
    exact hn.trans (by rfl)

/-- What a C-slot instruction that runs leaves. -/
theorem State.cSlot_leaves (s : State) (t : Nat) (p : Pred) (f : TileSeq → TileSeq → TileSeq) (q : TileSeq)
    (hi : s.issues t = true) (hr : s.runs t p = true)
    (hc : ∀ o q, (f o q).cycle = q.cycle) (hl : ∀ o q, (f o q).ldc = q.ldc)
    (hq : q.SameRegisters (f (s.tile t).seq { (s.tile t).seq.landLdc with skip := (s.tile t).seq.landLdc.skip - 1 })) :
    ∃ u, s.cSlot t p f = u.landAtoms t ∧ BundleLeaves s u t q := by
  unfold State.cSlot
  simp only [hi, hr, if_true]
  refine ⟨_, rfl, ?_⟩
  apply State.leaveBundle_leaves
  · intro q; exact hc _ _
  · exact hq
  · exact (hl _ _).trans (TileSeq.landLdc_ldc _)

/-! ### Where the sequencer stands -/

theorem TileSeq.landLdc_loops (q : TileSeq) : q.landLdc.loops = q.loops := by unfold TileSeq.landLdc; split <;> rfl

theorem TileSeq.landLdc_bundle (q : TileSeq) : q.landLdc.bundle = q.bundle := by unfold TileSeq.landLdc; split <;> rfl

theorem TileSeq.landLdc_run (q : TileSeq) : q.landLdc.run = q.run := by unfold TileSeq.landLdc; split <;> rfl

theorem TileSeq.landLdc_skip (q : TileSeq) : q.landLdc.skip = q.skip := by unfold TileSeq.landLdc; split <;> rfl

theorem TileSeq.landLdc_vl (q : TileSeq) : q.landLdc.vl = q.vl := by unfold TileSeq.landLdc; split <;> rfl

theorem TileSeq.advance_skip (q : TileSeq) (n : Nat) : (q.advance n).skip = q.skip := by
  unfold TileSeq.advance; dsimp only; split <;> rfl

theorem State.issues_run {s : State} {t : Nat} (h : s.issues t = true) : (s.tile t).seq.run = .running := by
  unfold State.issues at h; simp at h; exact h.1.2

/-- With no stop pending, the bundle's end leaves the sequencer of `bundleNext` with one more cycle. -/
theorem State.leaveBundle_seq (s : State) (t : Nat) (f : TileSeq → TileSeq) (hs : (s.tile t).stopAt = none) :
    ((s.leaveBundle t f).tile t).seq = { s.bundleNext t f with cycle := (s.bundleNext t f).cycle + 1 } := by
  obtain ⟨u, v, w, r, st, e, -, h⟩ := State.leaveBundle_eq s t f
  obtain ⟨-, hr⟩ := h hs
  rw [e, hr]
  exact congrArg Tile.seq (Sparse.get_set_self Tile.reset s.tiles t _)

/-- NOP in the C slot only ends the bundle. -/
theorem State.cSlot_nop (s : State) (t : Nat) (p : Pred) (hi : s.issues t = true) :
    s.cSlot t p (fun _ q => q) = s.endBundle t id := by
  unfold State.cSlot
  simp only [hi, if_true]
  congr 1
  funext q
  split <;> rfl

/-- With no atomic of another tile on its way, none acts. -/
theorem State.landAtoms_nil {s : State} {t : Nat} (h : (s.tile t).atoms = []) : s.landAtoms t = s := by
  unfold State.landAtoms; rw [h]

/-- A running sequencer moves on from the bundle. -/
theorem State.bundleNext_running {s : State} {t : Nat} {f : TileSeq → TileSeq} (hr : (s.bundleSeq t f).run = .running) :
    (s.bundleNext t f).bundle = ((s.bundleSeq t f).advance (s.nb t)).bundle ∧
    (s.bundleNext t f).loops = ((s.bundleSeq t f).advance (s.nb t)).loops ∧
    (s.bundleNext t f).run = ((s.bundleSeq t f).advance (s.nb t)).run ∧
    (s.bundleNext t f).skip = ((s.bundleSeq t f).advance (s.nb t)).skip := by
  unfold State.bundleNext TileSeq.move
  simp only [hr, if_true]
  split
  · exact ⟨rfl, rfl, rfl, rfl⟩
  · exact ⟨TileSeq.landLdc_bundle _, TileSeq.landLdc_loops _, TileSeq.landLdc_run _, TileSeq.landLdc_skip _⟩

/-- At a bundle that ends no loop the next bundle follows; past the last bundle the section ends. -/
theorem TileSeq.advance_plain (q : TileSeq) (n : Nat) (h : ∀ f, q.loops.getLast? = some f → q.bundle ≠ f.last) :
    q.advance n = { q with bundle := q.bundle + 1, run := if n ≤ q.bundle + 1 then .halted else q.run } := by
  unfold TileSeq.advance
  rcases List.eq_nil_or_concat q.loops with e | ⟨fs, f, e⟩
  · simp [e, atReplayEnd, stepLoops]
  · have := h f (by rw [e]; simp)
    simp [e, atReplayEnd, stepLoops, this]

end Sys2Proof.Machine
end

