-- ==== Sys2Proof/Laws/Flow.lean ====
section
/-!
SUPPORT. What the shared operations of the links, of announcements and of staging change, said once.
-/

namespace Sys2Proof.Machine

theorem State.setPort_eq (s : State) (n : Nat) (p : Port) : ∃ l, s.setPort n p = { s with lnk := l } := ⟨_, rfl⟩

/-- A flit that is sent to a part waits on a port of this part and nothing else changes. -/
theorem State.sendTo_eq (s : State) (dest : Nat) (f : Flit) : ∃ l, s.sendTo dest f = { s with lnk := l } := by
  unfold State.sendTo
  split
  · exact ⟨s.lnk, rfl⟩
  · exact s.setPort_eq _ _

/-- Flits sent in turn change the ports alone. -/
theorem State.sendAll_eq {α : Type} (dest : α → Nat) (flit : α → Flit) (l : List α) (s : State) :
    ∃ k, l.foldl (fun s p => s.sendTo (dest p) (flit p)) s = { s with lnk := k } := by
  induction l generalizing s with
  | nil => exact ⟨s.lnk, rfl⟩
  | cons p l ih =>
    obtain ⟨a, ha⟩ := s.sendTo_eq (dest p) (flit p)
    obtain ⟨b, hb⟩ := ih (s.sendTo (dest p) (flit p))
    exact ⟨b, by rw [List.foldl_cons, hb, ha]⟩

/-- An announcement leaves in control flits, and `out` holds it. -/
theorem State.announce_eq (s : State) (o : Out) (words : List Nat) :
    ∃ l, s.announce o words = { s with lnk := l, out := s.out ++ [o] } := by
  obtain ⟨l, h⟩ := State.sendAll_eq (fun p => p) (fun p => controlFlit p words) (s.domainParts.filter (· != s.partNo)) s
  exact ⟨l, by unfold State.announce; rw [h]; rfl⟩

/-- A replay point changes the recovery's records alone. -/
theorem State.newPoint_eq (s : State) : ∃ r, s.newPoint = { s with recov := r } := by
  unfold State.newPoint
  dsimp only
  split
  · exact ⟨_, rfl⟩
  · exact ⟨s.recov, rfl⟩

/-- A writer that goes on leaves what it has waited in the shadow engine's registers. -/
theorem State.unstall_eq (s : State) : ∃ x, s.unstall = { s with ss := x } := by
  unfold State.unstall
  split
  · exact ⟨s.ss, rfl⟩
  · exact ⟨_, rfl⟩

/-- A writer either writes, at once or behind segments that leave, or waits with none of its effect. -/
theorem State.writes_cases (s : State) (f : State → State) :
    s.writes f = (f s).unstall
      ∨ ∃ s1, s1 = (s.sendSegs false).drainHost (s.sendSegs false).ss.hostOut ∧ (s.writes f = (f s1).unstall ∨ s.writes f = s1.stallWriter) := by
  unfold State.writes
  split
  · exact .inl rfl
  · refine .inr ⟨_, rfl, ?_⟩
    dsimp only
    split
    · exact .inl rfl
    · exact .inr rfl

end Sys2Proof.Machine
end

