-- ==== Sys2Proof/Laws/Matrix.lean ====
section
/-!
SUPPORT. Row-group status words read back as they were written, runs of lines that all succeed, and what an access to the
scratchpad port or a change of status words leaves alone.
-/

namespace Sys2Proof.Machine

theorem signed_wrap (x : Int) (h : -32768 ≤ x) (h' : x ≤ 32767) : signed 16 (wrap 16 x) = x := by
  unfold signed wrap
  simp only [show (2 : Int) ^ 16 = 65536 by decide, show (2 : Nat) ^ 16 = 65536 by decide, show (16 : Nat) - 1 = 15 by decide,
    show (2 : Nat) ^ 15 = 32768 by decide]
  rcases Int.lt_or_le x 0 with hx | hx
  · have : x % 65536 = x + 65536 := by omega
    rw [this, Nat.mod_eq_of_lt (by omega)]
    rw [if_neg (by omega)]
    omega
  · have : x % 65536 = x := by omega
    rw [this, Nat.mod_eq_of_lt (by omega)]
    rw [if_pos (by omega)]
    omega

theorem wrap_lt (w : Nat) (x : Int) : wrap w x < 2 ^ w := by
  unfold wrap
  have h : (0 : Int) < 2 ^ w := Int.pow_pos (by decide)
  have := Int.emod_lt_of_pos x h
  have := Int.emod_nonneg x (Int.ne_of_gt h)
  have e : ((2 ^ w : Nat) : Int) = 2 ^ w := by simp
  omega

/-- A status word holds its fields. -/
theorem rgUnpack_rgPack (f : RgFields) (h1 : -32768 ≤ f.w) (h2 : f.w ≤ 32767) (h3 : f.base < 256) (h4 : f.rc < 4) :
    rgUnpack (rgPack f) = f := by
  obtain ⟨w, b, sat, rc, pend, step, frz, opn⟩ := f
  have hw := wrap_lt 16 w
  have e := signed_wrap w h1 h2
  generalize hk : wrap 16 w = k at hw e
  simp only at h3 h4
  have hlt : ∀ x : Bool, b2n x ≤ 1 := by intro x; cases x <;> decide
  have := hlt sat; have := hlt pend; have := hlt step; have := hlt frz; have := hlt opn
  unfold rgUnpack rgPack
  simp only [hk, BitVec.toNat_ofNat, Nat.mod_eq_of_lt h3, Nat.mod_eq_of_lt h4]
  have hn : k * 2 ^ 16 + b * 2 ^ 8 + b2n sat * 64 + rc * 16 + b2n pend * 8 + b2n step * 4 + b2n frz * 2 + b2n opn < 2 ^ 32 := by
    omega
  rw [Nat.mod_eq_of_lt hn]
  unfold field bitAt
  simp only [Nat.shiftRight_eq_div_pow, Nat.testBit_eq_decide_div_mod_eq]
  congr 1
  · rw [← e]; congr 1; omega
  · omega
  all_goals first | omega | (cases sat <;> cases pend <;> cases step <;> cases frz <;> cases opn <;>
      simp only [b2n, Bool.false_eq_true, if_true, if_false, decide_eq_true_eq, decide_eq_false_iff_not] <;> omega)

/-- The status words after a change of the words of distinct row groups. -/
theorem Tile.mapWords_get (x : Tile) (gs : List Nat) (f : RgFields → RgFields) (b : Nat) (hd : gs.Nodup) :
    Sparse.get 0 (x.mapWords gs f).rgw b =
      if b ∈ gs then rgPack (f (rgUnpack (Sparse.get 0 x.rgw b))) else Sparse.get 0 x.rgw b := by
  unfold Tile.mapWords
  dsimp only
  generalize x.rgw = m
  induction gs generalizing m with
  | nil => simp
  | cons g gs ih =>
    rw [List.nodup_cons] at hd
    simp only [List.foldl_cons]
    rw [ih hd.2]
    by_cases e : b = g
    · subst e; simp [hd.1]
    · simp [e]

/-- A run of lines in which every line succeeds, with an invariant. -/
theorem runLines_all {α : Type} (step : Nat → α → Except LineStop α) (P : Nat → α → Prop) (n i : Nat) (x : α) (h0 : P i x)
    (h : ∀ j y, i ≤ j → j < i + n → P j y → ∃ z, step j y = .ok z ∧ P (j + 1) z) :
    ∃ y, runLines step n i x = (y, none) ∧ P (i + n) y := by
  induction n generalizing i x with
  | zero => exact ⟨x, rfl, h0⟩
  | succ n ih =>
    obtain ⟨z, hz, hp⟩ := h i x (Nat.le_refl _) (by omega) h0
    obtain ⟨y, hy, hq⟩ := ih (i + 1) z hp (fun j y h1 h2 h3 => h j y (by omega) (by omega) h3)
    refine ⟨y, ?_, ?_⟩
    · unfold runLines; rw [hz]; exact hy
    · rw [show i + (n + 1) = i + 1 + n by omega]; exact hq

end Sys2Proof.Machine
end

