-- ==== Sys2Proof/Laws/Operands.lean ====
section
/-!
SUPPORT. Packed elements read back as they were written, and what a write of a vector operand leaves alone.
-/

namespace Sys2Proof.Machine

theorem ceilDiv_mul_ge (n k : Nat) (h : 0 < k) : n ≤ ceilDiv n k * k := by
  unfold ceilDiv
  have := Nat.div_add_mod (n + k - 1) k
  have := Nat.mod_lt (n + k - 1) h
  rw [Nat.mul_comm]
  omega

theorem fmtBits_pos (f : Nat) : 0 < fmtBits f := by unfold fmtBits; split <;> decide

theorem packNat_lt (f : Nat) (l : List Nat) : packNat f l < 2 ^ (l.length * fmtBits f) := by
  induction l with
  | nil => simp [packNat]
  | cons x l ih =>
    simp only [packNat, List.length_cons, Nat.add_mul, Nat.one_mul, Nat.pow_add]
    have h1 := Nat.mod_lt x (Nat.two_pow_pos (fmtBits f))
    have h2 : packNat f l + 1 ≤ 2 ^ (l.length * fmtBits f) := ih
    have h3 := Nat.mul_le_mul_right (2 ^ fmtBits f) h2
    rw [Nat.add_mul, Nat.one_mul] at h3
    omega

/-- Element i of packed elements, whatever stands above them. -/
theorem packNat_shift (f : Nat) (l : List Nat) (i : Nat) (hi : i < l.length) (r : Nat) :
    ((packNat f l + r * 2 ^ (l.length * fmtBits f)) >>> (i * fmtBits f)) % 2 ^ fmtBits f = l[i] % 2 ^ fmtBits f := by
  induction l generalizing i with
  | nil => simp at hi
  | cons x l ih =>
    have e : packNat f (x :: l) + r * 2 ^ ((x :: l).length * fmtBits f)
        = x % 2 ^ fmtBits f + (packNat f l + r * 2 ^ (l.length * fmtBits f)) * 2 ^ fmtBits f := by
      simp only [packNat, List.length_cons, Nat.add_mul, Nat.one_mul, Nat.pow_add, Nat.mul_assoc]
      omega
    rw [e]
    cases i with
    | zero => simp
    | succ i =>
      simp only [List.length_cons] at hi
      have := ih i (by omega)
      rw [show (i + 1) * fmtBits f = fmtBits f + i * fmtBits f by rw [Nat.add_mul, Nat.one_mul, Nat.add_comm],
        Nat.shiftRight_add]
      rw [show (x % 2 ^ fmtBits f + (packNat f l + r * 2 ^ (l.length * fmtBits f)) * 2 ^ fmtBits f) >>> fmtBits f
        = packNat f l + r * 2 ^ (l.length * fmtBits f) by
          rw [Nat.shiftRight_eq_div_pow, Nat.add_mul_div_right _ _ (Nat.two_pow_pos _),
            Nat.div_eq_of_lt (Nat.mod_lt _ (Nat.two_pow_pos _)), Nat.zero_add]]
      simpa using this

theorem mod_shift_mod (v i w k : Nat) (h : i + w ≤ k) : ((v % 2 ^ k) >>> i) % 2 ^ w = (v >>> i) % 2 ^ w := by
  rw [Nat.shiftRight_eq_div_pow, Nat.shiftRight_eq_div_pow]
  have e : 2 ^ k = 2 ^ i * 2 ^ (k - i) := by rw [← Nat.pow_add]; congr 1; omega
  rw [e, Nat.mod_mul_right_div_self]
  exact Nat.mod_mod_of_dvd _ (Nat.pow_dvd_pow 2 (by omega))

/-- Elements packed over old bytes unpack to themselves, cut to the format's width. -/
theorem unpackElems_packElems (f : Nat) (xs : List Nat) (old : List Byte) :
    unpackElems f xs.length (packElems f xs old) = xs.map (· % 2 ^ fmtBits f) := by
  unfold unpackElems packElems
  dsimp only
  rw [leNat_leBytes]
  apply List.ext_getElem
  · simp
  · intro i h1 h2
    simp only [List.length_map, List.length_range] at h1
    simp only [List.getElem_map, List.getElem_range]
    rw [mod_shift_mod]
    · exact packNat_shift f xs i h1 _
    · have h := ceilDiv_mul_ge (xs.length * fmtBits f) 8 (by decide)
      unfold packedBytes
      have : (i + 1) * fmtBits f ≤ xs.length * fmtBits f := Nat.mul_le_mul_right _ h1
      rw [Nat.add_mul, Nat.one_mul] at this
      omega

/-- The bits past the last element keep what the old bytes hold. -/
theorem packElems_keeps (f : Nat) (xs : List Nat) (old : List Byte) (h : leNat old < 2 ^ (8 * packedBytes f xs.length)) :
    leNat (packElems f xs old) / 2 ^ (xs.length * fmtBits f) = leNat old / 2 ^ (xs.length * fmtBits f) := by
  unfold packElems
  dsimp only
  rw [leNat_leBytes]
  have hp := packNat_lt f xs
  have hm := Nat.div_add_mod (leNat old) (2 ^ (xs.length * fmtBits f))
  have hlt : packNat f xs + leNat old / 2 ^ (xs.length * fmtBits f) * 2 ^ (xs.length * fmtBits f)
      < 2 ^ (8 * packedBytes f xs.length) := by
    have hk : xs.length * fmtBits f ≤ 8 * packedBytes f xs.length := by
      have := ceilDiv_mul_ge (xs.length * fmtBits f) 8 (by decide)
      unfold packedBytes; omega
    obtain ⟨d, hd⟩ := Nat.exists_eq_add_of_le hk
    rw [hd, Nat.pow_add, Nat.mul_comm (2 ^ _) (2 ^ d)]
    have hq : leNat old / 2 ^ (xs.length * fmtBits f) + 1 ≤ 2 ^ d := by
      rw [Nat.succ_le_iff, Nat.div_lt_iff_lt_mul (Nat.two_pow_pos _), ← Nat.pow_add, Nat.add_comm, ← hd]
      exact h
    have := Nat.mul_le_mul_right (2 ^ (xs.length * fmtBits f)) hq
    rw [Nat.add_mul, Nat.one_mul] at this
    omega
  rw [Nat.mod_eq_of_lt hlt, Nat.add_mul_div_right _ _ (Nat.two_pow_pos _), Nat.div_eq_of_lt hp, Nat.zero_add]

theorem leNat_lt (l : List Byte) : leNat l < 2 ^ (8 * l.length) := by
  induction l with
  | nil => simp [leNat]
  | cons b l ih =>
    simp only [leNat, List.length_cons, Nat.mul_add, Nat.mul_one, Nat.pow_add]
    have := b.isLt
    omega

/-- What writing elements at an operand does: they read back, the bits past them stay, every other byte stays, and nothing of
the tile but its vector buffers changes. -/
theorem VbOpnd.setElems_spec (x : Tile) (o : VbOpnd) (xs : List Nat) :
    let y := o.setElems x xs
    let n := packedBytes o.d.fmt xs.length
    y = { x with vb := y.vb } ∧
    o.elems y xs.length = xs.map (· % 2 ^ fmtBits o.d.fmt) ∧
    leNat (o.read y n) / 2 ^ (xs.length * fmtBits o.d.fmt) = leNat (o.read x n) / 2 ^ (xs.length * fmtBits o.d.fmt) ∧
    ∀ a, a < vbAt o.vb o.off.toNat ∨ vbAt o.vb o.off.toNat + n ≤ a → Bytes.read y.vb a = Bytes.read x.vb a := by
  have hl : (packElems o.d.fmt xs (o.read x (packedBytes o.d.fmt xs.length))).length = packedBytes o.d.fmt xs.length := by
    unfold packElems; exact length_leBytes _ _
  have hr : o.read (o.setElems x xs) (packedBytes o.d.fmt xs.length)
      = packElems o.d.fmt xs (o.read x (packedBytes o.d.fmt xs.length)) := by
    have := Bytes.readN_writeN x.vb (vbAt o.vb o.off.toNat) (packElems o.d.fmt xs (o.read x (packedBytes o.d.fmt xs.length)))
    rw [hl] at this
    exact this
  refine ⟨rfl, ?_, ?_, ?_⟩
  · unfold VbOpnd.elems; rw [hr]; exact unpackElems_packElems _ _ _
  · rw [hr]
    apply packElems_keeps
    have := leNat_lt (o.read x (packedBytes o.d.fmt xs.length))
    unfold VbOpnd.read at this ⊢
    rwa [Bytes.length_readN] at this
  · intro a ha
    exact Bytes.read_writeN_out _ _ _ _ (by rw [hl]; exact ha)

end Sys2Proof.Machine
end

