-- ==== Sys2Proof/Laws/PerInstr.lean ====
section
/-!
SUPPORT. The family of statements about commands as syntax: for each constructor, a well-formed command names only things that exist.
-/

namespace Sys2Proof.Laws

end Sys2Proof.Laws
end

