-- ==== Sys2Proof/Laws/Vector.lean ====
section
/-!
SUPPORT. What the write of a vector result does, said once.
-/

namespace Sys2Proof.Machine

theorem State.vecWrite_result (s : State) (t : Nat) (d : VbOpnd) (rs : List Res) : VectorResult s (s.vecWrite t d rs) t d rs := by
  have h := VbOpnd.setElems_spec (s.tile t) d (rs.map (·.1))
  simp only [List.length_map] at h
  obtain ⟨h1, h2, h3, h4⟩ := h
  have ht : (s.vecWrite t d rs).tile t = { s.tile t with
      vb := (VbOpnd.setElems (s.tile t) d (rs.map (·.1))).vb
      flags := raise (s.tile t).flags (rs.foldl (fun a r => a ||| r.2) 0) } := Sparse.get_set_self _ _ _ _
  refine ⟨rfl, fun v hv => Sparse.get_set_ne _ _ _ hv, ?_, ?_, ?_, ?_⟩
  · rw [ht]
  · rw [ht]; rw [List.map_map] at h2; exact h2
  · rw [ht]; exact h3
  · rw [ht]; exact h4

end Sys2Proof.Machine
end

