-- ==== Sys2Proof/Tests/Slice0.lean ====
section
/-!
SUPPORT. The model's own tests, with expected values from the manual's examples and tables; the ill-formed commands that
well-formedness refuses; and, for each statement with hypotheses, a state and operands that meet them together (named wit_).
-/

namespace Sys2Proof.Tests

open Sys2Proof Sys2Proof.Machine

-- One theorem at a time: each waits for the kernel, and a thread for each would ask for more memory than a check allows.
set_option Elab.async false

/-! ### Small states -/

/-- The part READY, with nothing loaded. -/
def up : State := { State.reset with
  pins := { Pins.reset with sysRst := true, mainEn := true, pwrgd := true, ready := true }
  pwr := { Power.reset with phase := .up, procs := true, sysclk := true } }

/-- Tile 0 as given on a part that is READY. -/
def oneTile (x : Tile) : State := up.setTile 0 x

/-- A sequencer that issues at a bundle. -/
def at_ (b : Nat) : TileSeq := { TileSeq.reset with run := .running, bundle := b }

/-- A tile that issues. -/
def issuing : Tile := { Tile.reset with seq := at_ 3 }

/-- An operation. -/
def anOp (opcode : Nat) : Op :=
  { ring := 0, cls := 1, opcode := opcode, dpos := 0, desc := 0, phase := .fetched, statuses := [], result := 0, moved := 0,
    torn := false, heldBefore := false, order := 0, faultAt := none, owed := [], recHeld := false, lost := false, todo := false, image := [], stalled := false }

/-! ### Well-formedness refuses an operand out of its range, and takes the last one in it -/

theorem test_wf_tile : (Instr.safe 1024).wf = false ∧ (Instr.safe 1023).wf = true := by decide
theorem test_wf_landing_tiles : (Instr.signalLanding [0, 1024]).wf = false ∧ (Instr.signalLanding []).wf = true := by decide
theorem test_wf_stall_cycles : (Instr.elasticStall 0 0).wf = false ∧ (Instr.elasticStall 1023 1).wf = true := by decide
theorem test_wf_tag : (Instr.abort 4096).wf = false ∧ (Instr.abort 4095).wf = true := by decide
theorem test_wf_ring : (Instr.ringDisable 128 0).wf = false ∧ (Instr.ringDisable 127 0).wf = true := by decide
theorem test_wf_port : (Instr.lnkDisable 32).wf = false ∧ (Instr.lnkDisable 31).wf = true := by decide
theorem test_wf_engine : (Instr.indexSlotEnd 32).wf = false ∧ (Instr.indexSlotEnd 31).wf = true := by decide
theorem test_wf_page : (Instr.atsInvalidation false (2 ^ 52) true).wf = false ∧ (Instr.atsInvalidation false 0 true).wf = true := by decide
theorem test_wf_flag : (Instr.qFlagWrite 256 0).wf = false ∧ (Instr.qFlagWrite 255 0).wf = true := by decide
theorem test_wf_owner_word : (Instr.hpOwnWrite 16 0).wf = false ∧ (Instr.hpOwnWrite 15 0).wf = true := by decide
theorem test_wf_window_offset : (Instr.registerWrite false (2 ^ 26) 8 0).wf = false ∧ (Instr.registerWrite false 0 8 0).wf = true := by decide
theorem test_wf_aperture_write : (Instr.apertureWrite false (2 ^ 34) [0]).wf = false ∧ (Instr.apertureWrite false (2 ^ 34) []).wf = true := by decide
theorem test_wf_aperture_read : (Instr.apertureRead false (2 ^ 34) 1).wf = false ∧ (Instr.apertureRead false (2 ^ 34) 0).wf = true := by decide
theorem test_wf_part : (Instr.partLoss 4112).wf = false ∧ (Instr.partLoss 4111).wf = true := by decide
theorem test_wf_ready_clock : (Instr.readyMessage 0 1500).wf = false ∧ (Instr.readyMessage 0 1600).wf = true := by decide
theorem test_wf_leg_confirm : (Instr.legConfirm 4096 0 0 0).wf = false ∧ (Instr.legConfirm 4095 0 255 0).wf = true := by decide
theorem test_wf_leg_chunk : (Instr.legConfirm 0 (2 ^ 20) 0 0).wf = false ∧ (Instr.legConfirm 0 0 256 0).wf = false := by decide
theorem test_wf_leg_member : (Instr.legRerequest 0 0 0 (2 ^ 13)).wf = false := by decide
theorem test_wf_timeout_entry : (Instr.collectiveTimeout 4096).wf = false := by decide
theorem test_wf_lane : (Instr.laneLossOfLock 0 18).wf = false ∧ (Instr.laneLossOfLock 0 17).wf = true := by decide
theorem test_wf_lane_window : (Instr.laneErrorWindow 0 0 2 1).wf = false ∧ (Instr.laneErrorWindow 0 0 1 1).wf = true := by decide
theorem test_wf_stack : (Instr.refreshFrame 8 0 0).wf = false ∧ (Instr.refreshFrame 7 63 0).wf = true := by decide
theorem test_wf_pseudo_channel : (Instr.refreshFrame 0 64 0).wf = false := by decide
theorem test_wf_digest_tensor : (Instr.ownerDigestWrite 65536 0).wf = false ∧ (Instr.ownerDigestWrite 65535 0).wf = true := by decide
theorem test_wf_digest_kind : (Instr.digestCollection 0 0 0 5 [] 0).wf = false ∧ (Instr.digestCollection 0 0 0 4 [] 0).wf = true := by decide
theorem test_wf_frame_header : (Instr.shadowFrameHeader []).wf = false := by decide
theorem test_wf_frame_segment : (Instr.shadowSegment []).wf = false := by decide
theorem test_wf_frame_trailer : (Instr.shadowFrameTrailer []).wf = false := by decide
theorem test_wf_fetch_range : (Instr.recoveryFetch 0 (2 ^ 39) 1).wf = false ∧ (Instr.recoveryFetch 0 (2 ^ 39) 0).wf = true := by decide
def aFlit (n : Nat) : Flit :=
  { type := 1, seq := 0, ackSeq := 0, ackV := false, dest := 0, stream := 0, tseq := 0, tport := 0, crc := 0,
    payload := List.replicate n 0, err0 := 0, err1 := 0, inner := none }
theorem test_wf_flit : (Instr.idleFlit 0 (aFlit 255)).wf = false ∧ (Instr.idleFlit 0 (aFlit 256)).wf = true := by decide +kernel
theorem test_wf_samples : (Instr.thermalSample []).wf = false := by decide
theorem test_wf_voltage : (Instr.avsAdjust 679 true).wf = false ∧ (Instr.avsAdjust 880 true).wf = true := by decide

/-! ### Witnesses: the C slot -/

theorem wit_StepRunsFrontCommand : ({ up with pending := [.halt 0, .safe 1] } : State).pending = [.halt 0, .safe 1] := by decide

theorem wit_CSlotRegisterWrites : (oneTile issuing).issues 0 = true ∧ (oneTile issuing).runs 0 Pred.always = true := by decide

/-- Past a loop's inside, at a counted body's end with one iteration left, at its last one, and at a replay body's end. -/
theorem wit_BundleSequencing :
    (oneTile issuing).issues 0 = true ∧ issuing.stopAt = none ∧
    (oneTile { issuing with seq := { at_ 3 with loops := [⟨2, 3, 2, 0, false, 0, 0, 0⟩] } }).issues 0 = true ∧
    (oneTile { issuing with seq := { at_ 3 with loops := [⟨0, 9, 1, 0, false, 0, 0, 0⟩] ++ [⟨2, 3, 2, 1, false, 0, 0, 0⟩] } }).issues 0 = true ∧
    (oneTile { issuing with seq := { at_ 3 with loops := [⟨2, 3, 2, 0, true, 1, 0, 0⟩] } }).issues 0 = true := by decide

def aLoop (rpl : Bool) : LoopOp := { lenm1 := 0, csel := 0, vlset := true, vlm1 := 0, rpl := rpl }

/-- A count of zero, a count of one and a replay loop. -/
theorem wit_LoopStartsItsBody :
    let s := oneTile issuing
    let one := oneTile { issuing with seq := { at_ 3 with cnt := [(0, 1)] } }
    s.issues 0 = true ∧ s.runs 0 Pred.always = true ∧ (s.tile 0).stopAt = none ∧
    (s.tile 0).seq.bundle + (aLoop false).lenm1.toNat + 2 ≤ s.nb 0 ∧ (Sparse.get 0 (s.tile 0).seq.cnt 0).toNat = 0 ∧
    (s.tile 0).seq.loops = [] ∧ one.issues 0 = true ∧ (Sparse.get 0 (one.tile 0).seq.cnt 0).toNat ≠ 0 ∧ (aLoop true).rpl = true := by decide

/-- Without a stop, and with a pre-emption stop that is due. -/
theorem wit_SkipHaltSafe :
    let s := oneTile issuing
    s.issues 0 = true ∧ s.runs 0 Pred.always = true ∧ (s.tile 0).stopAt = none ∧ s.safeStops 0 = false ∧
    ({ s with ag := { s.ag with stop := some ⟨0, 0, stOk, true⟩ } } : State).safeStops 0 = true := by decide

theorem wit_WaitHoldsTheBundle :
    let s := oneTile { issuing with seq := { at_ 3 with run := .waiting, wait := some (5, 1, 40) } }
    let r : State := { s with q := { s.q with flag := [(5, 1)] }, tb := { s.tb with count := 100 } }
    let l : State := { r with q := { r.q with flagLog := [(90, 5, 0)] } }
    (oneTile issuing).issueHeld = false ∧ (oneTile issuing).outFull 0 = false ∧ (issuing.stopAt = none) ∧ issuing.seq.run = .running ∧
    issuing.seq.skip = 0 ∧ (r.tile 0).seq.run = .waiting ∧ (r.tile 0).seq.wait = some (5, 1, 40) ∧ (1 : W64) ≤ r.observed 0 5 ∧
    l.observed 0 5 < (1 : W64) ∧ l.observedAt 0 < 90 ∧ (∀ e ∈ r.q.flagLog, e.1 ≤ r.observedAt 0) := by decide

theorem wit_SignalUpdatesTheFlag :
    let s := oneTile issuing
    s.issues 0 = true ∧ s.runs 0 Pred.always = true ∧ s.reexecuting 0 = false ∧
    ({ s with q := { s.q with landing := [(1, 7, false, 9), (0, 7, false, 8)] } } : State).q.landing = [(1, 7, false, 9), (0, 7, false, 8)] ∧
    s.programRuns = false ∧ s.coll.runs = [] := by decide

/-- A scratchpad tensor of one line at address 0. -/
def aDesc : BitVec 512 := (1#512 <<< 9) ||| (1#512 <<< 424)

theorem wit_LdcValueLandsLate :
    let x := { issuing with dstore := [(0, aDesc)] }
    let s := oneTile x
    let d := (s.tile 0).desc 0
    s.issues 0 = true ∧ s.runs 0 Pred.always = true ∧ d.valid = true ∧ d.space = 0 ∧ d.covers (d.addr []) 4 = true ∧ d.addr [] = 0 ∧
    x.portUser x.seq.cycle = none ∧ x.bankSp.state = .on ∧ (∀ g ∈ granules 0 4, Sparse.get 0 x.spErr g ≠ 2) := by decide +kernel

/-- A body with a block that awaits replay, at its first and its fourth execution, and the reserve. -/
theorem wit_ReplayLoopRuns :
    let f : LoopFrame := ⟨2, 3, 1, 0, true, 1, 0, 0⟩
    let x := { issuing with seq := { at_ 3 with run := .replayEnd, loops := [] ++ [f] }, rgw := [(0, 0b1000)] }
    let y := { x with seq := { x.seq with loops := [] ++ [{ f with execs := 4 }] } }
    let z := { x with seq := { x.seq with run := .reserve } }
    (oneTile x).issueHeld = false ∧ x.stopAt = none ∧ x.seq.run = .replayEnd ∧ x.loopPending = true ∧ y.seq.run = .replayEnd ∧
    z.seq.run = .reserve := by decide

theorem wit_BanksAndElasticStalls :
    let b : Bank := { state := .off, target := some .on }
    let x := { issuing with bankSp := b, bank0 := b, bank1 := b }
    let w := { issuing with seq := { at_ 3 with run := .stalled, need := some (1, [0]) } }
    x.bankSp.target = some .on ∧ x.bank0.target = some .on ∧ x.bank1.target = some .on ∧ (oneTile issuing).stalls 0 = false ∧
    (oneTile w).stalls 0 = true := by decide

/-! ### Witnesses: the V slot -/

/-- Format, space, scale handle and extent in lines of a valid descriptor with base 0. -/
def descBits (fmt space scale extent : Nat) : BitVec 512 :=
  BitVec.ofNat 512 (fmt + space * 2 ^ 5 + 2 ^ 9 + scale * 2 ^ 40 + extent * 2 ^ 424)

/-- Handles 0–3 name FP32 tensors in VB0–VB3; 4 a block-scaled one in VB0 with its scales at 5 in VB1; 6 one of no line. -/
def vecTile : Tile := { issuing with dstore := [(0, descBits fmtFP32 1 0 16), (1, descBits fmtFP32 2 0 16), (2, descBits fmtFP32 3 0 16),
  (3, descBits fmtFP32 4 0 16), (4, descBits fmtE4M3B 1 5 16), (5, descBits fmtE8M0 2 0 16), (6, descBits fmtFP32 1 0 0)] }

def vOp (d a : BitVec 9) : VecOp := { pred := Pred.always, strict := false, d := d, a := a, b := 2, c := 3, rm := 0, sat := false }

/-- Every operand holds VL elements: statements of two, one and three operands. -/
theorem wit_VectorResults :
    let s := oneTile vecTile
    s.issues 0 = true ∧ s.runs 0 (vOp 0 1).pred = true ∧ (∀ h ∈ [0, 1, 2, 3], (vecOpnd (s.tile 0) h (s.tile 0).seq.vl).isOk = true) ∧
    (vecOpnd (s.tile 0) 0 1).isOk = true := by decide +kernel

/-- To FP32, and to a block-scaled format with its scale array. -/
theorem wit_ConversionResults :
    let x := (oneTile vecTile).tile 0
    (vecOpnd x 0 x.seq.vl).isOk = true ∧ (cvtInput x 1 x.seq.vl).isOk = true ∧ isBlock (x.desc 0).fmt = false ∧
    (vecOpnd x 4 x.seq.vl).isOk = true ∧ isBlock (x.desc 4).fmt = true ∧ (scaleOpnd x (x.desc 4) (ceilDiv x.seq.vl 32)).isOk = true := by
  decide +kernel

/-- A destination, and an A operand, without a line. -/
theorem wit_VectorOverrunStops :
    let s := oneTile vecTile
    s.issues 0 = true ∧ s.runs 0 (vOp 6 0).pred = true ∧ (s.tile 0).stopAt = none ∧ (vecOpnd (s.tile 0) 6 (s.tile 0).seq.vl).isOk = false ∧
    (vecOpnd (s.tile 0) 0 (s.tile 0).seq.vl).isOk = true := by decide +kernel

theorem wit_SuppressedInstructionsWriteNothing :
    let s := oneTile { issuing with seq := { at_ 3 with skip := 1 } }
    s.issues 0 = true ∧ s.runs 0 Pred.always = false := by decide

/-- A value, and a quiet and a signalling NaN, in each format of the comparison table. -/
theorem wit_ComparisonTable :
    (∀ f ∈ [fmtFP16, fmtBF16, fmtFP32, fmtFP64], (decodeVal f 0).isNan = false ∧ decodeVal f (canonNan f) = .nan false) ∧
    decodeVal fmtFP16 0x7C01 = .nan true ∧ decodeVal fmtBF16 0x7F81 = .nan true ∧ decodeVal fmtFP32 0x7F800001 = .nan true ∧
    decodeVal fmtFP64 0x7FF0000000000001 = .nan true := by decide +kernel

/-- 1, 0 and Inf, none of them subnormal. -/
theorem wit_DivisionCases :
    ∀ f ∈ [fmtFP16, fmtBF16, fmtFP32, fmtFP64], isSubnormal f 0 = false ∧ isSubnormal f (infBits f false) = false ∧
      (decodeVal f 0).isZero = true ∧ decodeVal f (infBits f false) = .inf false ∧ decodeVal fmtFP32 0x3F800000 = .fin false 8388608 (-23) := by decide +kernel

/-! ### Arithmetic: the manual's examples (01 R16, R29–R43) -/

/-- E4M3 with RTZ: 500 overflows, 470 does not (01 R37). -/
theorem test_cvt_rtz_overflow :
    cvtVal 1 .rtz false 0 (decodeVal fmtFP32 0x43FA0000) = (0x7F, fOF ||| fNX) ∧
    cvtVal 1 .rtz true 0 (decodeVal fmtFP32 0x43FA0000) = (0x7E, fOF ||| fNX) ∧
    cvtVal 1 .rtz false 0 (decodeVal fmtFP32 0x43EB0000) = (0x7E, fNX) := by decide +kernel

/-- The block of the example under 01 R40. -/
def exBlock : List FVal := decodeVal fmtFP32 0x40540000 :: .fin true 79 (-13) :: .fin false 1 (-17) :: List.replicate 29 (.fin false 0 0)

theorem test_cvt_block_example :
    (cvtBlock fmtE4M3B .rne (List.replicate 32 0) exBlock).1 = 0x78 ∧
    (cvtBlock fmtE4M3B .rne (List.replicate 32 0) exBlock).2.1.take 3 = [0x7D, 0xBA, 0x00] ∧
    (cvtBlock fmtE4M3B .rne (List.replicate 32 0) exBlock).2.2 = fUF ||| fNX := by decide +kernel

theorem test_cvt_block_sr_example :
    (cvtBlock fmtE4M3B .sr (0xD0000000 :: List.replicate 31 0) exBlock).2.1.head? = some 0x7E ∧
    (cvtBlock fmtE4M3B .sr (0x12345678 :: List.replicate 31 0) exBlock).2.1.head? = some 0x7D := by decide +kernel

/-- The block sum example of 02: V at W = −20, drained to FP32 and to BF16. -/
theorem test_drain_block_sum :
    let e : AccEntry := { AccEntry.zero with v := 36028430 }
    (drainEntry fmtFP32 .rne false (-20) e).1 = 0x42097004 ∧ decodeVal fmtBF16 (drainEntry fmtBF16 .rne false (-20) e).1 = .fin false 137 (-2) := by
  decide +kernel

/-- The FP64-slice example of 02. -/
theorem test_drain_fp64_slice :
    (drainEntry fmtFP64 .rne false (-96) { AccEntry.zero with v := 0x00000001000000000000200000000000 }).1 = 0x3FF0000000000002 := by
  decide +kernel

/-- The scatter-add example of 03 R101. -/
theorem test_scatter_order :
    let one := 0x3F800000
    (fpAdd true fmtFP32 (fpAdd true fmtFP32 (fpAdd true fmtFP32 0 0x4B800000).1 one).1 one).1 = 0x4B800000 := by decide +kernel

/-- The worked LD64 example of 05, and the one flipped bit of 14. -/
theorem test_ld64_example :
    ld64 [0x3F800000, 0xC0000000, 0] = 0x13B5D23E1DA36FF4 ∧ ld64 [0x3F800000, 0xC0000001, 0] = 0x13B5D33E1E036FFD := by decide +kernel

/-- The SUM over five members of 11 R314. -/
theorem test_pair_and_chain :
    let l : List (List Nat) := [[0x4B800000], [0x3F800000], [0x3F800000], [0x3F800000], [0x3F800000]]
    reduceAll false 0 fmtFP32 l = [0x4B800002] ∧ reduceAll true 0 fmtFP32 l = [0x4B800000] := by decide +kernel

/-- The packing example of 09 R256. -/
theorem test_pack_example :
    packDiffs [0, 0, 0, 0, 0, 0x1FB, 0, 3, 0, 0] = [0x5, 0x80000003, 0x1FB, 0, 3, 2] := by decide +kernel

/-! ### Witnesses: the M slot -/

/-- Handle 0 a scratchpad tensor of 16 lines of E4M3, 1 one on link 1, 2 one in VB0 (FP32); link 1 holds a line. -/
def memTile : Tile := { issuing with
  dstore := [(0, descBits 1 0 0 16), (1, descBits 1 7 0 16 ||| (1#512 <<< 59)), (2, descBits fmtFP32 1 0 16), (3, descBits fmtINT32 5 0 16 ||| (1#512 <<< 49)),
    (4, descBits 1 6 0 16), (5, descBits fmtINT32 0 0 16)]
  links := [(1, [{ src := 1, sent := 0, arr := 0, line := List.replicate 128 1 }])] }

def aLds (src : Bool) : LdsOp := { pred := Pred.always, set := false, form := true, src := src, handle := if src then 1 else 0, lm1 := 0 }

/-- From the scratchpad, and from a link. -/
theorem wit_StationarySetsLoad :
    let s := oneTile memTile
    let x := s.tile 0
    s.acts 0 (aLds false).pred = true ∧ (x.desc 0).valid = true ∧ (x.desc 0).space = 0 ∧ x.bankSp.state = .on ∧ x.spErr = [] ∧
    (∀ i, i < 1 → (x.desc 0).covers ((x.desc 0).addr x.seq.li + (128 * i : Nat)) 128 = true ∧ inSp (128 * i : Nat) 128 = true) ∧
    x.portUser x.seq.cycle = none ∧ (x.desc 1).valid = true ∧ (x.desc 1).space = 7 ∧ x.linkReady (x.desc 1).link [0] = true ∧
    (issuing : Tile).linkReady (x.desc 1).link [0] = false := by
  decide +kernel

/-- One vector of E4M3 against a set of E4M3: no entry saturates. -/
theorem wit_AccumulatorPasses :
    let s := oneTile memTile
    let x := s.tile 0
    let r := s.stream 0 false (x.desc 0) 0 (vecBytes 1 64) (vecCycles 0) 1
    s.acts 0 Pred.always = true ∧ matClass 1 = some 0 ∧ (x.desc 0).valid = true ∧ (x.desc 0).space = 0 ∧ (x.desc 0).dchk = false ∧
    x.bankSp.state = .on ∧ r.map (fun e => (e.2.1.length, e.2.2)) = some (1, none) ∧
    (x.accumulateAll [(0, fun _ => List.replicate 64 ColSum.none)]).2.sat = 0 := by decide +kernel

/-- An entry that would reach the limit: frozen, with a replay left, and with none left. -/
theorem wit_AccumulationRule :
    let big : ColSum := { ColSum.none with v := accLimit }
    let word (rc : Nat) (frz : Bool) : W32 := rgPack ⟨0, 0, false, rc, false, false, frz, true⟩
    let x (rc : Nat) (frz : Bool) : Tile := { issuing with rgw := [(0, word rc frz)], blkLen := [(0, 1)] }
    (x 0 false).accMarked 0 2 = [] ∧ AccEntry.zero.overflows big = true ∧ AccEntry.zero.overflows ColSum.none = false ∧
    (rgUnpack (Sparse.get 0 (x 0 true).rgw 0)).frz = true ∧ (rgUnpack (Sparse.get 0 (x 0 false).rgw 0)).rc < 3 ∧
    (rgUnpack (Sparse.get 0 (x 3 false).rgw 0)).rc = 3 ∧ (x 0 false).seq.fourth = false ∧ (rgUnpack (Sparse.get 0 (x 0 false).rgw 0)).w ≤ 32735 ∧
    (∀ b ∈ (x 0 false).blockOf 0, Sparse.get 0 (x 0 false).rgw b = Sparse.get 0 (x 0 false).rgw 0) := by decide +kernel

/-- A block that awaits replay at the base, over the same span. -/
theorem wit_OpeningABlock :
    let old := rgUnpack (rgPack ⟨-96, 5, false, 1, true, false, false, false⟩)
    (-32768 : Int) ≤ -96 ∧ (-96 : Int) ≤ 32671 ∧ (5 : Nat) < 256 ∧ old.base = 5 ∧ (old.pend = true ∨ old.frz = true ∨ old.pend = false) := by
  decide +kernel

theorem wit_DrainResolvesEntries :
    (roundFloat fmtFP32 .rne false 1 0 false 0).ovf = false ∧ (roundFloat fmtFP16 .rne false 1 40 false 0).ovf = true := by decide +kernel

def aDrn : DrnOp := { pred := Pred.always, handle := 2, g := 0, nm1 := 0, rm := 0, sat := false, vb := 1, da := 0 }

theorem wit_DrainOfARowGroup :
    let s := oneTile memTile
    let x := s.tile 0
    let d := x.desc 2
    let v : VbOpnd := { vb := 0, off := 0, d := d }
    let f := rgUnpack (Sparse.get 0 x.rgw 0)
    s.acts 0 Pred.always = true ∧ d.valid = true ∧ d.space ≤ 4 ∧ aDrn.nm1 = 0 ∧ d.vb? = some 0 ∧ x.accMarked 0 2 = [] ∧ v.fits 256 = true ∧
    (packElems d.fmt (x.drainRow 0 d.fmt .rne false).1 []).length = 256 ∧ Sparse.get 0 x.seq.rsp 1 + 8 ≤ 16384 ∧
    (f.frz && f.pend && f.step) = false ∧ (drainRows (drainStep 0 aDrn d 0 0 x.seq.cycle) 1 0 x).2 = none := by decide +kernel

/-! ### Witnesses: the X slot -/

theorem wit_VectorBufferTransfers :
    let s := oneTile memTile
    let x := s.tile 0
    s.acts 0 Pred.always = true ∧ (vbOpnd x 2).isSome = true ∧ (x.desc 0).valid = true ∧ (x.desc 0).space = 0 ∧ x.bankSp.state = .on ∧
    (vbOpnd x 2).all (fun v => v.fits 128) = true ∧ (x.desc 0).covers 0 128 = true ∧ inSp 0 128 = true ∧ x.spErr = [] ∧
    x.portUser 0 = none ∧ x.portUser 1 = none ∧ wholeGranules 0xFFFFFFFF = true ∧ wholeGranules 1 = false := by decide +kernel

/-- To tile 1, and to the link east. -/
theorem wit_TransfersReachTheirReceiver :
    let s := oneTile memTile
    let x := s.tile 0
    let dst := x.desc 3
    s.acts 0 Pred.always = true ∧ (x.desc 0).valid = true ∧ (x.desc 0).space = 0 ∧ dst.valid = true ∧ dst.space = 5 ∧ dst.rtile = 1 ∧
    (x.desc 1).space = 7 ∧ linkPeer 0 (x.desc 1).link = some (1, 3) ∧ (x.desc 0).covers 0 128 = true ∧ inSp 0 128 = true ∧
    x.portUser x.seq.cycle = none ∧ x.bankSp.state = .on ∧ x.spErr = [] ∧ x.ctr.spEcc < 2 ^ 32 ∧ dst.covers 0 128 = true ∧
    (s.tile 1).portUser (x.seq.cycle + routeCycles 0 1) = none := by decide +kernel

def anAccess (wr : Bool) : Access :=
  { tile := 0, engine := none, sect := 0, bundle := 3, pos := [3], line := 0, write := wr, hbm := 0, sp := 0, frame := 0, slot := 0,
    state := .assigned, elig := 0, data := [],
    fails := 0, save := none }

/-- A read and a write with a slot, and a read without. -/
theorem wit_HbmCommandsIssueTheirSlots :
    let s := oneTile memTile
    let x := s.tile 0
    s.acts 0 Pred.always = true ∧ (x.desc 4).valid = true ∧ (x.desc 4).space = 6 ∧ (x.desc 0).valid = true ∧ (x.desc 0).space = 0 ∧
    (x.desc 4).covers 0 128 = true ∧ (x.desc 0).covers 0 128 = true ∧ inSp 0 128 = true ∧ x.stopAt = none ∧
    isAccess 0 x.seq 0 false (anAccess false) = true ∧ isAccess 0 x.seq 0 true (anAccess true) = true ∧ x.portUser x.seq.cycle = none ∧
    (∀ e ∈ s.hbm.plan, isAccess 0 x.seq 0 false e = false) := by decide +kernel

/-- At its own scratchpad, and at tile 1's. -/
theorem wit_AtomicsUpdateTheirLine :
    let s := oneTile memTile
    let x := s.tile 0
    (∀ h ∈ ([3, 5] : List (BitVec 9)), (x.desc h).valid = true ∧ ((x.desc h).space = 0 ∨ (x.desc h).space = 5) ∧ (x.desc h).covers 0 128 = true) ∧
    s.acts 0 Pred.always = true ∧ inSp 0 128 = true ∧ (vbOpnd x 2).all (fun v => v.fits 128) = true ∧ (s.tile 1).portUser (routeCycles 0 1) = none ∧
    (s.tile 1).portUser (routeCycles 0 1 + 1) = none ∧ x.portUser 0 = none ∧ x.portUser 1 = none ∧ (s.tile 1).bankSp.state = .on ∧
    (s.tile 1).spErr = [] ∧ x.spErr = [] ∧ x.ctr.spEcc < 2 ^ 32 ∧ (s.tile 1).seq.run.live = false ∧ (s.tile 1).atoms = [] ∧
    (s.setTile 1 issuing |>.tile 1).seq.run.live = true ∧ (issuing.seq.cycle ≤ routeCycles 0 1) ∧
    (vbOpnd x 2).all (fun w => w.fits 128) = true := by decide +kernel

theorem wit_DigestAccumulatorStore :
    let s := oneTile { memTile with da := [(1, 2 ^ 61 - 2)] }
    let x := s.tile 0
    s.acts 0 Pred.always = true ∧ (x.desc 0).valid = true ∧ (x.desc 0).space = 0 ∧ (x.desc 0).covers 0 16 = true ∧ inSp 0 16 = true ∧
    x.portUser x.seq.cycle = none ∧ x.bankSp.state = .on ∧ Sparse.get 0 x.da 1 < 2 ^ 61 := by decide +kernel

/-! ### Witnesses: index engines and the router -/

theorem wit_IndexCommandsIssue :
    let s := oneTile memTile
    let x := s.tile 0
    s.acts 0 Pred.always = true ∧ (∀ h ∈ ([0, 3, 4, 0x1FF] : List (BitVec 9)), (ixOperand 0 x h).isSome = true) ∧ (s.ixe 31).cmd = none ∧
    (Sparse.get 0 x.seq.cnt 0).toNat = 0 := by decide +kernel

def ixo (addr fmt width lrow : Nat) : IxOperand :=
  { hbm := false, tile := 0, addr := addr, fmt := fmt, width := width, room := 4096, lrow := lrow, null := false }

/-- Commands on scratchpad rows of one INT32 element (entries at 0, data at 1024, results at 4096 and 8192), bound 4. -/
def ixCmd (op : Nat) : IxCmd :=
  { op := op, tile := 0, bundle := 3, handles := [0, 1, 2, 3], bound := 4, h0 := ixo 0 fmtINT32 1 3, h1 := ixo 1024 fmtINT32 1 3,
    h2 := ixo 4096 fmtINT32 1 3, h3 := ixo 8192 fmtINT32 1 3, mod := 0, dims := 0 }

/-- Every operation finds its operands within their extents and its port cycles free; one with a bound of 2,000 does not fit. -/
theorem wit_IndexOperandsAndDeliveries :
    let s := oneTile issuing
    (∀ op, op < 10 → (ixCmd op).outside = none ∧ s.ixClash 0 (ixCmd op).deliveries = none ∧ (ixCmd op).lines = [] ∧
      (ixCmd op).deliveries ≠ []) ∧ ({ ixCmd 5 with bound := 2000, h0 := ixo 0 fmtINT32 1 2000 } : IxCmd).outside = some 0 ∧
    ((oneTile { issuing with port := [((ixCmd 0).lastPass, 1)] }).ixClash 0 (ixCmd 0).deliveries).isSome = true := by decide +kernel

/-- The operands of a command are whole: scratchpad banks ON without a mark. -/
theorem wit_IxWhole :
    let s := (oneTile { issuing with sp := [(4, 2), (8, 2)] }).setIxe 0 { IxEngine.reset with cmd := some (ixCmd 0) }
    s.ixReady 0 (ixCmd 0) = true ∧ s.hbm.plan = [] ∧ (∀ h ∈ [(ixCmd 0).h0, (ixCmd 0).h1, (ixCmd 0).h2, (ixCmd 0).h3],
      h.hbm = false ∧ h.null = false ∧ (s.tile h.tile).bankSp.state = .on ∧ (s.tile h.tile).spErr = [] ∧
      (s.tile h.tile).ctr.spEcc < 2 ^ 32) := by decide +kernel

/-- Command in engine 0's slot; the entries hold 0, 2, 2. -/
def ixAt (c : IxCmd) : State :=
  (oneTile { issuing with sp := [(4, 2), (8, 2)] }).setIxe 0 { IxEngine.reset with cmd := some c }

theorem wit_GatherDeliversRows :
    let c := ixCmd 0
    ((ixAt c).ixe 0).cmd = some c ∧ c.op = 0 ∧ c.h0.entries ≤ c.bound ∧ c.h2.null = false ∧ ((ixAt c).tile c.h2.tile).bankSp.state = .on ∧
    c.h2.hbm = false := by decide +kernel

theorem wit_SortIsStableAndAscending :
    ∀ op ∈ [5, 6, 7], let c := ixCmd op
      ((ixAt c).ixe 0).cmd = some c ∧ c.h0.entries ≤ c.bound ∧ c.h2.null = false ∧ c.h3.null = false ∧ c.h2.addr + 4 * c.bound ≤ c.h3.addr ∧
      (∀ h ∈ [c.h2, c.h3], ((ixAt c).tile h.tile).bankSp.state = .on) := by decide +kernel

/-- Row 2, the last, which two of the three entries name. -/
theorem wit_ScatterAddsInPositionOrder :
    let c := ixCmd 1
    ((ixAt c).ixe 0).cmd = some c ∧ c.op = 1 ∧ c.h0.entries ≤ c.bound ∧ c.h2.fmt ∈ [fmtFP32, fmtFP64, fmtINT32, fmtINT64] ∧ 2 < c.h2.rows ∧
    c.h1.width = c.h2.width ∧ ((List.range c.h0.entries).filter fun p => (ixAt c).ixEntry c.h0 p == 2) = [1, 2] := by decide +kernel

/-- Offsets that do not decrease, with an empty segment, and offsets that do; a walk over the same row pointers. -/
theorem wit_SegmentsAndWalks :
    let c (op : Nat) : IxCmd := { ixCmd op with h0 := ixo 1024 fmtFP32 1 3, h1 := ixo 0 fmtINT32 1 3, h2 := ixo 4096 fmtFP32 1 3 }
    let offs (s : State) (o : IxOperand) := (List.range o.lrow).map (s.ixEntry o)
    let down : State := (ixAt (c 2)).setTile 0 { issuing with sp := [(4, 2), (8, 1)] }
    (∀ op ∈ [2, 3, 4], ((ixAt (c op)).ixe 0).cmd = some (c op) ∧ (c op).op = op ∧ (c op).mod % 2 = 0 ∧ (c op).h2.fmt ∈ [fmtFP32, fmtFP64] ∧
      (c op).h0.width = (c op).h2.width) ∧ (c 2).h2.null = false ∧ ((ixAt (c 2)).tile 0).bankSp.state = .on ∧
    offs (ixAt (c 2)) (c 2).h1 = [0, 2, 2] ∧ firstDecrease 0 [0, 2, 2] = none ∧ firstDecrease 0 (offs down (c 2).h1) = some 2 ∧
    ([0, 2, 2] : List Int).length - 1 ≤ (c 2).bound ∧ (ixCmd 8).op = 8 ∧ firstDecrease 0 (offs (ixAt (ixCmd 8)) (ixCmd 8).h0) = none ∧
    walkEntries (offs (ixAt (ixCmd 8)) (ixCmd 8).h0) = [(0, 0), (0, 1)] := by decide +kernel

/-- The keys of 03 R103: FP32 orders −NaN, −Inf, −0, +0, +Inf, +NaN. -/
theorem test_sort_fp32_keys :
    (sortKeys 2 [(0x7FC00000, 0), (0, 1), (0x7F800000, 2), (0x80000000, 3), (0xFFC00000, 4), (0xFF800000, 5)]).map (·.2) = [4, 5, 3, 1, 2, 0] := by
  decide +kernel

def aDelivery (sched at' : Nat) : Delivery :=
  { addr := 2 ^ 63 + 0 * 2 ^ 20 + 16, data := [1, 2], sched := sched, at_ := at', epoch := 0, src := 4, retry := 1, chunk := 0, stallTile := none }

/-- In time, and 2,300 counts late. -/
theorem wit_RouterDeliveriesAndLateRecords :
    let s := oneTile issuing
    (aDelivery 5 5).addr = 2 ^ 63 + 0 * 2 ^ 20 + 16 ∧ (aDelivery 5 5).data ≠ [] ∧ 16 + (aDelivery 5 5).data.length ≤ 2 ^ 20 ∧
    (s.tile 0).bankSp.state = .on ∧ s.prog.tag = none ∧ s.reexecuting 0 = false ∧ (aDelivery 5 5).at_ ≤ (aDelivery 5 5).sched ∧
    (aDelivery 0 2300).sched < (aDelivery 0 2300).at_ ∧
    s.dg.late.base.toNat + 32 * (s.dg.late.head % s.dg.late.size) + 32 ≤ hbmTop := by decide +kernel

/-! ### Witnesses: descriptors -/

/-- An operation with the descriptor words from offset 8. -/
def opOf (opcode cls : Nat) (ws : List Nat) : Op := { anOp opcode with
  cls := cls
  desc := BitVec.ofNat 512 (opcode + 2 ^ 64 * ws.foldr (fun w n => w + 2 ^ 64 * n) 0) }

/-- 64-bit words at addresses of HBM. -/
def words (l : List (Nat × Nat)) : Bytes := l.foldl (fun m w => Bytes.writeLe m w.1 8 w.2) []

/-- The part READY with the operation of tag 100 fetched, and these words in HBM. -/
def fetched (o : Op) (l : List (Nat × Nat)) : State := { up with
  q := { Queues.reset with ops := [(100, some o)] }
  hbm := { up.hbm with mem := words l } }

/-- An image of one tile with one bundle of no instruction, at 0x1000; no allocation entry, or one beyond 510 GiB. -/
theorem wit_ProgramsLoadAndUnload_load :
    let o := opOf opLoad 1 [0x1000, 0x2200, 0, 0x10000, 0]
    let o1 := opOf opLoad 1 [0x1000, 0x2200, 0, 0x10000, 1]
    let s := fetched o [(0x1008, 0x100), (0x1100, 0x2100), (0x3100, 1), (0x10008, 2 ^ 40)]
    let s1 := { s with q := { Queues.reset with ops := [(100, some o1)] } }
    let p : ProgImage := { mem := s.hbm.mem, addr := 0x1000, len := 0x2200 }
    s.Startable 100 opLoad o ∧ s1.Startable 100 opLoad o1 ∧ s.readAlloc 0x10000 0 = [] ∧ badAlloc [] = none ∧ s.saved = none ∧
    allocLimit < sumSizes (s.readAlloc 0x10000 1) ∧ p.validate.isOk = true ∧ p.imageOff 0 ≠ 0 ∧ p.imageOff 1 = 0 := by
  unfold State.Startable; decide +kernel

theorem wit_ProgramsLoadAndUnload_unload :
    let o := opOf opLoad 1 [0, 2 ^ 40]
    let s := fetched o []
    s.Startable 100 opLoad o ∧ o.field 0x10 40 40 = 1 ∧ s.noProgram = true := by unfold State.Startable; decide +kernel

/-- The bytes of a step plan at 0x100 and an optimiser record at 0x1000 with one update record at 0x2000, that pass every check. -/
def planBytes : Bytes :=
  [(0x1, 0x10), (0x8, 0x20), (0x100, 0x1), (0x101, 0x1), (0x102, 0x21), (0x104, 0x1), (0x108, 0x1), (0x10C, 0x1), (0x130, 0x1), (0x168, 0x1), (0x100A, 0x80), (0x100B, 0x3F), (0x1018, 0x1), (0x101E, 0x80), (0x101F, 0x3F), (0x1071, 0x20), (0x1078, 0x1), (0x2002, 0x20)]

def planned (o : Op) : State :=
  let s := fetched o []
  { s with hbm := { s.hbm with mem := planBytes }, prog := { Prog.reset with header := [(9, 1)], addr := 0x100000, plan := 0x100, alloc := [⟨0, 2 ^ 21, 9, 0⟩] }, tb := { s.tb with state := .locked } }

/-- A loaded program on a part that is LOCKED and coordinates itself, or not; a count far enough, and too near. -/
theorem wit_LaunchAndRunStepsBegin_launch :
    let o (c : Nat) := opOf opLaunch 1 [c]
    let s (c : Nat) : State := planned (o c)
    let other : State := { s 0 with coll := { (s 0).coll with rankMap := [(0, 1)] } }
    (s 0).launchable = true ∧ (∀ c ∈ [0, 5, 2 ^ 40 * 5], (s c).Startable 100 opLaunch (o c)) ∧ (s 0).tb.state ≠ .unlocked ∧
    (s 0).coordinates = true ∧ (s 0).launchParts = [(s 0).partNo] ∧ (s 0).ag.ready = [] ∧ 5 < (s 0).tb.count + (s 0).tb.lead ∧
    (s 0).tb.count + (s 0).tb.lead ≤ 2 ^ 40 * 5 ∧ other.coordinates = false ∧ other.Startable 100 opLaunch (o 0) ∧
    (fetched (o 0) []).tb.state = .unlocked := by unfold State.Startable; decide +kernel

theorem plan_tail (a : Nat) (h : 0x100000 ≤ a) : Bytes.read planBytes a = 0 := by
  have miss : ∀ (m : Bytes), (∀ c ∈ m, c.1 < 0x100000) → Sparse.get 0 m a = 0 := by
    intro m
    induction m with
    | nil => intro _; rfl
    | cons c l ih =>
      intro hm
      have hc : c.1 ≠ a := by have := hm c (by simp); omega
      simp only [Sparse.get, hc, if_false]
      exact ih fun x hx => hm x (by simp [hx])
  exact miss planBytes (by decide)

theorem zeros_number (n : Nat) : leNat (List.replicate n (0 : Byte)) = 0 := by
  induction n with
  | zero => rfl
  | succ k ih => rw [List.replicate_succ, leNat, ih]; rfl

theorem planned_tiles (o : Op) : (planned o).progImage.tiles = [] := by
  have hz : ∀ t, (planned o).progImage.imageOff t = 0 := by
    intro t
    show leNat (Bytes.readN planBytes (0x100000 + (0x100 + 8 * t)) 8) = 0
    have : ∀ n a, 0x100000 ≤ a → leNat (Bytes.readN planBytes a n) = 0 := by
      intro n a ha
      have hr : Bytes.readN planBytes a n = List.replicate n 0 :=
        List.eq_replicate_iff.mpr ⟨by simp [Bytes.readN], by
          intro b hb
          obtain ⟨k, _, rfl⟩ := List.mem_map.mp hb
          exact plan_tail _ (by omega)⟩
      rw [hr]; exact zeros_number n
    exact this 8 _ (by omega)
  simp [ProgImage.tiles, hz]

theorem wit_LaunchAndRunStepsBegin_steps :
    let o := opOf opRunSteps 1 [3]
    (planned o).launchable = true ∧ (planned o).Startable 100 opRunSteps o ∧ (planned o).prog.plan ≠ 0 ∧
      (planned o).stepCheck default = none := by
  intro o
  have hc : (planned o).progImage.sectionCycles 2 = 0 := by simp [ProgImage.sectionCycles, planned_tiles]
  refine ⟨by decide, by unfold State.Startable; decide +kernel, by decide, ?_⟩
  have h1 : firstBit ((planned o).planFails (planned o).prog.plan) = none := by decide +kernel
  have h2 : bitAt (planned o).stepctl 15 = false := by decide +kernel
  have h3 : firstBit ((planned o).optFails ((planned o).region 0).1) = none := by decide +kernel
  have h4 : (planned o).urecsFail 0 none ((planned o).urecs ((planned o).region 0).1) = none := by decide +kernel
  have h5 : ¬ (planned o).stagingSize < 13 * (planned o).maxOwned ((planned o).urecs ((planned o).region 0).1) + 2 ^ 20 := by decide +kernel
  have h6 : (planned o).slotFail default = none := rfl
  have h7 : (planned o).curvsFail (default : StepNames).curv = none := rfl
  simp [State.stepCheck, h1, h2, h3, h4, h6, h7, hc] <;> omega

/-- One communicator of one member, one all-reduce entry of one FP32 element, and an order of one place. -/
theorem wit_CollectiveTablesLoad :
    let o := opOf opCollLoad 1 [0x10000, 0x1000, 0x2000, 0x3000, 1 + 2 ^ 9 + 2 ^ 22]
    let s := fetched o [(0x1000, 1), (0x1008, 0x4000), (0x2000, fmtFP32 * 2 ^ 5), (0x2008, 1 + 2 ^ 32 + 2 ^ 39), (0x2010, 1), (0x2028, 2 ^ 24)]
    let rmap := s.hbmArray 0x10000 2 1
    let busy := { s with gbl := { s.gbl with prog := 2 } }
    let c := s.readComm rmap 0x1000 0
    s.Startable 100 opCollLoad o ∧ s.noProgram = true ∧ busy.Startable 100 opCollLoad o ∧ busy.noProgram = false ∧ c.2 = [] ∧
    (s.readEntry [c.1] 0x2000 0).2 = [] ∧ sharedFlags [(s.readEntry [c.1] 0x2000 0).1] = [] ∧ field ((s.hbmArray 0x3000 4 1).getD 0 9) 11 0 < 1 ∧
    0x1000 + 16 * 1 ≤ hbmTop := by unfold State.Startable; decide +kernel

/-- To HBM, to the tiles beside a program, and onto a denied page after some bytes. -/
theorem wit_HostTransfersMoveTheirBytes_in :
    let o := opOf opH2d 1 [0xFF8, 0x1000, 16]
    let l := opOf opH2d 1 [0, 2 ^ 63, 16]
    let s := fetched o []
    let busy := { fetched l [] with gbl := { s.gbl with prog := 2 } }
    let h : HostPort := { s.hp false with denied := [0xFF8 / pageSize + 1] }
    s.Startable 100 opH2d o ∧ isTileLinear 0x1000 = false ∧ busy.Startable 100 opH2d l ∧ isTileLinear (2 ^ 63) = true ∧ busy.noProgram = false ∧
    (s.hp false).Reaches 0xFF8 16 ∧ h.Reaches 0xFF8 8 ∧ h.denies (0xFF8 + 8) = true := by
  unfold State.Startable HostPort.Reaches; decide +kernel

theorem wit_HostTransfersMoveTheirBytes_out :
    let o := opOf opD2h 1 [0, 0x1000, 4, 1]
    let r := opOf opStateRead 1 [0, 0, 64]
    (fetched o []).Startable 100 opD2h o ∧ (fetched r []).Startable 100 opStateRead r ∧ (up.hp false).Reaches 0 68 ∧
    (fetched r []).debugBad ((fetched r []).view false) 0 64 = false ∧ o.field 0x20 0 0 = 1 := by
  unfold State.Startable HostPort.Reaches; decide +kernel

/-- No section: an image of 64 bytes that fits, and one that does not. -/
theorem wit_SnapshotWritesItsImage :
    let o (n : Nat) := opOf opSnapshot 1 [0x1000, n, 0]
    let w : Op := { o 64 with phase := .started, todo := true }
    (fetched w []).otherSnapshot 100 = false ∧ (fetched w []).ag.snapAt = none ∧
    (fetched (o 64) []).Startable 100 opSnapshot (o 64) ∧ isTileLinear 0x1000 = false ∧ (o 64).field 0x18 8 8 = 0 ∧
    (fetched (o 64) []).snapshotPoint = true ∧ (fetched w []).op 100 = some w ∧ ((fetched w []).snapImage 0).length = 64 ∧
    (o 63).word 0x10 < 64 := by unfold State.Startable; decide +kernel

/-- A launch on a part that is restricted. -/
theorem wit_ComputeRequestsOnARestrictedPart :
    let o := opOf opLaunch 1 [0]
    let s : State := { fetched o [] with gbl := { (fetched o []).gbl with restricted := true } }
    s.op 100 = some o ∧ o.phase = .fetched ∧ o.statuses = [] ∧ s.mayStart 100 o = true ∧ s.restricted = true := by decide +kernel
/-- SIGNAL; WAIT at its threshold and below it, Held or not. -/
theorem wit_SignalsAndWaitsOfTheHost :
    let g := opOf opSignal 1 [7 + 2 ^ 8, 3]
    let w (n : Nat) := opOf opWait 1 [7, n]
    let s := fetched (w 1) []
    let on (p : OpPhase) : State := { s with q := { s.q with ops := [(100, some { w 0 with phase := p })] } }
    (fetched g []).Startable 100 opSignal g ∧ (fetched g []).programRuns = false ∧ (fetched g []).coll.runs = [] ∧
    (fetched (w 0) []).Startable 100 opWait (w 0) ∧ (w 0).word 0x10 ≤ ((fetched (w 0) []).flag 7).toNat ∧ s.Startable 100 opWait (w 1) ∧
    (s.flag 7).toNat < (w 1).word 0x10 ∧ (on .started).op 100 = some { w 0 with phase := .started } ∧
    (on (.held stWaitCycle)).op 100 = some { w 0 with phase := .held stWaitCycle } := by unfold State.Startable; decide +kernel

/-- A wait that nothing can end, before and after 100 µs. -/
theorem wit_SignalsAndWaitsOfTheHost_cycle :
    let o : Op := { opOf opWait 1 [7, 1] with phase := .started }
    let s := fetched o []
    let r : State := { s with q := { s.q with cycleSince := some 0 }, tb := { s.tb with count := 100000 } }
    up.waitCycle = false ∧ s.waitCycle = true ∧ s.q.cycleSince = none ∧ r.waitCycle = true ∧ r.q.cycleSince = some 0 ∧
    0 + 100000 ≤ r.tb.count ∧ (r.opList.filter fun x => x.2.waits) = [(100, o)] ∧ r.op 100 = some o ∧ o.ring < 128 := by
  decide +kernel

/-- A launched program under tag 90, pre-emptible, beside the operation of tag 100; its tile 0 stopped. -/
def launched (o : Op) : State :=
  let s := fetched o []
  { s with
    q := { s.q with ops := [(90, some { opOf opLaunch 1 [0] with phase := .started }), (100, some { o with order := 1 })] }
    prog := { Prog.reset with header := [(8, 8), (9, 1)], tag := some 90 }
    gbl := { s.gbl with prog := 2 } }

/-- A SNAPSHOT of a pre-emptible program: at its start, on its way to its point, and there. -/
theorem wit_HostTransfersAndSnapshots_hold :
    let o : Op := opOf opSnapshot 1 [0x1000, 64, 0]
    let w : Op := { o with phase := .started, todo := true, order := 1 }
    let s := launched o
    let r : State := { launched w with ag := { s.ag with snapAt := some 5 } }
    let p : State := { r with gbl := { r.gbl with paused := true } }
    s.programRuns = true ∧ s.stepsRun = false ∧ s.preemptible = true ∧ s.Startable 100 opSnapshot { o with order := 1 } ∧ s.ag.snapAt = none ∧
    r.op 100 = some w ∧ r.ag.snapAt = some 5 ∧ r.gbl.paused = false ∧ r.ag.pause = none ∧ r.allAtSafe = true ∧ p.snapshotPoint = true ∧
    p.otherSnapshot 100 = false ∧ p.pauseHolds = false := by unfold State.Startable; decide +kernel

/-- PREEMPT of class 1, with no program, of a pre-emptible one and of one that is not; one that waited for such a program's end. -/
theorem wit_PreemptionStopsSavesAndResumes_stop :
    let o (c : Nat) : Op := opOf opPreempt c []
    let s := launched (o 0)
    (fetched (o 1) []).Startable 100 opPreempt (o 1) ∧ (fetched (o 0) []).Startable 100 opPreempt (o 0) ∧ (fetched (o 0) []).programRuns = false ∧
    s.Startable 100 opPreempt { o 0 with order := 1 } ∧ s.programRuns = true ∧ s.preemptible = true ∧ s.ag.stop = none ∧ s.ag.preRings = [] ∧
    s.saved = none ∧ s.preempting = false ∧ ({ s with prog := { s.prog with header := [(9, 1)] } } : State).preemptible = false ∧
    (fetched { o 0 with phase := .started } []).op 100 = some { o 0 with phase := .started } ∧
    (fetched { o 0 with phase := .started } []).preempting = false := by
  unfold State.Startable; decide +kernel

/-- The save of a stopped program, and its resumption. -/
theorem wit_PreemptionStopsSavesAndResumes_save :
    let o : Op := { opOf opPreempt 0 [] with phase := .started }
    let s := (launched o).setTile 0 { Tile.reset with seq := { TileSeq.reset with run := .stopped } }
    let s := { s with ag := { s.ag with stop := some { c := 0, coord := 0, status := stPreempted, pre := true }, drain := true } }
    let h : Op := { opOf opLaunch 1 [0] with phase := .held stPreempted }
    let v : Saved := { tiles := s.tiles, ix := [], prog := s.prog, colls := [], buf := [], pos := 0, thr := [], due := [], round := 1,
                       seqr := StepSeq.reset, plan := [], since := 0, recov := s.recov }
    let r : State := { fetched h [] with saved := some v, ag := { s.ag with stop := none, savedTag := some 100, resume := none } }
    s.prog.tag = some 90 ∧ (s.op 90).isSome = true ∧ s.preempting = true ∧ s.ag.drain = true ∧ s.tilesQuiet = true ∧ s.someStopped = true ∧
    s.accessesDone = true ∧ s.enginesIdle = true ∧ s.recov.active = false ∧ s.preemptOps = [100] ∧ (100 : Nat) ≠ 90 ∧
    r.saved = some v ∧ r.op 100 = some h ∧ r.urgentOver = true ∧ r.prog.tag = none ∧ r.recov.active = false ∧ r.ag.resume = none := by
  decide +kernel

/-- Of no operation, of a transfer, of a WAIT, of the running program; and of a ring. -/
theorem wit_AbortsEndOperations :
    let o (t : Nat) : Op := opOf opAbort 0 [t]
    let p (op : Nat) : Op := { opOf op 1 [7, 1] with phase := .started }
    let s (t op : Nat) : State := { fetched (o t) [] with q := { Queues.reset with ops := [(90, some (p op)), (100, some (o t))] } }
    let r := launched (o 90)
    (∀ x ∈ [(5, opH2d), (90, opH2d), (90, opWait), (2 ^ 12, opH2d)], (s x.1 x.2).Startable 100 opAbort (o x.1)) ∧ (s 5 opH2d).op 5 = none ∧
    (∀ op ∈ [opH2d, opWait], (s 90 op).op 90 = some (p op) ∧ (p op).ovf = false ∧ (s 90 op).ag.savedTag ≠ some 90 ∧ (s 90 op).prog.tag ≠ some 90 ∧
      (s 90 op).ag.launch = none ∧ (s 90 op).seqr.tag ≠ some 90 ∧ (p op).opcode ≠ opRunSteps ∧ (p op).faulted = false ∧ (s 90 op).ag.snapAt = none) ∧
    r.Startable 100 opAbort { o 90 with order := 1 } ∧ r.prog.tag = some 90 ∧ (r.op 90).isSome = true ∧ r.inSweep 90 = false ∧ r.ag.stop = none ∧
    (o (2 ^ 12)).field 0x08 12 12 = 1 ∧ (p opH2d).ring = (o (2 ^ 12)).field 0x08 19 13 ∧ (p opH2d).ring ≠ (o (2 ^ 12 + 2 ^ 13)).field 0x08 19 13 := by
  unfold State.Startable; decide +kernel

/-- Before the checkpoint; and a step at the checkpoint of an empty model. -/
theorem wit_ReplayReachesItsLaunch :
    let o : Op := opOf opReplay 1 [0x8000, 0x9000, 3, 1, 2, 0, 0xA000]
    let p := fetched o []
    let s : State := { p with
      prog := { Prog.reset with header := [(9, 1)], plan := 0x100 }
      coll := { p.coll with rankMap := [(0, 1)] }
      tb := { p.tb with state := .locked } }
    let r := s.setOp 100 (some { o with phase := .started })
    let s1 := r.loadCheckpoint (o.word 0x08)
    let s2 := (s1.urecs (s1.region 0).1).foldl State.deriveCopy s1
    s.Startable 100 opReplay o ∧ s.launchable = true ∧ s.prog.plan ≠ 0 ∧ o.word 0x18 < 4 ∧
    (match s1.applyFrames (3 - 3) 3 (o.word 0x10) [] with | .good _ progs _ => progs == [] | _ => false) = true ∧ s.provDigests 3 = [] ∧
    s2.weightsAgree s.digestLog 3 = true ∧ s2.batchAgrees (o.word 0x38) (s.digestLog.filter fun e => e.kind == 3 && e.step == 3) = true ∧
    s.tb.state ≠ .unlocked ∧ s.coordinates = false := by unfold State.Startable; decide +kernel

/-! ### Witnesses: rings -/

/-- Ring 70, enabled with 64 entries at 0x10000 and its doorbell at 0x4000; class 1; completion ring 70 at 0x20000. -/
def ringed : State :=
  let w : WorkRing := { WorkRing.reset with base := 0x10000, db := 0x4000, cfg := 1 + 1#64 <<< 16 + 6#64 <<< 24 + 70#64 <<< 41 }
  let c : CompRing := { CompRing.reset with base := 0x20000, cfg := 6#64 <<< 24 }
  { up with q := { Queues.reset with work := [(70, w)], comp := [(70, c)] } }

/-- At its lowest count, at its highest, and past it; polled and snooped. -/
theorem wit_DoorbellsAreRead :
    let s := ringed
    let w := s.work 70
    let snoop : WorkRing := { w with cfg := w.cfg ||| 1#64 <<< 34 }
    let far : State := s.setHp (ringPort 70) { s.hp (ringPort 70) with denied := [4] }
    let at_ (v : Byte) := Bytes.readLe (([(0x4000, v)] : Bytes).foldl (fun m x => Bytes.write m x.1 x.2) (s.hp (ringPort 70)).mem) w.db.toNat 8
    w.enabled = true ∧ w.dbErr = false ∧ w.xfault = false ∧ w.faultAt = none ∧ (s.hp (ringPort 70)).denies w.db.toNat = false ∧
    (far.work 70).enabled = true ∧ (far.hp (ringPort 70)).denies w.db.toNat = true ∧ (w.snoop && !w.noSnoop) = false ∧
    (snoop.snoop && !snoop.noSnoop) = true ∧ w.head ≤ at_ 0 ∧ at_ 64 ≤ w.head + w.entries ∧ w.head + w.entries < at_ 65 := by decide +kernel

theorem wit_DescriptorsAreFetched :
    let s := ringed.setWork 70 { ringed.work 70 with prod := 1 }
    let denied : State := s.setHp (ringPort 70) { s.hp (ringPort 70) with denied := [0x10000 / pageSize] }
    s.fetchClass = some (s.work 70).cls ∧ s.fetchRing (s.work 70).cls = some 70 ∧ (s.tagFor (s.work 70).cls).isSome = true ∧
    (s.hp (ringPort 70)).denies 0x10000 = false ∧ denied.fetchClass = some (s.work 70).cls ∧ denied.fetchRing (s.work 70).cls = some 70 ∧
    (denied.tagFor (s.work 70).cls).isSome = true ∧ (denied.hp (ringPort 70)).denies 0x10000 = true := by decide +kernel

/-- A finished operation beside a ring with room and a full one, a launched program that has ended, and a Held record. -/
theorem wit_CompletionRecordsAreWritten :
    let o (p : OpPhase) (op : Nat) : Op := { anOp op with ring := 70, phase := p }
    let s (p : OpPhase) (op : Nat) : State := { ringed with q := { ringed.q with ops := [(100, some (o p op))] } }
    let full : State := (s .finished opH2d).setComp 70 { ringed.comp 70 with chead := 64 }
    let done : State := { s .started opLaunch with prog := { Prog.reset with tag := some 100 }, gbl := { up.gbl with prog := 2 } }
    let c := (s .finished opH2d).comp 70
    ((s .finished opH2d).work 70).cring = 70 ∧ c.chead - c.ctail < c.entries ∧ (full.comp 70).entries ≤ (full.comp 70).chead - (full.comp 70).ctail ∧
    (s .finished opH2d).op 100 = some (o .finished opH2d) ∧ (s .finished opH2d).prog.tag ≠ some 100 ∧ (s .finished opH2d).seqr.tag ≠ some 100 ∧
    done.op 100 = some (o .started opLaunch) ∧ done.programDone = true ∧ (o .finished opH2d).lost = false ∧ full.op 100 = some (o .finished opH2d) ∧
    (full.updOp 100 fun o => { o with stalled := true }).op 100 = some { o .finished opH2d with stalled := true } ∧
    (s (.holding stWaitCycle 7) opWait).op 100 = some (o (.holding stWaitCycle 7) opWait) := by decide +kernel

/-- A Held record owed, a record that a fault holds, and a denied page. -/
theorem wit_CompletionRecordsAreWritten_faults :
    let o : Op := { anOp opH2d with ring := 70, phase := .finished, owed := [(stPreempted, 0)] }
    let x : Op := { anOp opH2d with ring := 70, phase := .finished }
    let s (o : Op) : State := { ringed with q := { ringed.q with ops := [(100, some o)] } }
    let h := (s o).hp (ringPort 70)
    (s o).op 100 = some o ∧ o.recHeld = false ∧ o.faultAt = none ∧ h.denies ((s o).comp 70).base.toNat = false ∧
    (s { x with recHeld := true }).op 100 = some { x with recHeld := true } ∧ (s { x with faultAt := some 5 }).op 100 = some { x with faultAt := some 5 } ∧
    ({ h with denied := [0x20000 / pageSize] } : HostPort).denies ((s x).comp 70).base.toNat = true := by decide +kernel

/-- An operation's access and a ring's that ask for page 9; operations held by faults, at their data and at their record. -/
theorem wit_TranslationFaultsAreAnswered :
    let b := ringPort 70
    let o : Op := { anOp opH2d with ring := 70, phase := .started, faultAt := some (9 * 4096 + 5) }
    let f : Op := { o with phase := .finished }
    let on (o : Op) : State := { ringed with q := { ringed.q with ops := [(100, some o)] } }
    let asking (s : State) := s.opList.filter fun x => x.2.faultAt.map (· / 4096) == some 9 && (s.opPorts x.1 x.2).contains b
    let w : State := ringed.setWork 70 { ringed.work 70 with faultAt := some (9 * 4096) }
    let h : Op := { o with phase := .held stTranslation, faultAt := none }
    let g : Op := { o with phase := .finished, faultAt := none, recHeld := true }
    let k : Op := { o with phase := .holding stTranslation 5, faultAt := none }
    let held (o : Op) : State := (on o).setWork 70 { ringed.work 70 with xfault := true }
    asking (on o) = [(100, o)] ∧ (on o).op 100 = some o ∧ (on o).askedRings b 9 = [] ∧ o.writes = false ∧ asking (on f) = [(100, f)] ∧
    f.writes = true ∧ asking w = [] ∧ w.askedRings b 9 = [(70, 9 * 4096)] ∧ ((on o).work 70).xfault = false ∧ up.ready = true ∧
    (∀ y ∈ [h, g, k], ((held y).work 70).xfault = true ∧ (held y).faultedOps 70 = [(100, y)] ∧ (held y).op 100 = some y ∧ (held y).ready = true ∧
      (held y).prog.tag ≠ some 100) ∧ h.ovf = false ∧ g.ovf = true ∧ g.recHeld = true ∧ h.recHeld = false ∧
    ({ held h with prog := { Prog.reset with tag := some 100 } } : State).ag.stop = none := by decide +kernel

/-- Fields in range and out of it, an enabled ring, and completion counts at Q_CHEAD and past it. -/
theorem wit_RingRegistersAndFlags :
    let cfg : W64 := 1 + 6#64 <<< 24 + 70#64 <<< 41
    let s : State := { up.setComp 70 { CompRing.reset with cfg := 6#64 <<< 24, chead := 3 } with pwr := { up.pwr with strapHeld := 0xFF } }
    s.ready = true ∧ cfg.getLsbD 0 = true ∧ (s.work 71).enabled = false ∧ s.ringOk 71 (cfg &&& 0x0000FFFC0F030001#64) = true ∧
    s.ringOk 71 1 = false ∧ (ringed.work 70).enabled = true ∧ (ringed.work 70).cfg ≠ cfg ∧ (0 : W64).getLsbD 0 = false ∧
    (3 : W64).toNat ≤ (s.comp 70).chead ∧ (s.comp 70).chead < (4 : W64).toNat ∧ s.programRuns = false ∧ s.coll.runs = [] := by decide +kernel

/-- With a program and without; the host ring enabled anew and already enabled. -/
theorem wit_RegistersTakeTheirValues :
    let busy : State := { up with gbl := { up.gbl with prog := 2 }, seqr := { up.seqr with tag := some 1 }, ss := { up.ss with ctrl := 1, head := 3 } }
    up.ready = true ∧ up.noProgram = true ∧ busy.noProgram = false ∧ up.seqr.tag = none ∧ busy.seqr.tag ≠ none ∧ field (1 : W64).toNat 5 4 < 2 ∧
    up.ss.ctrl.getLsbD 0 = false ∧ busy.ss.ctrl.getLsbD 0 = true ∧ busy.ss.head < (4 : W64).toNat ∧ (3 : W64).toNat ≤ busy.ss.head ∧
    busy.ss.hostOut = [] ∧ Sparse.get 0 up.hpOwn 15 = 0 := by decide +kernel

/-- An empty list of entries, one that is good and one that is not; a phase that holds writes and IDLE. -/
theorem wit_WindowApertureAndMailbox :
    let s : State := { up with
      pwr := { up.pwr with strapHeld := 0xFF }
      hbm := { up.hbm with mem := words [(0x100, 7 + 8 * 2 ^ 16 + 2 ^ 32)] } }
    let t : State := { s with mbx := { s.mbx with data := 0x100, len := 12 } }
    s.ready = true ∧ s.portEnabled true = true ∧ s.noProgram = true ∧ s.pwr.phase = .up ∧ s.mbx.cmd.getLsbD 31 = false ∧
    s.mbx.data.toNat + s.mbx.len.toNat ≤ 2 ^ 39 ∧ parseEntries s.mbx.len.toNat (s.hbmRead s.mbx.data.toNat s.mbx.len.toNat) = some [] ∧
    parseEntries t.mbx.len.toNat (t.hbmRead t.mbx.data.toNat t.mbx.len.toNat) = some [(7, [1, 0, 0, 0, 0, 0, 0, 0])] ∧
    entryOk (7, [1, 0, 0, 0, 0, 0, 0, 0]) = true ∧ entryOk (9, []) = false ∧ s.lan.settingsBusy = false ∧
    ((7 : Nat) % 4 ≠ 0 ∧ (8 : Nat) % 8 = 0) := by decide +kernel

/-- An all-reduce of four FP32 elements between members 0 and 1. -/
def collEntry : CollEntry :=
  { type := 0, op := 0, ifmt := fmtFP32, comm := 0, tflag := 3, dflag := 4, rootm := 0, tinc := 1, csz := 1, infl := 1, elems := 4, src := 0,
    dst := 0x1000, bufOff := 0, bufSize := 1, idx := 0, rowb := 0, rpm := 0 }

/-! ### Witnesses: time and agreed counts -/

/-- A port that works with all lanes good. -/
def goodPort : Port := { Port.reset with state := .up, txOk := 0x1FFFF, rxOk := 0x1FFFF, peerPart := 1, peerPort := 0, peerV := true }

/-- Part 1, with part 0 as its time root and port 0 up. -/
def child : State := { up with
  gbl := { up.gbl with partId := 1 }
  tb := { up.tb with ctrl := 1#64 <<< 17, count := 50 }
  lnk := { up.lnk with port := [(0, goodPort)] } }

theorem wit_TheCounterTicks : up.pwr.sysclk = true ∧ State.reset.pwr.sysclk = false := by decide

/-- Requests answered and not; replies before and after the first exchange, after a disturbance; a root with discipline. -/
theorem wit_TimeTransferAndDiscipline :
    let locked : State := { child with tb := { child.tb with state := .locked, xch := some (0, 7) } }
    let busy : State := { child with tb := { child.tb with xch := some (0, 7) }, lnk := { child.lnk with port := [(0, { goodPort with remap := true })] } }
    let root : State := { up with tb := { up.tb with ctrl := 3#64 <<< 17, bootRoot := true } }
    let set : State := { root with tb := { root.tb with aligned := true } }
    (busy.port 0).busy = true ∧ (child.port 0).busy = false ∧ child.parentPort = some 0 ∧ (child.port 0).state.works = true ∧ locked.tb.state = .locked ∧ child.tb.state ≠ .locked ∧
    child.tb.state ≠ .holdover ∧ (busy.port 0).disturbed 7 = true ∧ busy.tb.xch = some (0, 7) ∧ (locked.port 0).disturbed 7 = false ∧
    child.tb.state = .unlocked ∧ child.tb.count ≤ 50 ∧ 49 < child.tb.count ∧ locked.isRoot = false ∧ root.disciplined = true ∧
    root.tb.bootRoot = true ∧ root.tb.aligned = false ∧ set.disciplined = true ∧ set.tb.aligned = true ∧ root.isRoot = true := by decide +kernel

/-- A domain of parts 0 and 1 at its coordinator: the second READY at the same clock and at another; the deadline. -/
theorem wit_LaunchesAreAgreed :
    let l (c : Nat) : Launch := { tag := 90, c := c, go := none }
    let s (c clk : Nat) : State :=
      let r := launched (anOp opWait)
      { r with
        coll := { r.coll with rankMap := [(0, 0), (1, 1)] }
        ag := { r.ag with launch := some (l c), ready := [(0, clk)] } }
    let ready (clk : Nat) := ((s 0 clk).ag.ready.filter fun r => r.1 != 1) ++ [(1, 1400)]
    let all (r : List (Nat × Nat)) : Bool := (s 0 1400).launchParts.all fun p => r.any fun x => x.1 == p
    (s 0 1400).ag.launch = some (l 0) ∧ ((s 0 1400).op 90).isSome = true ∧ (s 0 1400).coordinates = true ∧ all [(1, 1400)] = false ∧
    all (ready 1400) = true ∧ (∀ r ∈ ready 1400, r.2 = 1400) ∧ (∃ r ∈ ready 1600, r.2 ≠ 1400) ∧ (l 5).c ≠ 0 ∧
    (l 5).c < (s 5 1400).tb.count + (s 5 1400).tb.lead ∧ (s 5 1400).tb.count ≤ 5 ∧ (1 : Nat) ≠ (s 0 1400).launchCoordinator := by decide +kernel

theorem wit_TheLaunchCountStartsTheProgram :
    let r := launched (anOp opWait)
    let s : State := { r with
      ag := { r.ag with launch := some { tag := 90, c := 0, go := some 0 } }
      coll := { r.coll with entries := [collEntry], thr := [(0, 1)] } }
    s.gbl.paused = false ∧ s.ag.stop = none ∧ s.seqr.tag ≠ some 90 ∧ (s.op 90).isSome = true ∧ s.coll.runs = [] ∧
    (∀ i, i < 1 → (s.flag collEntry.tflag).toNat < Sparse.get 0 s.coll.thr i) ∧ s.sectionEntry 0 ≠ 0xFFFF := by decide +kernel

/-- A pause to come, in force, and in force for a recovery; a resumption. -/
theorem wit_PausesAndResumesAreAgreed :
    let s : State := { up with ag := { up.ag with pause := some (0, 0) } }
    let r : State := { s with recov := { s.recov with stage := .announced } }
    let p : State := { s with gbl := { s.gbl with paused := true }, ag := { s.ag with resume := some 0 } }
    up.ag.pause = none ∧ up.tb.count ≤ 7 ∧ s.gbl.paused = false ∧ s.ag.stop = none ∧ s.recov.stage ≠ .announced ∧ r.recov.stage = .announced ∧
    up.ag.resume = none ∧ p.gbl.paused = true ∧ p.pauseHolds = false ∧ p.coll.runs = [] ∧ p.coll.due = [] ∧
    (0 : Nat) < (10 : Nat) ∧ (launched (anOp opWait)).hasImage 0 = false := by decide +kernel

/-- A stop that another part found, one of its own and a pre-emption. -/
theorem wit_StopsAreAgreed :
    let s := launched (anOp opWait)
    let at_ (coord : Nat) (pre : Bool) : State :=
      { s with ag := { s.ag with stop := some { c := 0, coord := coord, status := stTimeout, pre := pre } } }
    s.programRuns = true ∧ s.prog.stopped = false ∧ s.ag.stop = none ∧ s.tb.count ≤ 7 ∧ stTimeout ≠ stDigest ∧ stTimeout ≠ stEcc ∧
    (at_ 0 true).ag.stop.isSome = true ∧ (0 : Nat) = s.partNo ∧ (1 : Nat) ≠ s.partNo ∧ s.prog.tag = some 90 ∧ (s.op 90).isSome = true ∧
    s.seqr.tag ≠ some 90 ∧ (at_ 1 false).tilesQuiet = true := by decide +kernel

/-! ### Witnesses: collectives and links -/

/-- Part 0 of a domain of two, with the entry in its order and port 0 up. -/
def ranked : State :=
  let s := launched (anOp opWait)
  { s with
    coll := { s.coll with
      rankMap := [(0, 0), (1, 1)]
      comms := [{ n := 2, chain := false, placeRoot := false, tree := 0, members := [0, 1] }]
      entries := [collEntry]
      order := [0] }
    lnk := { s.lnk with port := [(0, goodPort)] } }

/-- Not expected, damaged and good; confirmed, asked for again, and overdue. -/
theorem wit_LegsAreCheckedAndConfirmed :
    let s := ranked
    let l := newLeg 0 0 0 2 1 (List.replicate 16 0) false
    let bad : Leg := { l with crc := l.crc + 1 }
    let run : CollRun := { s.newRun 0 0 with kept := [(1, l)], clock := s.tb.tmo }
    let r : State := { s with coll := { s.coll with runs := [run], pos := 1 } }
    let mine (y : Nat × Leg) : Bool := y.1 == 1 && y.2.chunk.toNat == 0 && y.2.level.toNat == 2
    s.coll.comms.length = 1 ∧ s.memberIndex ((s.coll.comms)[0]!) = some 0 ∧ (s.port 0).state.works = true ∧ s.orderOf 0 5 = none ∧
    s.orderOf 0 0 = some 0 ∧ s.coll.pos ≤ 0 ∧ legCrc l = l.crc ∧ legCrc bad ≠ bad.crc ∧ (s.newRun 0 0).mism = [] ∧
    (r.coll.runs.find? fun y => y.entry == 0 && y.kept.any mine) = some run ∧ run.kept.find? mine = some (1, l) ∧ collEntry.type ≠ 2 ∧
    s.memberPart ((s.coll.comms)[0]!) 1 = some 1 ∧ (s.routePort 1).isSome = true ∧
    (r.coll.runs.find? fun y => y.entry == 0 && r.launched y && decide (r.tb.tmo ≤ y.clock)) = some run ∧ r.prog.tag = some 90 ∧
    (r.op 90).isSome = true ∧ r.seqr.tag ≠ some 90 ∧ r.ag.stop = none := by decide +kernel

/-- After two damaged copies of the leg; and after ORDER_FAULT. -/
theorem wit_LegsAreCheckedAndConfirmed_again :
    let l := newLeg 0 0 0 2 1 (List.replicate 16 0) false
    let bad : Leg := { l with crc := l.crc + 1 }
    let run : CollRun := { ranked.newRun 0 0 with mism := [(legKey 0 2 1, 2)] }
    let s : State := { ranked with coll := { ranked.coll with runs := [run], pos := 1 } }
    let f : State := { ranked with coll := { ranked.coll with refused := true } }
    s.orderOf 0 0 = some 0 ∧ (0 : Nat) < s.coll.pos ∧ s.runOf 0 0 = run ∧ run.again = [] ∧
    (s.coll.runs.any fun x => x.entry == run.entry && x.epoch == run.epoch) = true ∧ legCrc bad ≠ bad.crc ∧
    Sparse.get 0 run.mism (legKey bad.chunk.toNat bad.level.toNat bad.member.toNat) = 2 ∧ f.orderOf 0 0 = some 0 ∧ f.coll.pos ≤ 0 ∧
    f.coll.refused = true := by decide +kernel

/-- A NAK owed, a flit to repeat, one to send, none. -/
theorem wit_PortsSendFlits :
    let s : State := { up with lnk := { up.lnk with port := [(31, goodPort)] } }
    let p := s.port 31
    p.state.works = true ∧ p.remap = false ∧ p.owedNak = none ∧ p.resend = [] ∧ p.waiting = [] ∧ p.replay.length < 2048 := by decide

/-- A flit with its own CRC. -/
def sealed (f : Flit) : Flit := { f with crc := flitCrc f }

theorem sealed_intact (f : Flit) (h : flitFecOk f = true) : flitIntact (sealed f) = true := by
  have hc : flitCrc (sealed f) = flitCrc f := rfl
  have hf : flitFecOk (sealed f) = flitFecOk f := rfl
  simp only [flitIntact, hc, hf, h]
  simp [sealed]

/-- The next in sequence, to this part and to another, one damaged; a notice known and new; a tunnelled flit of the failed link whose
far end is port 5 of part 1, in its order, and a copy of one taken before. -/
theorem wit_FlitsAreAcceptedInOrder :
    let far : Port := { goodPort with state := .failed, peerPort := 5 }
    let s : State := { child with lnk := { child.lnk with port := [(0, goodPort), (1, far)], failed := [(0, 9)] } }
    let flit (d : BitVec 13) : Flit := sealed { aFlit 256 with dest := d, tport := 5, inner := some ⟨1, tyData, 1⟩ }
    flitIntact (flit 1) = true ∧ (flit 1).seq = (s.port 0).rxExp ∧ (flit 1).dest.toNat = s.partNo ∧ (flit 2).dest.toNat ≠ s.partNo ∧
    s.portToward 1 (flit 1).tport = some 1 ∧ s.portToward 1 6 = none ∧ (0 - (s.port 1).rxExp : BitVec 12).toNat < 2048 ∧
    2048 ≤ (0xFFF - (s.port 1).rxExp : BitVec 12).toNat ∧ (aFlit 0).inner = none ∧ s.lnk.failed.contains (0, 9) = true ∧ s.lnk.failed.contains (0, 8) = false ∧ s.coll.runs = [] ∧
    flitIntact { aFlit 256 with err0 := 13 } = false ∧ (s.port 0).epi = none :=
  ⟨sealed_intact _ rfl, by decide +kernel⟩

/-- Episodes with the first and the last retry to come; lanes; a port that trains, miswired and well. -/
theorem wit_PortsFailAndRecover :
    let e (n : Nat) : Episode := { seq := 0, retries := n, start := 0, left := 64, nak := 0 }
    let s (p : Port) : State := { child with lnk := { child.lnk with port := [(0, p)] } }
    let p := goodPort
    let g := sealed (aFlit 256)
    flitIntact g = true ∧ (∀ n ∈ [1, 7, 8], ((s { p with epi := some (e n) }).port 0).epi = some (e n)) ∧ p.remap = false ∧ p.state.works = true ∧
    (99999 : Nat) < 1 * 100000 ∧ (1 : Nat) * 100000 ≤ 100000 ∧ p.rxOk.getLsbD 16 = true ∧ badLanes (p.rxOk &&& ~~~(1#17 <<< 16)) < 3 ∧
    badLanes (0x1FFFE &&& ~~~(1#17 <<< 16)) = 2 ∧ badLanes p.txOk ≤ 2 ∧ g.seq = p.rxExp ∧ p.txOk.getLsbD 16 = true ∧
    badLanes (p.txOk &&& ~~~(1#17 <<< 16)) < 3 ∧ (3 : Fin 4).val = 31 / 8 ∧ p.state ≠ .failed ∧ 3 ≤ badLanes (~~~7) ∧ badLanes (~~~3) = 2 ∧
    (s { p with state := .training }).miswired 0 1 31 false = true ∧ (s { p with state := .training }).miswired 0 0 0 false = false ∧
    (s p).noProgram = true ∧ (s p).ready = true ∧ p.disable = false :=
  ⟨sealed_intact _ rfl, by decide +kernel⟩

/-! ### Witnesses: HBM and the tests of scratchpads -/

/-- An issued access of pseudo-channel 0 in frame 1, slot 0: in its own slot, in a later one, and after three failed transfers. -/
theorem wit_HbmLinesAreServed :
    let a (wr : Bool) (fails : Nat) : Access := { anAccess wr with frame := 1, state := .issued, data := [1], fails := fails }
    let s (wr : Bool) (fails : Nat) : State :=
      let r := launched (anOp opWait)
      { r with hbm := { r.hbm with plan := [a wr fails] } }
    (∀ wr ∈ [true, false], ∀ n ∈ [0, 2, 3], (s wr n).pcHeld 0 = false ∧ (s wr n).nextAccess 0 = some 0) ∧ (1 : Nat) % 32 ≠ 0 % 32 ∧
    8 * 1 + 0 = 8 * (a false 0).frame + (a false 0).slot ∧ 8 * (a false 0).frame + (a false 0).slot < 8 * 1 + 1 ∧
    (s false 0).slotTaken 0 0 0 1 1 = false ∧ (a true 0).ready (slotStart 8) = true ∧ (a false 3).ready (slotStart 9) = true ∧
    slotStart 8 < slotStart 8 + 1 ∧ (s false 0).reexecuting 0 = false ∧ (s false 3).prog.tag ≠ none := by decide +kernel

/-- A packed group, one spilled to HBM and one to the host buffer, with its page denied; a line that is not eligible yet. -/
theorem wit_HbmLinesAreServed_saved :
    let head (i : Nat) : List Byte := spilledHead [0] i ++ List.replicate 128 0
    let a (d : List Byte) : Access := { anAccess true with frame := 1, state := .issued, data := d, save := some (0x8000, 2) }
    let s := planned (anOp opWait)
    let far : State := s.setHp s.stepPort { s.hp s.stepPort with denied := [0] }
    s.accessSpill (a (List.replicate 82 0)) = none ∧ s.accessSpill (a (head 0)) = some (false, 0) ∧
    s.accessSpill (a (head (2 ^ 63))) = some (true, 0) ∧ s.spillDenied (a (head (2 ^ 63))) = none ∧
    (far.spillDenied (a (head (2 ^ 63)))).isSome = true ∧
    slotStart 8 < ({ anAccess false with elig := slotStart 9 } : Access).elig := by decide +kernel

/-- At an issuing tile and at one that is idle, its bank ON and OFF; free-run mode; a background test. -/
theorem wit_HbmLinesAreServed_deliveries :
    let d : LineDelivery := { tile := 0, sp := 128, data := List.replicate 128 1, poisoned := true }
    let s : State := { oneTile issuing with hbm := { up.hbm with deliver := [d], freeRun0 := true } }
    let off := s.setTile 0 { issuing with bankSp := { Bank.resetOn with state := .off } }
    s.hbm.deliver = [d] ∧ s.issues 0 = true ∧ (s.tile 0).portUser (s.tile 0).seq.cycle = none ∧ up.issues 0 = false ∧
    (s.tile 0).bankSp.state = .on ∧ (off.tile 0).bankSp.state ≠ .on ∧ s.hbm.freeRun0 = true ∧ up.tilesQuiet = true ∧ s.tilesQuiet = false ∧
    s.issueHeld = false ∧ (∀ g ∈ (List.range 32).map (32 * (s.tile 0).testPtr + ·), Sparse.get 0 (s.tile 0).spErr g ≠ 2) ∧
    s.sparesUsed (s.physOf 0) 0 < 32 := by decide +kernel

/-! ### Witnesses: steps -/

/-- RUN_STEPS in a phase of a step under tag 90, with the plan of `planned`. -/
def stepping (phase n : Nat) : State :=
  let s := launched (anOp opWait)
  { s with
    hbm := { s.hbm with mem := planBytes }
    prog := { s.prog with plan := 0x100, addr := 0x100000 }
    q := { s.q with ops := [(90, some { opOf opRunSteps 1 [1] with phase := .started })], flag := [(0, BitVec.ofNat 64 n)] }
    coll := { s.coll with rankMap := [(0, 1)] }
    tb := { s.tb with state := .locked }
    seqr := { StepSeq.reset with tag := some 90, n := 1, phase := phase, optRec := 0x1000 } }

/-- A batch that is there and one that is not; sections; the end of the last step. -/
theorem wit_StepsGoThroughTheirPhases :
    let s := stepping 4 0
    let r : State := { s with seqr := { s.seqr with reports := [⟨0, 1, 2⟩, ⟨0, 0, 2⟩] } }
    let e := stepping 9 0
    (stepping 1 1).seqr.phase = 1 ∧ (s.op 90).isSome = true ∧
    ((stepping 1 1).gbl.step - (stepping 1 1).seqr.s0).toNat + 1 ≤ ((stepping 1 1).flag (stepping 1 1).batchFlag).toNat ∧
    ((stepping 1 0).flag (stepping 1 0).batchFlag).toNat ≤ ((stepping 1 0).gbl.step - (stepping 1 0).seqr.s0).toNat ∧ s.noStop = true ∧
    s.gbl.paused = false ∧ s.tb.state ≠ .unlocked ∧ s.coordinates = false ∧ s.sectionFree = true ∧ s.seqr.reports = [] ∧ r.seqr.reports ≠ [] ∧
    s.coll.runs = [] ∧ s.coll.entries = [] ∧ s.sectionEntry 1 ≠ 0xFFFF ∧ (1 : BitVec 3) ≠ 0 ∧ e.seqr.stepStatus = [] ∧
    bitAt e.stepctl 15 = false := by decide +kernel

/-- A norm that is finite and one that is not; a sweep; a tensor of one element; a frame to each destination and to none. -/
theorem wit_GradientsDecisionSweepAndFrame :
    let s := stepping 6 0
    let inf : State := { s with coll := { s.coll with rankMap := [(0, 0), (1, 1)] } }
    let hold : State := { s with seqr := { s.seqr with reports := [⟨3, 0, 0⟩], names := { (default : StepNames) with layers := [(0, 3)] } } }
    let tight : State := { s with ss := { s.ss with ctrl := 1, hsize := 64, segs := [⟨0, 0, 0, [1]⟩] } }
    let w : State := { stepping 7 0 with seqr := { (stepping 7 0).seqr with decision := some (0, 0) } }
    let two : State := { w with seqr := { w.seqr with names := { (default : StepNames) with curv := [0x4000] } } }
    let n := s.globalNorm []
    let f (ctrl : W64) : State := { stepping 8 0 with
      ss := { (stepping 8 0).ss with ctrl := ctrl, hsize := 2 ^ 20 }
      prog := { (stepping 8 0).prog with alloc := [⟨0, 2 ^ 21, 9, 0⟩] }
      lnk := { (stepping 8 0).lnk with port := [(31, goodPort)] } }
    let size (x : State) := partsSize (x.stepProv.frameParts false)
    s.stepGoes = true ∧ 4 ≤ s.seqr.phase ∧ s.pendingLayers = [] ∧ s.scattersDone = true ∧ s.engineOn = false ∧
    hold.stepGoes = true ∧ hold.layerOf (hold.recField 0x2000 0 15 0) ∈ hold.pendingLayers ∧ tight.engineOn = true ∧
    tight.stagingSize < tight.staged ∧ (f 2).engineOn = true ∧ (f 2).staged ≤ (f 2).stagingSize ∧ (s.decide_ (f64Sqrt n)).1 = 0 ∧ s.seqr.optRec + 0x80 ≤ hbmTop ∧
    (fp64Of (f64Sqrt (inf.globalNorm [0x7FF0000000000000, 0x7FF0000000000000]))).isInf = true ∧ inf.prog.tag = some 90 ∧ (inf.op 90).isSome = true ∧
    w.seqr.decision = some (0, 0) ∧ w.stepGoes = true ∧ w.emits = true ∧ w.sweepItems.length = 1 ∧ w.sweepItems[0]? = some (false, 0x2000) ∧
    two.seqr.sweepAt + 1 < two.sweepItems.length ∧ two.sweepItems[0]? = some (true, 0x4000) ∧ (f 0).emits = true ∧ (f 0).engineOn = false ∧ (f 2).engineOn = true ∧ (f 2).hostEn = false ∧
    ((f 2).port 31).state.works = true ∧ (f 1).engineOn = true ∧ (f 1).p31En = false ∧ (f 1).ss.gap = false ∧
    (f 1).ss.hostSkip = false ∧ ((f 1).hp ((f 1).ss.ctrl.getLsbD 3)).denied = [] ∧ (f 1).ss.head % (f 1).ss.hsize.toNat + size (f 1) ≤ (f 1).ss.hsize.toNat ∧
    size (f 1) ≤ (f 1).hostRoom ∧ (f 1).ss.hostOut = [] ∧ (f 1).hostOn = true ∧
    (let g : State := { f 1 with ss := { (f 1).ss with hsize := 64, hostOut := [List.replicate 65 0] }, prog := { (f 1).prog with alloc := [] } }
     let d := g.drainHost g.ss.hostOut
     d.ss.hostOut ≠ [] ∧ d.stagingSize < partsSize d.ss.hostOut + partsSize (d.frameParts d.ss.gap)) := by decide +kernel

/-- One element: moments at 0x10000 and 0x10080, master at 0x20000, compute copy at 0x30000, gradient at 0x40000. -/
theorem wit_GradientsDecisionSweepAndFrame_tensor :
    let s := fetched (anOp opWait) [(0x2000, fmtBF16 * 2 ^ 18), (0x2008, 1), (0x2010, 0x20000), (0x2018, 0x10000), (0x2020, 0x40000), (0x2030, 0x30000)]
    let v := 0x10000 + alignUp (4 * s.nown 0x2000) 128
    s.nown 0x2000 = 1 ∧ s.mem64 0x2018 = 0x10000 ∧ s.mem64 0x2010 = 0x20000 ∧ s.mem64 0x2030 = 0x30000 ∧
    (∀ x ∈ [(0x10000, v), (0x10000, 0x20000), (v, 0x20000)], x.1 + 4 ≤ x.2 ∨ x.2 + 4 ≤ x.1) ∧
    (∀ a ∈ [0x10000, v, 0x20000], (a + 4 ≤ 0x30000 ∨ partialAt (s.ccFmt 0x2000) 0x30000 1 + 8 ≤ a) ∧ (a + 4 ≤ 0x2000 ∨ 0x2000 + 0x80 ≤ a) ∧
      a + 4 ≤ hbmTop) := by decide +kernel

/-! ### Witnesses: roots, directions, solves and digests -/

/-- The step of `stepping` with these words in HBM. -/
def withWords (l : List (Nat × Nat)) : State := let s := stepping 4 0; { s with hbm := { s.hbm with mem := words l } }

/-- A layer whose side A of one block of 256 is owned, its root of cadence 1: a block without a fold, and a job that is final. -/
theorem wit_RootsDirectionsAndSolves_roots :
    let s := withWords [(0x4000, 2 ^ 16), (0x4008, 256), (0x4050, 2 ^ 16), (0x4068, 1)]
    let j (best : Option (List W32 × BitVec 64 × Nat)) (idle : Bool) : RootWork :=
      { record := 0x4000, blk := 0, idle := idle, esc := 0, probeFail := false, firstPiv := 0, best := best, iters := 1, conv := false,
        sat := false, final := true, deadline := false, fin := 0, ends := 0 }
    let r (w : RootWork) : State := { s with seqr := { s.seqr with jobs := [w], decision := some (0, 0) } }
    let slot : State := { s with seqr := { s.seqr with names := { (default : StepNames) with slots := [(0, 100)] } } }
    s.stepGoes = true ∧ 4 ≤ s.seqr.phase ∧ s.seqr.phase ≤ 6 ∧ s.rootDue 0x4000 0 = true ∧ s.rootJobOf 0x4000 0 = none ∧
    (∀ w ∈ [j none true, j none false, j (some ([1], 0, 1)) false], (r w).rootJobOf 0x4000 0 = some w ∧ w.statuses = [] ∧
      (r w).seqr.decision ≠ none) ∧
    (s.rootAt 0x4000 0).1 + 8 ≤ hbmTop ∧ (j (some ([1], 0, 1)) false).accepted (s.rootCfg 0x4000).acc = true ∧
    (j none false).accepted (s.rootCfg 0x4000).acc = false ∧ (s.rootAt 0x4000 0).1 + 8 ≤ (s.rootAt 0x4000 0).2 ∧
    slot.inSlot (slot.schedCycle []) = true ∧ slot.slotGoes = true ∧ slot.layerHeld (slot.recField 0x4000 0 15 0) = false ∧
    (∀ t ∈ slot.tiles, t.2.seq.lag = 0) ∧ s.engineOn = false ∧ s.seqr.deadline = 0 := by
  decide +kernel

/-- No tile is late: a schedule cycle is the same for every group of tiles. -/
theorem schedCycle_all (s : State) (h : s.tiles = []) (l : List Nat) : s.schedCycle l = s.schedCycle [] := by
  have z : ∀ (l : List Nat) (m : Nat), l.foldl (fun n t => Nat.max n (s.tile t).seq.lag) m = m := by
    intro l
    induction l with
    | nil => intro m; rfl
    | cons t l ih =>
      intro m
      have h0 : (s.tile t).seq.lag = 0 := by simp only [State.tile, h]; rfl
      simp only [List.foldl_cons, h0, Nat.max_zero]
      exact ih m
  simp [State.schedCycle, State.lagOf, z]

/-- A root job in its slot. -/
theorem wit_RootsDirectionsAndSolves_slot (r j : Nat) :
    let s := stepping 4 0
    let slot : State := { s with seqr := { s.seqr with names := { (default : StepNames) with slots := [(0, 100)] } } }
    slot.inSlot (slot.schedCycle (slot.jobTiles r j)) = true := by
  intro s slot
  rw [schedCycle_all slot (by rfl)]
  decide +kernel

/-- A record of KIND 1 that is good, with J = 1, and one of KIND 0 whose CAMDIM is not 0. -/
theorem wit_RootsDirectionsAndSolves_solves :
    let l (w : Nat) : List (Nat × Nat) := [(0x4000, w), (0x4008, 1 + 2 ^ 32), (0x4010, 1), (0x4020, 0x5000), (0x4028, 0x5000), (0x4030, 0x6000), (0x5000, 0x3F800000)]
    let s (w : Nat) := withWords (l w)
    (s 1).programRuns = true ∧ (s 1).noStop = true ∧ (s 1).gbl.paused = false ∧ (s 1).recov.stage = .none ∧ (s 1).prog.tag = some 90 ∧
    ((s 1).op 90).isSome = true ∧ (s 1).solveOk 0x4000 = true ∧ (s (2 ^ 24)).solveOk 0x4000 = false ∧ 0x4000 + 0x80 ≤ hbmTop ∧
    ((s 1).runSolve 0x4000 default).piv = [] ∧
    ((s 1).runSolve 0x4000 default).statuses = [] := by decide +kernel

/-- A stream that agrees, one that differs for the first time, and again. -/
theorem wit_DigestsAreCollectedAndChecked :
    let s := stepping 4 0
    let d : State := { s with seqr := { s.seqr with wsum := [(7, 1)] } }
    let again : State := { d with recov := { d.recov with digest := some (7, 1) } }
    s.programRuns = true ∧ s.noStop = true ∧ s.gbl.paused = false ∧ s.recov.active = false ∧
    s.dg.log.base.toNat + 32 * (s.dg.log.head % s.dg.log.size) + 32 ≤ hbmTop ∧ ldFinal (Sparse.get 0 s.seqr.wsum 7) 0 = s.ownerOf 7 ∧
    ldFinal (Sparse.get 0 d.seqr.wsum 7) 4 ≠ d.ownerOf 7 ∧ d.seqr.ownFail = false ∧ d.recov.digest ≠ some (7, 1) ∧ d.recov.stage = .none ∧
    again.recov.digest = some (7, 1) ∧ again.ag.stop = none ∧ s.prog.tag = some 90 ∧ (s.op 90).isSome = true ∧
    (let r : State := { s with seqr := { s.seqr with phase := 6, results := [(0, (5, 2))] } }
     r.slotGoes = true ∧ r.resultOf 0 4 = some (5, 2) ∧ r.resultOf 0 0 = none ∧ s.resultOf 0 4 = none) := by decide +kernel

/-! ### Witnesses: the standby -/

/-- The header expected and another; a segment of one difference that agrees and one that does not; a trailer that agrees. -/
theorem wit_StandbyAppliesFrames :
    let rx : FrameRx := { step := 0, nseg := 1, bytes := 64, digs := [3] }
    let s : State := { up with
      ss := { up.ss with ctrl := 0x10, mirrorValid := true, rx := some rx, rtCount := 1, rtBase := 0x1000 }
      hbm := { up.hbm with mem := words [(0x1008, 4)] } }
    let head (v step : Nat) : List Byte := leBytes 8 v ++ leBytes 8 step
    let load := leBytes 4 0
    let seg (dig : Nat) : List Byte := leBytes 8 0 ++ leBytes 8 0 ++ leBytes 8 (2 ^ 32) ++ leBytes 8 dig ++ load
    let tail : List Byte := leBytes 16 0 ++ leBytes 8 (2 ^ 32) ++ leBytes 8 128 ++ leBytes 8 (ld64Pairs [3])
    let ws := unpackDiffs 0 ((wordsOf load).map (BitVec.ofNat 32))
    s.mirrors = true ∧ up.mirrors = false ∧ leNat (((head 1 0).drop 8).take 8) = s.ss.mirrorStep.toNat ∧ leNat ((head 1 0).take 2) = 1 ∧
    leNat (((head 1 5).drop 8).take 8) ≠ s.ss.mirrorStep.toNat ∧ leNat ((head 2 0).take 2) ≠ 1 ∧ s.ss.rx = some rx ∧
    payloadDigest ((seg (payloadDigest load)).drop 32) = leNat (((seg (payloadDigest load)).drop 0x18).take 8) % 2 ^ 61 ∧
    payloadDigest ((seg 0).drop 32) ≠ 0 ∧ 0 < s.ss.rtCount ∧ 0 + ws.length ≤ (s.region 0).2 ∧ (s.region 0).1 + 4 * ws.length ≤ hbmTop ∧
    leNat ((tail.drop 0x14).take 4) = rx.nseg ∧ leNat ((tail.drop 0x18).take 8) = rx.bytes + 64 ∧
    leNat ((tail.drop 0x20).take 8) % 2 ^ 61 = ld64Pairs rx.digs := by decide +kernel

/-- The packing's longest segment is allowed. -/
theorem wit_PackedDifferencesRoundTrip : (List.replicate 4 (1 : W32)).length ≤ segmentWords := by decide

/-! ### Witnesses: faults and recovery -/

/-- Beside a program and without one; the pause in force with nothing, a row, a line or a tile to mend, or a dead pseudo-channel. -/
theorem wit_TileFaultsAndTheRemap :
    let s := launched (anOp opWait)
    let p (rows pch : List (Nat × Nat)) (retire : List Nat) : State := { s with
      gbl := { s.gbl with paused := true }
      recov := { s.recov with stage := .paused, rows := rows, pch := pch, retire := retire } }
    s.recov.stage = .none ∧ s.prog.tag = some 90 ∧ (s.op 90).isSome = true ∧ up.prog.tag = none ∧ (p [] [] []).recov.stage = .paused ∧
    (p [] [] []).gbl.paused = true ∧ ((p [] [] []).gbl.retired || (p [] [] []).anyDead) = false ∧ (p [(0, 4095)] [] []).recov.rows = [(0, 4095)] ∧
    (4095 : Nat) < 4096 ∧ (p [(0, 4095)] [] []).sparesUsed ((p [] [] []).physOf 0) 0 < 32 := by decide +kernel

/-- A restore that begins, one that ends, one whose log overflowed; catch-up before and after the fault's cycle. -/
theorem wit_RestoresAndReplayRecords :
    let s := launched (anOp opWait)
    let r : ReplayPoint := { (default : ReplayPoint) with idx := 2 }
    let at_ (g : RecStage) (full : Bool) (x : Tile) : State := { s with
      tiles := [(0, x)]
      prog := { s.prog with header := [(8, 8), (9, 1), (0x101, 0x21)] }
      recov := { s.recov with current := some r, stage := g, logFull := full, active := true, faultCycle := 5 }
      seqr := { s.seqr with tag := some 90, phase := 4 } }
    let idle : Tile := { Tile.reset with seq := { TileSeq.reset with run := .stopped } }
    let a := at_ .remapped false idle
    a.recov.current = some r ∧ a.recov.stage = .remapped ∧ a.recov.logFull = false ∧ a.recov.pch = [] ∧ a.sectionEntry 2 ≠ 0xFFFF ∧
    a.imageTiles ≠ [] ∧ Sparse.wfFrom Tile.reset 0 a.tiles = true ∧ (at_ .restoring false idle).tilesQuiet = true ∧ a.accessesDone = true ∧
    a.recov.want = [] ∧ a.recheck = none ∧ a.refetched = [] ∧ (at_ .remapped true idle).recov.logFull = true ∧ a.seqr.tag.isSome = true ∧ a.seqr.phase ≤ 6 ∧ (at_ .none false idle).recov.active = true ∧
    (∀ c ∈ (at_ .none false idle).tiles, c.2.seq.run.live = true → 5 ≤ c.2.seq.cycle) ∧
    (∃ c ∈ (at_ .none false issuing).tiles, c.2.seq.run.live = true ∧ c.2.seq.cycle < 5) ∧ s.recov.active = false ∧ s.programRuns = true := by
  decide +kernel

/-- A gathered copy of tensor 0 whose check has failed, of two members: its fetch, and its check again. -/
theorem wit_RestoresAndReplayRecords_fetch :
    let s := stepping 4 0
    let e : CollEntry := { collEntry with type := 2, elems := 4, dst := 0x40000 }
    let r : State := { s with
      coll := { s.coll with
        rankMap := [(0, 0), (1, 1)]
        comms := [{ n := 2, chain := false, placeRoot := false, tree := 0, members := [0, 1] }]
        entries := [e]
        order := [0]
        pos := 1 }
      recov := { s.recov with digest := some (0, 1) } }
    r.refetched.length = 1 ∧ (r.refetched.all fun g => g.2.2 == 0 && r.memberPart g.2.1 1 == some 1) = true ∧
    (match r.recheck with | some x => decide (x.1 = 0 ∧ x.2.1 = 1) | none => false) = true := by decide +kernel

/-- The surviving part of lowest rank and another; after the commit point. -/
theorem wit_LostPartsStopTheDomain :
    let s := launched (anOp opWait)
    let d (m : Sparse Nat) : State := { s with coll := { s.coll with rankMap := m } }
    let late : State := { s with seqr := { s.seqr with tag := some 90, phase := 7 } }
    (1 : Nat) ≠ s.partNo ∧ (0 : Nat) = s.partNo ∧ s.flt.pend = 0 ∧ (late.seqr.tag.isSome = true ∧ 7 ≤ late.seqr.phase) ∧
    s.seqr.tag = none ∧ (d [(0, 1), (1, 0)]).survivor 1 = some s.partNo ∧ (d [(0, 1), (1, 0), (2, 2)]).survivor 0 ≠ some s.partNo ∧
    s.ag.stop = none := by decide +kernel

/-! ### Witnesses: power -/

/-- Readings of 48 sensors: cool, at the limit, hot; 10 ms of readings of 97 °C and one count less. -/
theorem wit_HeatPausesTheDomain :
    let l (v : Int) : List Int := v :: List.replicate 47 50
    let hot (c : Option Nat) : State := { up with pwr := { up.pwr with thermPause := true, coolSince := c }, tb := { up.tb with count := 10000000 } }
    (l 99).length = 48 ∧ up.pwr.thermPause = false ∧ (∀ v ∈ l 99, v < 100) ∧ (∃ v ∈ l 100, 100 ≤ v) ∧ (hot none).pwr.thermPause = true ∧
    (∃ v ∈ l 98, 97 < v) ∧ (∀ v ∈ l 97, v ≤ 97) ∧ (hot none).pwr.coolSince = none ∧ (hot (some 1)).tb.count < 1 + 10000000 ∧
    0 + 10000000 ≤ (hot (some 0)).tb.count := by decide +kernel

theorem wit_LossesEndTheMainDomain :
    up.pins.aux = true ∧ up.pins.mainEn = true ∧ up.pins.pwrgd = true ∧ State.reset.pins.mainEn = false := by decide

/-- 10 mV up after 1 ms, and 11 mV. -/
theorem wit_AvsAsksForVoltage :
    let s : State := { up with tb := { up.tb with count := up.pwr.avsLast + 1000000 } }
    let t : State := { s with pwr := { s.pwr with avsStopped := true } }
    s.avsAllowed (s.pwr.vcore + 10) = true ∧ s.avsAllowed (s.pwr.vcore + 11) = false ∧ t.pins.pwrgd = true ∧ t.pwr.avsStopped = true ∧
    s.pwr.avsStopped = false := by decide +kernel

/-- IDCODE of the two values of the fuse (17 R473). -/
theorem test_tap_idcode :
    (match exec (.tapInstruction .idcode []) up with | .next u => u.tap.dr | _ => 0) = BitVec.ofNat _ (b2n up.fuse.b0 * 2 ^ 28 + 0x0A09001) := by
  decide +kernel

/-! ### Witnesses: resets, boot, flash -/

theorem wit_ResetsLeaveTheResetColumn :
    let off : State := { up with pins := { up.pins with aux := false } }
    let armed : State := { up with lan := { up.lan with journal := up.lan.journal ++ [⟨0x03, 0, 0⟩, ⟨0x05, 0, 0⟩], confirmArmed := true } }
    up.pins.aux = true ∧ off.pins.aux = false ∧ up.alive = true ∧ armed.lan.confirmArmed = true ∧ armed.lan.reErase.phase = .pending ∧
    slotSectors armed.lan.density ≠ 0 := by decide +kernel

/-- An image whose hash is that of its payload; its signature is good where the open check says so. -/
def goodImage : FwImage := { FwImage.factory with hash := Config.sha384 0 }

theorem good_image_valid (l : Lantern) (hk : l.keyGood 0 = true) (hs : Config.sigVerifies 0 0 = true) :
    l.imageValid (.whole goodImage) = true := by
  simp [Lantern.imageValid, FwSlot.image?, goodImage, FwImage.factory, Lantern.signed, Lantern.sigGood, hk, hs]

/-- The slots of the reset state with that image, and a torn running slot. -/
def goodSlots : Lantern := { Lantern.reset with running := .whole goodImage, shadow := .whole goodImage }

/-- IDLE, PENDING with attempts left and without, UPDATING; both slots bad; a start under SYS_RST_N. -/
theorem wit_TheLoaderBootsValidImages (hs : Config.sigVerifies 0 0 = true) :
    let pend (n : W64) : Lantern := { goodSlots with journal := goodSlots.journal ++ [⟨0x03, 0, 0⟩, ⟨0x05, 0, 0⟩, ⟨0x06, n, 0⟩] }
    let upd : Lantern := { goodSlots with journal := goodSlots.journal ++ [⟨0x03, 0, 0⟩] }
    let torn : Lantern := { goodSlots with running := .torn, shadow := .torn }
    goodSlots.reErase.imageValid goodSlots.reErase.running = true ∧ goodSlots.reErase.phase = .idle ∧ (pend 2).reErase.phase = .pending ∧
    (pend 2).reErase.attempts = 2 ∧ (pend 3).reErase.attempts = 3 ∧ upd.reErase.phase = .updating ∧
    torn.reErase.imageValid torn.reErase.running = false ∧ torn.reErase.imageValid torn.reErase.shadow = false ∧
    State.reset.pins.aux = true ∧ State.reset.pins.sysRst = false :=
  ⟨good_image_valid _ (by decide) hs, by decide⟩

/-- Before the main rails, while HBM trains (the last retry of stack 7), before and after the last stack, at READY. -/
theorem wit_BootRunsToReady :
    let at_ (p : BootPhase) (t : Sparse Bool) : State := { up with pwr := { up.pwr with phase := p, hbmTrained := t, hbmRetries := [(7, 2)] } }
    let all : Sparse Bool := (List.range 8).map fun k => (k, true)
    (at_ .mainRequested []).alive = true ∧ (at_ .booting []).pwr.phase = .booting ∧ Sparse.get false (at_ .booting []).pwr.hbmTrained 7 = false ∧
    Sparse.get 0 up.hbm.dead 7 = 0 ∧ 2 ≤ Sparse.get 0 (at_ .booting []).pwr.hbmRetries 7 ∧ Sparse.get 0 (at_ .booting []).pwr.hbmRetries 6 < 2 ∧
    (at_ .booting []).stacksDone = false ∧ (at_ .booting all).stacksDone = true ∧ (at_ .scrubbed all).alive = true ∧ up.pins.mainEn = true := by
  decide +kernel

theorem wit_PerstResetsOneHostPort :
    let s : State := { up with pins := { up.pins with perstA := false, perstB := true }, pwr := { up.pwr with strapHeld := 0xF } }
    s.perstHigh true = true ∧ s.perstHigh false = false ∧ s.pins.pwrgd = true ∧ s.portEnabled false = true ∧ ringPort 0 = false ∧
    ringPort 127 = true := by decide +kernel

theorem wit_ConfirmationEndsTheTrial :
    let s : State := { up with lan := { up.lan with journal := up.lan.journal ++ [⟨0x03, 0, 0⟩, ⟨0x05, 0, 0⟩] } }
    s.lan.phase = .pending ∧ s.pwr.procs = true ∧ s.ready = true ∧ s.lan.inForce.valid = true ∧ up.lan.phase ≠ .pending := by decide +kernel

/-- An erase and a program, at the first sector of the running slot, its last, and the last of the shadow slot. -/
theorem wit_FlashSectorsAreWrittenInTurn :
    let at_ (n : Nat) (er : Bool) : State := { up with lan := { up.lan with flashOp := some n, flashErase := er, staging := some goodImage } }
    up.lan.flashOp = none ∧ (16 : Nat) ≤ 16 ∧ (at_ 16 true).lan.flashErase = true ∧ (at_ 16 false).lan.slotLast 16 = false ∧
    (at_ 519 false).lan.slotLast 519 = true ∧ (at_ 519 false).lan.inShadow 519 = false ∧ (at_ 1023 false).lan.slotLast 1023 = true ∧
    (at_ 1023 false).lan.inShadow 1023 = true ∧ (at_ 16 false).mailboxUp = true ∧ State.reset.mailboxUp = false := by decide +kernel

/-! ### Witnesses: messages and updates -/

theorem wit_ControlMessagesAreAnswered_MonitoringReadsThePart :
    let rom : State := { up with pwr := { up.pwr with phase := .romHalted } }
    let rec_ : State := { up with pwr := { up.pwr with phase := .recovery } }
    up.controlUp = true ∧ State.reset.controlUp = false ∧ up.pldmUp = true ∧ rom.pldmUp = false ∧ up.monitorUp = true ∧ rec_.monitorUp = false ∧
    up.lan.running = .whole FwImage.factory ∧ (47 : Nat) < 48 := by decide +kernel

/-- An update in a state, of a component, with so many bytes received of 64. -/
def inUpdate (u : UpdState) (comp got : Nat) : State := { up with
  lan := { goodSlots with upd := u, component := comp, compSize := 64, received := got, maxTransfer := 32, staging := some goodImage } }

/-- Each state; pieces in order and not; in recovery boot. -/
theorem wit_UpdatesGoThroughTheirStates :
    let d := inUpdate .download 0 32
    let r : State := { d with gbl := { d.gbl with recovery := true } }
    let fits (off len : Nat) := decide (off = d.lan.received ∧ len ≤ d.lan.maxTransfer ∧ off + len ≤ d.lan.compSize)
    up.pldmUp = true ∧ up.lan.upd = .idle ∧ (inUpdate .learn 0 0).lan.upd = .learn ∧ d.lan.updBus = false ∧ d.lan.upd ≠ .ready ∧
    (inUpdate .ready 0 0).gbl.recovery = false ∧ r.gbl.recovery = true ∧ fits 32 32 = true ∧ fits 31 1 = false ∧ fits 32 33 = false ∧
    r.lan.updStarted = false ∧ 65536 * r.lan.slotSize < 67108865 ∧ (inUpdate .download 0 64).lan.received = (inUpdate .download 0 64).lan.compSize ∧
    d.lan.received ≠ d.lan.compSize := by decide +kernel

/-- A good image and a bad one; the shadow copy whole and open; keys with a good root signature; read back. -/
theorem wit_ImagesAreVerifiedAndApplied (hs : Config.sigVerifies 0 0 = true) :
    let s := inUpdate .verify 0 64
    let bad : FwImage := { goodImage with magic := 0 }
    let half : State := { s with lan := { s.lan with journal := [⟨0x01, 0, 0⟩] } }
    s.stagedGood goodImage = true ∧ s.lan.shadowValid = true ∧ s.lan.imageValid s.lan.running = true ∧ s.stagedGood bad = false ∧
    half.lan.shadowValid = false ∧ s.lan.component = 0 ∧ (inUpdate .verify 1 64).lan.component ≠ 0 ∧ s.pldmUp = true ∧ s.lan.updBus = false ∧
    s.gbl.recovery = false ∧ (inUpdate .apply 0 64).lan.flashOp = none ∧ s.lan.upd ≠ .apply := by
  have hv : (inUpdate .verify 0 64).lan.imageValid (.whole goodImage) = true := good_image_valid _ (by decide) hs
  refine ⟨?_, ?_, hv, ?_, ?_, by decide⟩
  · simp only [State.stagedGood, hv]; decide
  · show (_ && (inUpdate .verify 0 64).lan.imageValid (.whole goodImage)) = true
    rw [hv]; decide
  · simp [State.stagedGood, goodImage]
  · have hj : (Lantern.jstate { (inUpdate .verify 0 64).lan with journal := [⟨0x01, 0, 0⟩] }).closed = false := by decide
    simp only [Lantern.shadowValid, hj, Bool.false_and]

theorem wit_UpdatesActivateOrAreCancelled :
    let a := inUpdate .activate 0 64
    let busy : State := { a with q := { a.q with ops := [(100, some (anOp opWait))] } }
    let late : State := { inUpdate .apply 0 64 with lan := { (inUpdate .apply 0 64).lan with updStarted := true } }
    a.lan.upd = .activate ∧ a.lan.updBus = false ∧ busy.q.ops ≠ [] ∧ a.q.ops = [] ∧ (inUpdate .download 0 0).lan.updStarted = false ∧
    late.lan.updStarted = true ∧ up.lan.upd ≠ .activate := by decide +kernel

/-! ### Witnesses: the whole machine -/

/-- The canonical forms, beside a listed byte and a listed tile, before a step that answers. -/
theorem wit_StepsKeepMemoryCanonical_StepsKeepTilesCanonical :
    let s : State := { oneTile issuing with hbm := { up.hbm with mem := [(5, 1)] }, pending := [.countTick] }
    s.MemoryCanonical ∧ s.TilesCanonical ∧ (match step s with | .next u => u.pending | _ => s.pending) = [] := by
  refine ⟨by unfold State.MemoryCanonical; decide +kernel, ⟨by decide +kernel, fun v h => by cases h⟩, by decide +kernel⟩

/-- An empty queue idles (log entry 1). -/
theorem test_idle : (match step up with | .next u => decide (u = up) | _ => false) = true := by decide +kernel

/-- A command of the queue's front is taken from it (the queue of 16 R449). -/
theorem test_front : (match step { up with pending := [.countTick, .ppsLost] } with | .next u => (u.tb.count, u.pending) | _ => (0, [])) = (1, [.ppsLost]) := by
  decide +kernel

/-! ### Examples of the manual -/

/-- 16 R429–R433: the register of ring 70 at its offset. -/
theorem test_ring_70_config : ringed.regRead 0x22310 = (ringed.work 70).cfg := by decide +kernel

/-- 15 R402, R403: CURRENT 3, slots at epochs 3 and 4. An image signed at both is accepted where both signatures verify; CURRENT 4
refuses one signed at epoch 3 alone. -/
theorem test_key_epochs (h3 : Config.sigVerifies 0 3 = true) (h4 : Config.sigVerifies 0 4 = true) :
    let l (n : Nat) : Lantern := { Lantern.reset with keyA := some { seq := 1, current := n, ep0 := 3, rev0 := false, ep1 := 4, rev1 := false, rootOk := true } }
    let i (b : Option Nat) : FwImage := { FwImage.factory with sig0 := some 3, sig1 := b }
    (l 3).signed (i (some 4)) = true ∧ (l 4).signed (i none) = false ∧ (l 4).signed (i (some 4)) = false := by
  have k3 : ({ Lantern.reset with keyA := some { seq := 1, current := 3, ep0 := 3, rev0 := false, ep1 := 4, rev1 := false, rootOk := true } } : Lantern).keyGood 3 = true := by
    decide
  have k4 : ({ Lantern.reset with keyA := some { seq := 1, current := 3, ep0 := 3, rev0 := false, ep1 := 4, rev1 := false, rootOk := true } } : Lantern).keyGood 4 = true := by
    decide
  have n3 : ({ Lantern.reset with keyA := some { seq := 1, current := 4, ep0 := 3, rev0 := false, ep1 := 4, rev1 := false, rootOk := true } } : Lantern).keyGood 3 = false := by
    decide
  simp [Lantern.signed, Lantern.sigGood, FwImage.factory, k3, k4, n3, h3, h4]

/-- The debug window of logical tile 517 shows CNT[3] in its register block (16 R445, R446). -/
theorem test_debug_window_count :
    let s := up.setTile 517 { issuing with seq := { at_ 3 with cnt := [(3, 0xA5)] } }
    s.debugRead false 0x40B4804C 4 = [0xA5, 0, 0, 0] := by decide +kernel

/-- Zeros of both signs, a subnormal, an infinity and a NaN beside the exponents 254 and 255: a group that fits with k = 2 (08 R221). -/
def aGroup : List Nat := [0x0000, 0x8000, 0x0001, 0x7F80, 0x7FC1, 0x7F01, 0xFF7F] ++ List.replicate 57 0x7F80

theorem wit_PlanePackedGroupsRoundTrip :
    aGroup.length = 64 ∧ (∀ x ∈ aGroup, x < 2 ^ 16) ∧ groupFits 2 aGroup = true ∧ (0 : Nat) < sharePlaces 131072 + sharePlaces 0 := by
  decide +kernel

/-- 08 R221: 82, 90 and 98 bytes, and every bit back; an exponent 15 below EMAX does not fit with k = 4. -/
theorem test_plane_packing :
    (packGroup 2 aGroup).length = 82 ∧ (packGroup 3 aGroup).length = 90 ∧ (packGroup 4 aGroup).length = 98 ∧
    unpackGroup 2 (packGroup 2 aGroup) = aGroup ∧ groupFits 4 (0x7800 :: aGroup.drop 1) = false ∧
    groupFits 4 (0x7880 :: aGroup.drop 1) = true := by decide +kernel

end Sys2Proof.Tests
end

section
/-!
PROOFS. Integer formats (01 R16): the value of an element, and the vector sums, differences and products.
-/

namespace Sys2Proof.Machine

/-- Two's complement: an element below 2^(w−1) is its own value, any other lies 2^w below it. -/
theorem intVal_of_lt {f x : Nat} (hf : elemFmt f ≠ 13) (hx : x < 2 ^ fmtBits f) :
    intVal f x = if x < 2 ^ (fmtBits f - 1) then (x : Int) else (x : Int) - 2 ^ fmtBits f := by
  rw [intVal, if_neg hf, signed, Nat.mod_eq_of_lt hx]

theorem intVal_uint8 {x : Nat} (hx : x < 256) : intVal fmtUINT8 x = x := by
  rw [intVal, if_pos (by decide), Nat.mod_eq_of_lt hx]

/-- Bits above the width do not reach a bit vector. -/
theorem ofNat_mod_two_pow (w n : Nat) : BitVec.ofNat w (n % 2 ^ w) = BitVec.ofNat w n :=
  BitVec.eq_of_toNat_eq (by simp)

section Wrap
variable (f a b : Nat)

theorem intAdd_lt : (intAdd f a b).1 < 2 ^ fmtBits f := Nat.mod_lt _ (Nat.two_pow_pos _)

theorem intSub_lt : (intSub f a b).1 < 2 ^ fmtBits f := Nat.mod_lt _ (Nat.two_pow_pos _)

theorem intMul_lt : (intMul f a b).1 < 2 ^ fmtBits f := Nat.mod_lt _ (Nat.two_pow_pos _)

/-- The sum of a format of any width is that of its bit vectors. -/
theorem ofNat_intAdd :
    BitVec.ofNat (fmtBits f) (intAdd f a b).1 = BitVec.ofNat (fmtBits f) a + BitVec.ofNat (fmtBits f) b := by
  rw [intAdd, ofNat_mod_two_pow, BitVec.ofNat_add]

theorem ofNat_intMul :
    BitVec.ofNat (fmtBits f) (intMul f a b).1 = BitVec.ofNat (fmtBits f) a * BitVec.ofNat (fmtBits f) b := by
  rw [intMul, ofNat_mod_two_pow, BitVec.ofNat_mul]

variable {f b} in
/-- The 2^w that the model adds to keep the difference a natural number is lost with the bits above the width. -/
theorem ofNat_intSub (hb : b ≤ 2 ^ fmtBits f) :
    BitVec.ofNat (fmtBits f) (intSub f a b).1 = BitVec.ofNat (fmtBits f) a - BitVec.ofNat (fmtBits f) b := by
  have hsum : a + 2 ^ fmtBits f - b + b = a + 2 ^ fmtBits f := by omega
  rw [intSub, ofNat_mod_two_pow, BitVec.eq_sub_iff_add_eq, ← BitVec.ofNat_add, hsum, ← ofNat_mod_two_pow,
    Nat.add_mod_right, ofNat_mod_two_pow]

end Wrap

/-- Settles O9: two's complement from `intVal_of_lt`, wrapping from the bit vectors of the format's width. -/
theorem integerArithmeticWraps : Obligations.IntegerArithmeticWraps := by
  refine ⟨fun f hf x hx => ?_, fun x hx => ?_, fun fw hfw a b _ hb => ?_⟩
  · have hsigned : ∀ f ∈ [fmtINT8, fmtINT32, fmtINT64], elemFmt f ≠ 13 := by decide
    exact intVal_of_lt (hsigned f hf) hx
  · rw [intVal_uint8 hx]
    omega
  · have hwidth : ∀ fw ∈ [(fmtINT32, 32), (fmtINT64, 64)], fw.2 = fmtBits fw.1 := by decide
    obtain ⟨f, w⟩ := fw
    obtain rfl : w = fmtBits f := hwidth _ hfw
    exact ⟨rfl, rfl, rfl, ofNat_intAdd f a b, ofNat_intSub a (Nat.le_of_lt hb), ofNat_intMul f a b,
      intAdd_lt f a b, intSub_lt f a b, intMul_lt f a b⟩

end Sys2Proof.Machine
end

section
/-!
PROOFS. The comparison table (01 R43): zeros and infinities as values, their order, and a NaN beside a number.
-/

namespace Sys2Proof.Machine

theorem isInt_of_mem_floats : ∀ f ∈ [fmtFP16, fmtBF16, fmtFP32, fmtFP64], isInt f = false := by decide

/-- A zero's bits are a zero of that sign, in the four floating formats of the vector engine. -/
theorem decodeVal_zeroBits : ∀ f ∈ [fmtFP16, fmtBF16, fmtFP32, fmtFP64], ∀ s : Bool,
    decodeVal f (zeroBits f s) = .fin s 0 (1 - (fpBias f : Int) - manBits f) := by decide

theorem decodeVal_infBits : ∀ f ∈ [fmtFP16, fmtBF16, fmtFP32, fmtFP64], ∀ s : Bool,
    decodeVal f (infBits f s) = .inf s := by decide

/-- Zeros of any signs and exponents are equal numbers. -/
theorem valCmp_zero_zero (s t : Bool) (e g : Int) : valCmp (.fin s 0 e) (.fin t 0 g) = (false, true) := by
  have hzero : ∀ u : Bool, sgnNat u 0 = 0 := by decide
  simp [valCmp, hzero, dyLt, dyLe]

theorem valCmp_inf_inf (s t : Bool) : valCmp (.inf s) (.inf t) = (s && !t, decide (s = t)) := by
  simp [valCmp, valLt]

/-- What signals, of a number and a NaN in either order, is the NaN. -/
theorem anySignalling_number_nan {f x n : Nat} {sig : Bool} (hx : (decodeVal f x).isNan = false)
    (hn : decodeVal f n = .nan sig) : anySignalling f [x, n] = sig ∧ anySignalling f [n, x] = sig := by
  cases hv : decodeVal f x with
  | nan => simp [hv, FVal.isNan] at hx
  | inf => simp [anySignalling, hv, hn]
  | fin => simp [anySignalling, hv, hn]

/-- A statement about every relation is a row of the table. -/
theorem CmpRel.row_of_forall {P : CmpRel → Prop} (h : ∀ r, P r) : P .eq ∧ P .ne ∧ P .lt ∧ P .le ∧ P .gt ∧ P .ge :=
  ⟨h .eq, h .ne, h .lt, h .le, h .gt, h .ge⟩

section Cmp
variable (r : CmpRel) (st : Bool) {f a b : Nat}

/-- Two numbers compare by their order, with no flag. -/
theorem fpCmp_of_not_nan (hf : isInt f = false) (ha : (decodeVal f a).isNan = false) (hb : (decodeVal f b).isNan = false) :
    fpCmp r st f a b = (if r.holds (valCmp (decodeVal f a) (decodeVal f b)).1 (valCmp (decodeVal f a) (decodeVal f b)).2
      then 2 ^ fmtBits f - 1 else 0, 0) := by
  simp [fpCmp, hf, ha, hb]

/-- A NaN operand: only NE holds; the ordered relations raise IV, EQ and NE only where a STRICT operand signals. -/
theorem fpCmp_of_nan (hf : isInt f = false) (hn : (decodeVal f a).isNan = true ∨ (decodeVal f b).isNan = true) :
    fpCmp r st f a b = (if r = .ne then 2 ^ fmtBits f - 1 else 0,
      flagIf ((st && anySignalling f [a, b]) || !(r == .eq || r == .ne)) fIV) := by
  simp [fpCmp, hf, hn]

theorem fpCmp_zeros (hf : f ∈ [fmtFP16, fmtBF16, fmtFP32, fmtFP64]) (s t : Bool) :
    fpCmp r st f (zeroBits f s) (zeroBits f t) = (if r.holds false true then 2 ^ fmtBits f - 1 else 0, 0) := by
  have hs := decodeVal_zeroBits f hf s
  have ht := decodeVal_zeroBits f hf t
  rw [fpCmp_of_not_nan r st (isInt_of_mem_floats f hf) (by rw [hs]; rfl) (by rw [ht]; rfl), hs, ht, valCmp_zero_zero]

theorem fpCmp_infs (hf : f ∈ [fmtFP16, fmtBF16, fmtFP32, fmtFP64]) (s t : Bool) :
    fpCmp r st f (infBits f s) (infBits f t) =
      (if r.holds (s && !t) (decide (s = t)) then 2 ^ fmtBits f - 1 else 0, 0) := by
  have hs := decodeVal_infBits f hf s
  have ht := decodeVal_infBits f hf t
  rw [fpCmp_of_not_nan r st (isInt_of_mem_floats f hf) (by rw [hs]; rfl) (by rw [ht]; rfl), hs, ht, valCmp_inf_inf]

/-- A number and a NaN, in either order. -/
theorem fpCmp_number_nan {x n : Nat} {sig : Bool} (hf : isInt f = false) (hx : (decodeVal f x).isNan = false)
    (hn : decodeVal f n = .nan sig) :
    let res : Res := (if r = .ne then 2 ^ fmtBits f - 1 else 0, if r = .eq ∨ r = .ne then flagIf (st && sig) fIV else fIV)
    fpCmp r st f x n = res ∧ fpCmp r st f n x = res := by
  have hnan : (decodeVal f n).isNan = true := by rw [hn]; rfl
  obtain ⟨hxn, hnx⟩ := anySignalling_number_nan hx hn
  rw [fpCmp_of_nan r st hf (.inr hnan), fpCmp_of_nan r st hf (.inl hnan), hxn, hnx]
  cases r <;> simp [flagIf]

end Cmp

/-- Settles O11: the rows of zeros, of infinities, and of a number and a NaN in either order. -/
theorem comparisonTable : Obligations.ComparisonTable := by
  intro f hf st
  refine ⟨?zeros, ?zeros', ?infs, ?infs', fun x n sig hx hn => ⟨?_, ?_⟩⟩
  case zeros => exact CmpRel.row_of_forall fun r => fpCmp_zeros r st hf true false
  case zeros' => exact CmpRel.row_of_forall fun r => fpCmp_zeros r st hf false true
  case infs => exact CmpRel.row_of_forall fun r => fpCmp_infs r st hf true false
  case infs' => exact CmpRel.row_of_forall fun r => fpCmp_infs r st hf false false
  · exact CmpRel.row_of_forall fun r => (fpCmp_number_nan r st (isInt_of_mem_floats f hf) hx hn).1
  · exact CmpRel.row_of_forall fun r => (fpCmp_number_nan r st (isInt_of_mem_floats f hf) hx hn).2

end Sys2Proof.Machine
end
